-- ==== Sys2Proof/Word.lean ====
section
/-! DEFINITION. The word types of the Rharal and their plainest arithmetic. -/

namespace Sys2Proof

/-- One byte of any memory of the package (R14: multi-byte values are little-endian). -/
abbrev Byte := BitVec 8

/-- A register word, an FP32 bit pattern or any other 32-bit quantity (R22). -/
abbrev Word := BitVec 32

/-- A 64-bit quantity: a sync object's value, a system address, a stage word. -/
abbrev DWord := BitVec 64

end Sys2Proof
end

