-- ==== Sys2Proof/Syntax.lean ====
section
/-! DEFINITION. The commands of the block: one constructor of `Instr` per row of spec/opcode_table.json.
Outside stimuli carry the fields of the request that makes them; a command of a descriptor carries the handle
of its operation (which DESCRIPTOR_FETCH has put into the state); an internal event carries what it concerns. -/

namespace Sys2Proof

/-- A host-transport request as a module carries it (Table 2 of *Host port, commands and handles*);
`data` is the payload, little-endian, empty for a read. -/
structure HostReq where
  module : Fin 64
  tenant : BitVec 4
  hint   : BitVec 2
  attr   : BitVec 2
  tag    : BitVec 16
  addr   : BitVec 44
  data   : List Byte
deriving DecidableEq, Repr

/-- Who makes a register access (R593, R729, R764): a tenant through a host-port module with a TAG, the
management I3C target, or the test port's REG_READ; the latter two act as the control tenant. -/
inductive Requester where
  | host (module : Fin 64) (tenant : BitVec 4) (tag : BitVec 16)
  | i3c
  | tap
deriving DecidableEq, Repr

/-- A Hazel frame (Table 2 of *Hazel fabric and memory-side collectives*); LEN is `payload.length`. -/
structure Frame where
  type    : BitVec 8
  flags   : BitVec 8
  src     : BitVec 13
  dst     : BitVec 13
  spid    : DWord
  plan    : Word
  step    : Word
  attempt : BitVec 8
  tenant  : BitVec 4
  vc      : BitVec 4
  group   : BitVec 14
  pticket : Word
  addr    : BitVec 44
  sigAdd  : Word
  stream  : Word
  prior   : Word
  aux     : Word
  cretVc  : BitVec 4
  cret    : BitVec 16
  crc     : Word
  payload : List Byte
deriving DecidableEq, Repr

/-- What starts a COLD reset (Table 2 of *Start-up, reset and link training*). -/
inductive ColdCause where
  | resetN
  | railLeavesRange
  | resetCtrl (req : Requester) (value : Word)
deriving DecidableEq, Repr

/-- What starts a WARM reset (Table 2 of *Start-up, reset and link training*). -/
inductive WarmCause where
  | warmN
  | resetCtrl (req : Requester) (value : Word)
deriving DecidableEq, Repr

/-- What starts a HUB_RECOVER (R630). -/
inductive RecoverCause where
  | recoverN
  | recoverCtrl (req : Requester) (value : Word)
deriving DecidableEq, Repr

/-- The dispatched engines of R596. -/
inductive Engine where
  | ue (n : Fin 320)
  | pipSequencer (stack : Fin 4)
  | actPath (stack : Fin 4)
  | digestUnit
deriving DecidableEq, Repr

/-- A spine link (Table 3 of *The die set and one training step*). -/
inductive SpineLink where
  | hubBase (n : Fin 4)
  | bridgeBase (m : Fin 2) (n : Fin 4)
  | bridgeHub (m : Fin 2)
deriving DecidableEq, Repr

/-- An SRAM that holds data on its way to a home, with an uncorrectable word, or a site that SEC-DED has corrected (R556, R564): a sector of
a home cache (die 0 to 3 a base die, 4 and 5 a bridge), a transaction group's write-set store, a chunk of an adder's buffer by its
address, a contribution in the reorder store, a piece in a push buffer. -/
inductive SramSite where
  | cache (die : Fin 6) (line : Nat) (second : Bool)
  | writeSet (group : Fin 64)
  | adder (chunk : Nat)
  | reorder (handle : Word)
  | push (queue : Fin 256) (pushId : BitVec 16) (offset : BitVec 20)
  | corrected (die : Fin 7) (words : Nat)
deriving DecidableEq, Repr

/-- What time has done to the stored bits since the last patrol read (R426, R484; log 127): symbols of one stored sector changed, as
pairs of a symbol number 0 to 35 and the bits that differ; or what the next read of one 32 B burst of a bridge channel will meet, the
attempts in a row that its link ECC finds uncorrectable and the bursts that it corrects; or a word of an SRAM. -/
inductive Upset where
  | sector (channel : Fin 256) (bank : Fin 48) (row sector : Nat) (flips : List (Nat × Byte))
  | link (bridge : Fin 2) (channel : Fin 32) (rank : Fin 2) (bank : Fin 16) (row column : Nat) (fails corrected : Nat)
  | sram (site : SramSite)
deriving DecidableEq, Repr

/-- A transfer of Table's R429 rows over a channel's lanes. -/
inductive Transfer where
  | packet
  | writeData
  | readData
deriving DecidableEq, Repr

/-- What becomes of a transfer under R429 and R430: its present attempt fails, it passes, or the retrain that its fifth failure has
started ends with the lanes found failed. -/
inductive Attempt where
  | fails
  | passes
  | retrained (lanes : List Nat)
deriving DecidableEq, Repr

/-- A core behind an IEEE 1500 wrapper (R763): a UE, a channel controller by package channel, or another core of the die. -/
inductive CoreId where
  | ue (n : Fin 320)
  | channel (n : Fin 256)
  | hintCache (stack : Fin 4)
  | other (kind n : Nat)
deriving DecidableEq, Repr

/-- The boot flash as FIRMWARE_BOOT reads it (R706, R708): whether it offers SFDP tables and a quad read, its bytes from offset 0, whether
Acorn B finds the digest that A recorded, and which Acorn passes its self-test. -/
structure FlashView where
  sfdp    : Bool
  quad    : Bool
  flash   : List Byte
  agree   : Bool
  aPasses : Bool
  bPasses : Bool
deriving DecidableEq, Repr

/-- One current and voltage sample of a Husk channel (R641): the shunt voltage in nV, the rail voltage in µV. -/
structure HuskSample where
  shuntNv : Int
  railUv  : Int
deriving DecidableEq, Repr

/-- What a restart of the Acorns meets (R631, R633): whether the retained firmware copy checks, whether a
reload from flash authenticates, and which Acorn passes its self-test. -/
structure RestartView where
  copyOk   : Bool
  reloadOk : Bool
  aPasses  : Bool
  bPasses  : Bool
  aFirst   : Bool
deriving DecidableEq, Repr

/-- The answer of one member of a replica group in a digest comparison (R570): its tile digests of the committed
slot of the compared step, or none where it has no slot of that step. -/
structure MemberDigest where
  pkg    : BitVec 13
  tiles  : Option (List DWord)
deriving DecidableEq, Repr

/-- The bytes a source package sends for a tile's repair (R575): the tile's fields in field order, the shard's
committed header, the tile's narrow bytes, and whether any byte was poisoned there (R578). -/
structure RepairData where
  source   : BitVec 13
  stepNo   : DWord
  fields   : List Byte
  header   : List Byte
  narrow   : List Byte
  poisoned : Bool
deriving DecidableEq, Repr

/-- The commands of the block, in the order of spec/opcode_table.json. -/
inductive Instr where
  -- host transport
  | mrd64 (r : HostReq)
  | mwr64 (r : HostReq)
  | pushWrite (r : HostReq)
  | srd32 (r : HostReq)
  | swr32 (r : HostReq)
  | db (r : HostReq)
  | regRd (r : HostReq)
  | regWr (r : HostReq)
  | badTypeRequest (type : BitVec 8) (r : HostReq)
  -- command front end
  | descriptorFetch (queue : Fin 256)
  | completionRecordWrite (handle : Word)
  | eventRecordWrite (tenant : Fin 16) (code : BitVec 16)
  -- commands of descriptors, and what belongs to them
  | nop (handle : Word)
  | planRun (handle : Word)
  | planRunStart (handle : Word)
  | planRunDone (handle : Word)
  | signal (handle : Word)
  | wait (handle : Word)
  | waitTimeout (handle : Word)
  | fence (handle : Word)
  | copy (handle : Word)
  | convert (handle : Word)
  | transposeIn (handle : Word)
  | transposeOut (handle : Word)
  | accum (handle : Word)
  | ticketApply (tile : BitVec 44)
  | reduce (handle : Word)
  | gather (handle : Word)
  | norm (handle : Word)
  | collectiveStart (handle : Word)
  | sweepSpec (handle : Word)
  | sweepRedo (handle : Word)
  | commit (handle : Word)
  | abort (handle : Word)
  | digest (handle : Word) (answers : List MemberDigest)
  | repair (handle : Word) (data : List RepairData)
  | pimRun (handle : Word)
  | zero (handle : Word)
  | migrate (handle : Word)
  | pin (handle : Word)
  | snapshot (handle : Word)
  | actStore (handle : Word)
  | actLoad (handle : Word)
  | rngFill (handle : Word)
  | draw (handle : Word)
  | initParams (handle : Word)
  | txgBegin (handle : Word)
  | txgEnd (handle : Word)
  | txgEnding (group : Fin 64)
  | lockGrant (line : BitVec 37) (group : Fin 64)
  | lockTimeout (line : BitVec 37) (group : Fin 64)
  | ctxSave (handle : Word)
  | ctxRestore (handle : Word)
  | cfgStage (handle : Word)
  | cfgCommit (handle : Word)
  | quietPointSwitch
  | quietTimeout
  | pushOrphanTimeout (queue : Fin 256) (pushId : BitVec 16) (offset : BitVec 20)
  -- register writes and reads with rows of their own
  | cqHeadWrite (req : Requester) (queue : Fin 256) (value : Word)
  | evtHeadWrite (req : Requester) (tenant : Fin 16) (value : Word)
  | discard (req : Requester) (value : Word)
  | shWrite (req : Requester) (offset : Word) (value : Word)
  | paceLimitsWrite (req : Requester) (value : Word)
  | lkWrite (req : Requester) (value : Word)
  | minSvnWrite (req : Requester) (value : Word)
  | arm (req : Requester) (value : Word)
  | dropSelf (req : Requester) (value : Word)
  | keepDropDelay
  | syncAdd (req : Requester) (sync : BitVec 14) (value : Word)
  | setLo (req : Requester) (sync : BitVec 14) (value : Word)
  | setHi (req : Requester) (sync : BitVec 14) (value : Word)
  | valueLoRead (req : Requester) (sync : BitVec 14)
  | tenNumLoRead (req : Requester)
  | totalsClear (req : Requester) (value : Word)
  | marginRun (req : Requester) (stack : Fin 4) (value : Word)
  | umarginRun (req : Requester) (stack : Fin 4) (value : Word)
  | tbMarginRun (req : Requester) (bridge : Fin 2) (value : Word)
  | marginRunEnd (run : Fin 10) (errors : BitVec 32)
  | laneRetire (req : Requester) (die : Fin 6) (value : Word)
  | rngTestRestart (req : Requester) (die : Fin 6) (value : Word)
  | rngTestStep (req : Requester) (die : Fin 6) (value : Word)
  -- management I3C
  | i3cRegRd (offset : Word)
  | i3cRegWr (offset : Word) (value : Word)
  | i3cBadCommand (bytes : List Byte)
  -- resets, recovery and power states
  | coldReset (cause : ColdCause)
  | warmReset (cause : WarmCause) (restart : RestartView)
  | portResetGroup (req : Requester) (value : Word)
  | portResetHazel (req : Requester) (value : Word)
  | hubRecover (cause : RecoverCause) (restart : RestartView)
  | lead (req : Requester) (value : Word)
  | retain (req : Requester) (value : Word)
  | retainEntry
  | retainRefuse
  | wake (req : Requester) (value : Word) (restart : RestartView)
  | l1Entry (group : Fin 16)
  | l1Exit (group : Fin 16)
  -- the training step
  | speculativeSweep (shard : BitVec 16)
  | sweepComplete (shard : BitVec 16)
  | sweepStop (shard : BitVec 16) (swept : List (Fin 320 × Nat))
  | ueFault (ue : Fin 320) (residue : Bool)
  | packageTripleEntry (tenant : Fin 16)
  | commitFlip (tenant : Fin 16)
  | gatherFlip (tenant : Fin 16) (layer : Nat)
  | accumulatorZeroing (tenant : Fin 16)
  | phaseDispatch (engine : Engine) (tenant : Fin 16)
  | digestComparison (shard : BitVec 16) (answers : List MemberDigest)
  | tileRepair (shard : BitVec 16) (tile : Nat) (data : RepairData)
  -- Hazel frames, each with the port it arrives on
  | write (port : Fin 18) (f : Frame)
  | acc (port : Fin 18) (f : Frame)
  | set (port : Fin 18) (f : Frame)
  | narrow (port : Fin 18) (f : Frame)
  | triple (port : Fin 18) (f : Frame)
  | verdict (port : Fin 18) (f : Frame)
  | serve (port : Fin 18) (f : Frame)
  | status (port : Fin 18) (f : Frame)
  | drop (port : Fin 18) (f : Frame)
  | recover (port : Fin 18) (f : Frame)
  | credit (port : Fin 18) (f : Frame)
  | link (port : Fin 18) (f : Frame)
  | badFrameType (port : Fin 18) (f : Frame)
  | frameReplay (port : Fin 18) (uncorrectable : Bool)
  | heldFrameRelease (index : Nat)
  | streamCountTimeout (src : BitVec 13) (stream : Word) (group : BitVec 14)
  | hazelLaneFailure (port : Fin 18) (lane : Fin 8)
  | hazelPortTrained (port : Fin 18) (peer : BitVec 13) (spid : DWord) (width : BitVec 2)
  | lossOfSignal (dim : Fin 3) (plus : Bool)
  | linkTrainTimeout (port : Fin 18)
  | recoveryRoundTimeout
  | keepWatchdogExpiry
  -- Acorns and Cupule
  | claim (acornB : Bool) (expect : Word) (parityOk : Bool)
  | renew (acornB : Bool) (expect : Word) (parityOk : Bool)
  | release (acornB : Bool) (expect : Word) (parityOk : Bool)
  | deferentTimeout
  | leaseExpiry
  | acornProbe (acornB : Bool) (reach : BitVec 16)
  | acornSelftest (acornB : Bool) (passes : Bool)
  | lockstepMismatch (acornB : Bool)
  | hubUnitFailure (unit : Fin 12)
  | hubFatal
  | bridgeSelfRefresh (bridge : Fin 2)
  | spineModuleFailure (link : SpineLink)
  -- ports, channels, integrity
  | portDown (module : Fin 64)
  | hostModuleTrained (module : Fin 64) (repairable : Bool)
  | hostPortTrainingRetry (module : Fin 64)
  | parityRetry (channel : Fin 256) (transfer : Transfer) (attempt : Attempt)
  | refresh (channel : Fin 256) (bank : Fin 48)
  | hotRefreshWindow (stack : Fin 4) (die : Fin 8) (temp : BitVec 8)
  | patrolRead (channel : Fin 256) (row : Nat) (bank : Fin 48) (upsets : List Upset)
  | ceWindowEnd
  | refetchDeadline (granule : BitVec 38)
  | atomComplete (channel : Fin 256)
  | yieldTimeout (channel : Fin 256)
  | unitSwitch (unit : BitVec 28)
  -- power and pacing
  | droopFlag (domain : Fin 5)
  | droopLimitRise (domain : Fin 5)
  | thermalLimit (domain : Fin 7) (logicTemp : BitVec 8) (arrayTemp : BitVec 8)
  | powerEstimate (shortAvg : BitVec 16) (longAvg : BitVec 16) (tenantDraw : List Nat) (pipDraw : BitVec 16)
  | throttle (domain : Fin 7)
  | timebaseSwitch (refclkPresent : Bool)
  | switchRecord
  | heartbeat
  -- the Husk
  | occupancyRecord (bytes : List Byte)
  | maskExpiry
  | huskSample (samples : List HuskSample)
  | intervalClose
  | huskCheckpoint
  | romCheck (crc : Word)
  | pfail
  | huskPowerUp (crc : Word) (cfgEn : Bool) (cut : Bool) (late : Bool)
  | huskCfgEnRise
  | mirrorSnapshot
  | mirrorLinkLoss
  | huskIdent
  | huskStatus
  | readRec (interval : Word)
  | ack (interval : Word)
  | anchor (utc : DWord)
  | key
  | live
  | config (block : List Byte)
  | huskBadCommand (bytes : List Byte)
  -- start-up
  | resetRelease (spine : List (SpineLink × Nat))
  | firmwareBoot (flash : FlashView)
  | sproutLoad (die : Fin 7) (loaded : Bool)
  | channelTraining (channel : Fin 256) (failedLanes : List Nat)
  | lpddr5xTraining (fitted0 : List Nat) (fitted1 : List Nat) (sizesOk : Bool) (passes : BitVec 3)
  | ueSelftest (ue : Fin 320) (passes : Bool)
  | bootReady
  -- the test access port
  | idcode
  | samplePreload
  | extest
  | clamp
  | highz
  | stackTest
  | stackSel (stack : BitVec 2)
  | coreTest (internal : List CoreId)
  | coreDie (die : BitVec 3)
  | regRead (offset : Word)
  | bypass
  | tapReset
  | testModeExit
  -- rows the table adds at its end
  | hostTransportReplay (module : Fin 64) (fails : Bool)
  | sproutFailure (die : Fin 7)
  | umarginPartnerStart (stack : Fin 4)
  | umarginPartnerTimeout (stack : Fin 4)
  | registerAccessTimeout (req : Requester) (offset : Word)
  | retainRailRemoval (ucie : Bool) (hz : Bool)
  | retainRailRestore
deriving DecidableEq, Repr

end Sys2Proof
end

