-- ==== Sys2Proof/WellFormed.lean ====
section
/-! DEFINITION. Which terms of `Instr` are commands that can reach the block: payload lengths, type codes, offsets and
lists as the manual's tables bound them. -/

namespace Sys2Proof

/-- Frame TYPEs of Table 3 of *Hazel fabric and memory-side collectives*. -/
def frameTypes : List Nat := [0x01, 0x02, 0x03, 0x04, 0x08, 0x09, 0x0A, 0x0B, 0x0C, 0x0D, 0x0F, 0x10]

/-- A frame of a type: its TYPE, and a payload of at most 16,384 B (R342). -/
def frameOk (type : Nat) (f : Frame) : Bool := f.type.toNat = type && f.payload.length ≤ 16384

/-- An offset of the 64 MiB control window (R725). -/
def offsetOk (off : Word) : Bool := off.toNat < 0x04000000

/-- A request with a payload of `n` bytes (Table 3 of *Host port, commands and handles*). -/
def reqOk (n : Nat) (r : HostReq) : Bool := r.data.length = n

/-- The kinds of spine links that exist: hub or bridge to base die, and bridge to hub. -/
def spineOk : SpineLink × Nat → Bool := fun x => x.2 ≤ 16

/-- A tile digest list of one member: at most one entry for each tile of the largest shard. -/
def answerOk (a : MemberDigest) : Bool := (a.tiles.map fun l => decide (l.length < 2 ^ 32)).getD true

/-- An upset of bits that exist: a row and one of its 32 sectors, with symbols of its code word (R424, R425); or a burst of a bridge channel
(R489). -/
def upsetOk : Upset → Bool
  | .sector _ _ row sector flips => row < 32776 && sector < 32 && flips.all (·.1 < 36)
  | .link _ _ _ _ row column _ _ => row < 2 ^ 19 && column < 2048
  | .sram _ => true

/-- A command that can reach the block. -/
def Instr.wf : Instr → Bool
  | .mrd64 r => reqOk 0 r
  | .mwr64 r => reqOk 64 r && r.attr ≠ 1
  | .pushWrite r => reqOk 64 r && r.attr = 1
  | .srd32 r => reqOk 0 r
  | .swr32 r => reqOk 32 r
  | .db r => reqOk 4 r
  | .regRd r => reqOk 0 r
  | .regWr r => reqOk 4 r
  | .badTypeRequest type _ => !([0x01, 0x02, 0x03, 0x04, 0x08, 0x09, 0x0A].contains type.toNat)
  | .digest _ answers => answers.all answerOk
  | .digestComparison _ answers => answers.all answerOk
  | .shWrite _ offset _ => offsetOk offset
  | .i3cBadCommand bytes => bytes.length ≠ 5 || bytes.head? ≠ some 0x01
  | .write _ f => frameOk 0x01 f
  | .acc _ f => frameOk 0x02 f
  | .set _ f => frameOk 0x03 f
  | .narrow _ f => frameOk 0x04 f
  | .triple _ f => frameOk 0x08 f
  | .verdict _ f => frameOk 0x09 f
  | .serve _ f => frameOk 0x0A f
  | .status _ f => frameOk 0x0B f
  | .drop _ f => frameOk 0x0C f
  | .recover _ f => frameOk 0x0D f
  | .credit _ f => frameOk 0x0F f
  | .link _ f => frameOk 0x10 f
  | .badFrameType _ f => !(frameTypes.contains f.type.toNat)
  | .parityRetry _ _ attempt => (match attempt with | .retrained lanes => lanes.all (· < 290) | .fails => true | .passes => true)
  | .channelTraining _ failedLanes => failedLanes.all (· < 290)
  | .patrolRead _ row _ upsets => row < 32776 && upsets.all upsetOk
  | .occupancyRecord bytes => bytes.length = 16
  | .huskSample samples => samples.length = 18
  | .config block => block.length ≤ 4096
  | .resetRelease spine => spine.all spineOk
  | .lpddr5xTraining fitted0 fitted1 _ _ => fitted0.all (· < 32) && fitted1.all (· < 32)
  | .powerEstimate _ _ tenantDraw _ => tenantDraw.length ≤ 16
  | _ => true

end Sys2Proof
end

