-- ==== Sys2Proof/Machine/Fp32.lean ====
section
/-! DEFINITION. The internal values of *Number formats and arithmetic*, rounding, the FP32 operations of the arithmetic
units (Table 2 of *Update engines and parameter state*, R207, R208, R314, R315, R326, R328) and aligned sums (R329). -/

namespace Sys2Proof.Machine

/-- An internal value (R311): NaN, an infinity, or `(-1)^neg × m × 2^e`; `m = 0` is a zero of the sign `neg`. -/
inductive Val where
  | nan
  | inf (neg : Bool)
  | fin (neg : Bool) (m : Nat) (e : Int)
deriving DecidableEq, Repr

/-- The four numeric counters (R333). -/
structure Counts where
  sat   : Nat := 0
  flush : Nat := 0
  nan   : Nat := 0
  inf   : Nat := 0
deriving DecidableEq, Repr

/-- No count. -/
def countsZero : Counts := ⟨0, 0, 0, 0⟩

/-- The sum of two counter groups. -/
def countsAdd (a b : Counts) : Counts :=
  ⟨a.sat + b.sat, a.flush + b.flush, a.nan + b.nan, a.inf + b.inf⟩

/-- An FP32 result with the number of flushes it took (R315). -/
structure Fl where
  w  : Word
  fl : Nat
deriving DecidableEq, Repr

/-- The canonical FP32 NaN (R326). -/
def fpNan : Word := 0x7FC00000#32

/-- FP32 +1.0. -/
def fpOne : Word := 0x3F800000#32

/-- An FP32 infinity of the sign `neg`. -/
def fpInf (neg : Bool) : Word := if neg then 0xFF800000#32 else 0x7F800000#32

/-- An FP32 zero of the sign `neg`. -/
def fpZero (neg : Bool) : Word := if neg then 0x80000000#32 else 0#32

/-- Whether an FP32 word is a NaN. -/
def isNan32 (w : Word) : Bool := (w.toNat / 2 ^ 23 % 256 == 255) && (w.toNat % 2 ^ 23 != 0)

/-- Whether an FP32 word is an infinity. -/
def isInf32 (w : Word) : Bool := (w.toNat / 2 ^ 23 % 256 == 255) && (w.toNat % 2 ^ 23 == 0)

/-- Whether an FP32 word is NaN or infinite. -/
def nonFinite32 (w : Word) : Bool := w.toNat / 2 ^ 23 % 256 == 255

/-- Whether an FP32 word is ±0. -/
def isZero32 (w : Word) : Bool := w.toNat % 2 ^ 31 == 0

/-- The sign bit of an FP32 word. -/
def neg32 (w : Word) : Bool := w.toNat / 2 ^ 31 == 1

/-- Exact negation of an FP32 word (R206). -/
def fpNeg (w : Word) : Word := w ^^^ 0x80000000#32

/-- The exact value of an FP32 word, subnormals kept. -/
def exact32 (w : Word) : Val :=
  let n := w.toNat
  let s := neg32 w
  let ex : Nat := n / 2 ^ 23 % 256
  let fr := n % 2 ^ 23
  if ex = 255 then (if fr = 0 then .inf s else .nan)
  else if ex = 0 then .fin s fr (-149)
  else .fin s (fr + 2 ^ 23) ((ex : Int) - 150)

/-- An FP32 operand as an arithmetic unit takes it: a subnormal becomes a zero of its sign and counts once (R315). -/
def operand32 (w : Word) : Val × Nat :=
  let n := w.toNat
  if n / 2 ^ 23 % 256 = 0 ∧ n % 2 ^ 23 ≠ 0 then (.fin (neg32 w) 0 0, 1) else (exact32 w, 0)

/-- `⌊log2 (num / den)⌋` for positive `num` and `den`. -/
def floorLog2Q (num den : Nat) : Int :=
  let a : Int := (Nat.log2 num : Int) - (Nat.log2 den : Int)
  -- the quotient lies in (2^(a-1), 2^(a+1))
  let ok : Bool := if a ≥ 0 then den * 2 ^ a.toNat ≤ num else den ≤ num * 2 ^ (-a).toNat
  if ok then a else a - 1

/-- The quotient and remainder of `num / den × 2^e` by `2^q`, with the remainder's denominator. -/
def gridDiv (num den : Nat) (e q : Int) : Nat × Nat × Nat :=
  let n := if e - q ≥ 0 then num * 2 ^ (e - q).toNat else num
  let d := if e - q ≥ 0 then den else den * 2 ^ (q - e).toNat
  (n / d, n % d, d)

/-- The three roundings of a conversion (R318); stochastic carries its 16 random bits. -/
inductive Rnd where
  | even
  | stoch (r : Nat)
  | zero
deriving DecidableEq, Repr

/-- Round a grid quotient with remainder under R318 to R320. -/
def roundGrid (mode : Rnd) (lo rem den : Nat) : Nat :=
  match mode with
  | .even => if 2 * rem > den ∨ (2 * rem = den ∧ lo % 2 = 1) then lo + 1 else lo
  | .stoch r => if rem ≠ 0 ∧ rem * 65536 / den + r ≥ 65536 then lo + 1 else lo
  | .zero => lo

/-- Pack `m × 2^q`, a positive value of at most 24 significant bits with an exponent in range, as FP32. -/
def pack32 (neg : Bool) (m : Nat) (q : Int) : Word :=
  let lg := Nat.log2 m
  let ex : Nat := (((lg : Int) + q) + 127).toNat
  let fr : Nat := (if lg ≥ 23 then m / 2 ^ (lg - 23) else m * 2 ^ (23 - lg)) - 2 ^ 23
  BitVec.ofNat 32 ((if neg then 2 ^ 31 else 0) + ex * 2 ^ 23 + fr)

/-- Round `num / den × 2^e` once to FP32, nearest even, tininess after rounding (R315), overflow to infinity (Table 4). -/
def roundFp (neg : Bool) (num den : Nat) (e : Int) : Fl :=
  if num = 0 then ⟨fpZero neg, 0⟩
  else
    let q : Int := floorLog2Q num den + e - 23
    let t := gridDiv num den e q
    let y := roundGrid .even t.1 t.2.1 t.2.2
    let top : Int := (Nat.log2 y : Int) + q
    if top < -126 then ⟨fpZero neg, 1⟩
    else if top ≥ 128 then ⟨fpInf neg, 0⟩
    else ⟨pack32 neg y q, 0⟩

/-- Round an exact value once to FP32. -/
def roundVal : Val → Fl
  | .nan => ⟨fpNan, 0⟩
  | .inf s => ⟨fpInf s, 0⟩
  | .fin s m e => roundFp s m 1 e

/-- The signed integer significand of a finite value at exponent `q ≤ e`. -/
def signedAt (s : Bool) (m : Nat) (e q : Int) : Int :=
  let k : Int := ((m * 2 ^ (e - q).toNat : Nat) : Int)
  if s then -k else k

/-- The exact sum of two values (R328: an exact zero of opposite signs is +0). -/
def valAdd : Val → Val → Val
  | .nan, _ => .nan
  | _, .nan => .nan
  | .inf a, .inf b => if a = b then .inf a else .nan
  | .inf a, .fin _ _ _ => .inf a
  | .fin _ _ _, .inf b => .inf b
  | .fin a m e, .fin b n f =>
    if m = 0 ∧ n = 0 then .fin (a && b) 0 0
    else
      let q := min e f
      let t := signedAt a m e q + signedAt b n f q
      if t = 0 then .fin false 0 0 else .fin (t < 0) t.natAbs q

/-- The exact product of two values. -/
def valMul : Val → Val → Val
  | .nan, _ => .nan
  | _, .nan => .nan
  | .inf a, .inf b => .inf (a != b)
  | .inf a, .fin b n _ => if n = 0 then .nan else .inf (a != b)
  | .fin a m _, .inf b => if m = 0 then .nan else .inf (a != b)
  | .fin a m e, .fin b n f => .fin (a != b) (m * n) (e + f)

/-- Exact negation of a value. -/
def valNeg : Val → Val
  | .nan => .nan
  | .inf s => .inf (!s)
  | .fin s m e => .fin (!s) m e

/-- ADD (R207). -/
def fAdd (a b : Word) : Fl :=
  let x := operand32 a
  let y := operand32 b
  let r := roundVal (valAdd x.1 y.1)
  ⟨r.w, x.2 + y.2 + r.fl⟩

/-- SUB. -/
def fSub (a b : Word) : Fl := fAdd a (fpNeg b)

/-- MUL. -/
def fMul (a b : Word) : Fl :=
  let x := operand32 a
  let y := operand32 b
  let r := roundVal (valMul x.1 y.1)
  ⟨r.w, x.2 + y.2 + r.fl⟩

/-- FMA: A × B + C, rounded once; 0 × ∞ is NaN whatever the addend (R327). -/
def fFma (a b c : Word) : Fl :=
  let x := operand32 a
  let y := operand32 b
  let z := operand32 c
  let r := roundVal (valAdd (valMul x.1 y.1) z.1)
  ⟨r.w, x.2 + y.2 + z.2 + r.fl⟩

/-- The presented form of an FP32 word: subnormals flushed, NaN canonical. -/
def flush32 (w : Word) : Fl :=
  let x := operand32 w
  ⟨(roundVal x.1).w, x.2⟩

/-- The order key of a non-NaN FP32 word, with −0 below +0. -/
def orderKey (w : Word) : Int :=
  let m : Int := ((w.toNat % 2 ^ 31 : Nat) : Int)
  if neg32 w then -m - 1 else m

/-- MIN: NaN if either operand is NaN; −0 is less than +0. -/
def fMin (a b : Word) : Fl :=
  let x := flush32 a
  let y := flush32 b
  ⟨if isNan32 x.w || isNan32 y.w then fpNan else if orderKey x.w ≤ orderKey y.w then x.w else y.w, x.fl + y.fl⟩

/-- MAX, under the same rules. -/
def fMax (a b : Word) : Fl :=
  let x := flush32 a
  let y := flush32 b
  ⟨if isNan32 x.w || isNan32 y.w then fpNan else if orderKey x.w ≤ orderKey y.w then y.w else x.w, x.fl + y.fl⟩

/-- ABS: A with the sign cleared. -/
def fAbs (a : Word) : Fl :=
  let x := flush32 a
  ⟨if isNan32 x.w then fpNan else BitVec.ofNat 32 (x.w.toNat % 2 ^ 31), x.fl⟩

/-- Whether a presented FP32 word is greater than zero. -/
def pos32 (w : Word) : Bool := !isNan32 w && !isZero32 w && !neg32 w

/-- SIGN. -/
def fSign (a : Word) : Fl :=
  let x := flush32 a
  ⟨if isNan32 x.w then fpNan else if isZero32 x.w then 0#32 else if neg32 x.w then 0xBF800000#32 else fpOne, x.fl⟩

/-- SEL: B if A > 0, otherwise C. -/
def fSel (a b c : Word) : Fl :=
  let x := flush32 a
  let y := flush32 b
  let z := flush32 c
  ⟨if pos32 x.w then y.w else z.w, x.fl + y.fl + z.fl⟩

/-- MOV. -/
def fMov (a : Word) : Fl := flush32 a

/-- Bitwise integer square root: the largest `r < 2^k` added to `acc` with `(acc + r)^2 ≤ n`. -/
def isqrtBits (n : Nat) : Nat → Nat → Nat
  | 0, acc => acc
  | k + 1, acc =>
    let c := acc + 2 ^ k
    isqrtBits n k (if c * c ≤ n then c else acc)

/-- `⌊√n⌋`. -/
def isqrt (n : Nat) : Nat := isqrtBits n (Nat.log2 n / 2 + 1) 0

/-- SQRT, correctly rounded (R208). -/
def fSqrt (a : Word) : Fl :=
  let x := operand32 a
  match x.1 with
  | .nan => ⟨fpNan, x.2⟩
  | .inf s => ⟨if s then fpNan else fpInf false, x.2⟩
  | .fin s m e =>
    if m = 0 then ⟨fpZero s, x.2⟩
    else if s then ⟨fpNan, x.2⟩
    else
      let odd : Nat := (e % 2).toNat
      let n := m * 2 ^ (64 + odd)
      let r := isqrt n
      let y := roundFp false (2 * r + (if r * r = n then 0 else 1)) 1 ((e - (odd : Int)) / 2 - 33)
      ⟨y.w, x.2 + y.fl⟩

/-- RECIP, correctly rounded; RECIP of ±0 is ±∞ and of ±∞ is ±0 (R208). -/
def fRecip (a : Word) : Fl :=
  let x := operand32 a
  match x.1 with
  | .nan => ⟨fpNan, x.2⟩
  | .inf s => ⟨fpZero s, x.2⟩
  | .fin s m e =>
    if m = 0 then ⟨fpInf s, x.2⟩
    else
      let y := roundFp s 1 m (-e)
      ⟨y.w, x.2 + y.fl⟩

/-- RSQRT, correctly rounded (R208); of −0 it is −∞, as 1 / √−0. -/
def fRsqrt (a : Word) : Fl :=
  let x := operand32 a
  match x.1 with
  | .nan => ⟨fpNan, x.2⟩
  | .inf s => ⟨if s then fpNan else 0#32, x.2⟩
  | .fin s m e =>
    if m = 0 then ⟨fpInf s, x.2⟩
    else if s then ⟨fpNan, x.2⟩
    else
      -- 1/√(m 2^e) = √(2^120 / m) × 2^(-60 - e/2), the radicand scaled to an even exponent
      let odd : Nat := (e % 2).toNat
      let d := m * 2 ^ odd
      let n := 2 ^ 200 / d
      let r := isqrt n
      let exactR : Bool := r * r * d = 2 ^ 200
      let y := roundFp false (2 * r + (if exactR then 0 else 1)) 1 (-101 - (e - (odd : Int)) / 2)
      ⟨y.w, x.2 + y.fl⟩

/-- Whether a finite value of magnitude `m × 2^e` lies above the largest finite FP32. -/
def overFp32 (m : Nat) (e : Int) : Bool :=
  let top : Int := (Nat.log2 m : Int) + e
  m ≠ 0 && (decide (top ≥ 128) || (decide (top = 127) && decide ((2 ^ 24 - 1) * 2 ^ 104 * 2 ^ (-e).toNat < m * 2 ^ e.toNat)))

/-- A value as an aligned sum takes it (R314): below 2^−126 a zero, above the largest finite FP32 an infinity;
answers the value, the flush count and the INF count. -/
def present : Val → Val × Nat × Nat
  | .nan => (.nan, 0, 0)
  | .inf s => (.inf s, 0, 0)
  | .fin s m e =>
    if m = 0 then (.fin s 0 0, 0, 0)
    else
      let top : Int := (Nat.log2 m : Int) + e
      if top < -126 then (.fin s 0 0, 1, 0)
      else if overFp32 m e then (.inf s, 0, 1)
      else (.fin s m e, 0, 0)

/-- The result of an aligned sum: its FP32 bits, the FLUSH count, and the INF count of overflowed terms. -/
structure AlignedResult where
  w   : Word
  fl  : Nat
  inf : Nat
deriving DecidableEq, Repr

/-- Steps 1 and 2 of R329 for one term. -/
def alignedTerm (t : Val × Val) : Val × Nat × Nat :=
  let a := present t.1
  let b := present t.2
  let p := valMul a.1 b.1
  match p with
  | .fin s m e => if overFp32 m e then (.inf s, a.2.1 + b.2.1, a.2.2 + b.2.2 + 1) else (p, a.2.1 + b.2.1, a.2.2 + b.2.2)
  | _ => (p, a.2.1 + b.2.1, a.2.2 + b.2.2)

/-- Whether a value is NaN. -/
def valIsNan : Val → Bool
  | .nan => true
  | _ => false

/-- Whether a value is an infinity of the sign `neg`. -/
def valIsInf (neg : Bool) : Val → Bool
  | .inf s => s == neg
  | _ => false

/-- The top exponent of a non-zero finite value. -/
def valTop : Val → Option Int
  | .fin _ m e => if m = 0 then none else some ((Nat.log2 m : Int) + e)
  | _ => none

/-- The largest of a list of optional exponents. -/
def maxTop : List Val → Option Int
  | [] => none
  | v :: vs => match valTop v, maxTop vs with
    | none, r => r
    | some a, none => some a
    | some a, some b => some (max a b)

/-- A term truncated toward zero to a multiple of `2^q` (step 5 of R329). -/
def truncTerm (q : Int) : Val → Int
  | .fin s m e =>
    let n : Nat := if e ≥ q then m * 2 ^ (e - q).toNat else m / 2 ^ (q - e).toNat
    if s then -(n : Int) else n
  | _ => 0

/-- Whether a value is −0. -/
def valIsNegZero : Val → Bool
  | .fin s m _ => s && m == 0
  | _ => false

/-- The sum of a list of integers. -/
def sumInts : List Int → Int
  | [] => 0
  | x :: xs => x + sumInts xs

/-- An aligned sum of up to 16 terms `a_k × b_k` (R329). -/
def alignedSum (terms : List (Val × Val)) : AlignedResult :=
  let ts := terms.map alignedTerm
  let vs := ts.map (·.1)
  let fl := (ts.map (·.2.1)).sum
  let inf := (ts.map (·.2.2)).sum
  if vs.any valIsNan then ⟨fpNan, fl, inf⟩
  else if vs.any (valIsInf false) then ⟨if vs.any (valIsInf true) then fpNan else fpInf false, fl, inf⟩
  else if vs.any (valIsInf true) then ⟨fpInf true, fl, inf⟩
  else match maxTop vs with
    | none => ⟨fpZero (!vs.isEmpty && vs.all valIsNegZero), fl, inf⟩
    | some top =>
      let q := top - 26
      let t := sumInts (vs.map (truncTerm q))
      if t = 0 then ⟨0#32, fl, inf⟩
      else
        let r := roundFp (t < 0) t.natAbs 1 q
        ⟨r.w, fl + r.fl, inf⟩

/-- Cut a list into pieces of `k`, by `fuel` pieces at most. -/
def chunksAux {α : Type} (k : Nat) : Nat → List α → List (List α)
  | 0, _ => []
  | fuel + 1, l => if l.isEmpty then [] else l.take k :: chunksAux k fuel (l.drop k)

/-- Cut a list into consecutive pieces of `k` elements, the last possibly shorter. -/
def chunks {α : Type} (k : Nat) (l : List α) : List (List α) := chunksAux k l.length l

/-- The sum of a tile, row or part: aligned sums of groups of 16 terms, the group sums added to the partial in index
order by FP32 ADD (R210 steps 1 and 2, R247, R772). The partial starts at +0 (DEDUCED, log 11). -/
def groupedSum (terms : List (Val × Val)) : AlignedResult :=
  ((chunks 16 terms).map alignedSum).foldl (fun acc x =>
      let r := fAdd acc.w x.w
      ⟨r.w, acc.fl + x.fl + r.fl, acc.inf + x.inf⟩) ⟨0#32, 0, 0⟩

/-- One level of a pairwise tree: neighbours combined, an odd last member carried up unchanged (R210 step 3). -/
def pairLevel {α : Type} (f : α → α → α) : List α → List α
  | a :: b :: rest => f a b :: pairLevel f rest
  | l => l

/-- A pairwise tree by `fuel` levels. -/
def pairTreeAux {α : Type} (f : α → α → α) : Nat → List α → Option α
  | _, [] => none
  | _, [a] => some a
  | 0, a :: _ => some a
  | fuel + 1, l => pairTreeAux f fuel (pairLevel f l)

/-- The pairwise tree of R210 step 3 over a list. -/
def pairTree {α : Type} (f : α → α → α) (l : List α) : Option α := pairTreeAux f l.length l

/-- Combine two partial sums by FP32 ADD. -/
def addResults (a b : AlignedResult) : AlignedResult :=
  let r := fAdd a.w b.w
  ⟨r.w, a.fl + b.fl + r.fl, a.inf + b.inf⟩

/-- The FP32 value `v` as both factors of a square (sums of squares take b = a). -/
def squareTerm (v : Val) : Val × Val := (v, v)

/-- The FP32 value `v` times +1.0. -/
def plainTerm (v : Val) : Val × Val := (v, .fin false 1 0)

/-- Counters of a value written in FP32 (R333): its NaN or infinity. -/
def writtenCounts (w : Word) : Counts :=
  ⟨0, 0, if isNan32 w then 1 else 0, if isInf32 w then 1 else 0⟩

/-- Counters of an FP32 result with its flushes, written out. -/
def flCounts (r : Fl) : Counts :=
  countsAdd ⟨0, r.fl, 0, 0⟩ (writtenCounts r.w)

end Sys2Proof.Machine
end

