-- ==== Sys2Proof/Machine/Special.lean ====
section
/-! DEFINITION. EXP2, LOG2 and the inverse normal CDF, correctly rounded to FP32 (R208, R542). Each is computed in
fixed point with 256 fraction bits; the exact values are irrational except at the arguments treated apart, so a
sticky bit set to 1 stands for the tail (log 12 says what precision this presumes). -/

namespace Sys2Proof.Machine

/-- The number of fraction bits of the fixed-point values of this file. -/
def fixBits : Nat := 256

/-- 1.0 in fixed point. -/
def fixOne : Nat := 2 ^ fixBits

/-- The product of two fixed-point values, truncated. -/
def fixMul (a b : Nat) : Nat := a * b / fixOne

/-- `Σ z^(2k+1) / (2k+1)` from the term `t = z^(2k+1)`, `fuel` terms. -/
def atanhFrom (z2 : Nat) : Nat → Nat → Nat → Nat
  | 0, _, _ => 0
  | fuel + 1, t, k => t / (2 * k + 1) + atanhFrom z2 fuel (fixMul t z2) (k + 1)

/-- atanh of a fixed-point value up to 1/3. -/
def fixAtanh (z : Nat) : Nat := atanhFrom (fixMul z z) 90 z 0

/-- ln 2 = 2 atanh(1/3). -/
def fixLn2 : Nat := 2 * fixAtanh (fixOne / 3)

/-- `Σ x^k / k!` from the term `t`, `fuel` terms. -/
def expFrom (x : Nat) : Nat → Nat → Nat → Nat
  | 0, _, _ => 0
  | fuel + 1, t, k => t + expFrom x fuel (fixMul t x / k) (k + 1)

/-- e^x of a fixed-point value up to 20. -/
def fixExp (x : Nat) : Nat := expFrom x 260 fixOne 1

/-- EXP2 (R208). -/
def fExp2 (a : Word) : Fl :=
  let x := operand32 a
  match x.1 with
  | .nan => ⟨fpNan, x.2⟩
  | .inf s => ⟨if s then 0#32 else fpInf false, x.2⟩
  | .fin s m e =>
    if m = 0 then ⟨fpOne, x.2⟩
    else
      let top : Int := (Nat.log2 m : Int) + e
      if top ≥ 8 then (if s then ⟨0#32, x.2 + 1⟩ else ⟨fpInf false, x.2⟩)
      else
        let f : Int := signedAt s m (e + (fixBits : Int)) 0
        let n : Int := f / (fixOne : Int)
        let fr : Nat := (f % (fixOne : Int)).toNat
        let y := if fr = 0 then roundFp false 1 1 n
          else roundFp false (2 * fixExp (fixMul fr fixLn2) + 1) 1 (n - (fixBits : Int) - 1)
        ⟨y.w, x.2 + y.fl⟩

/-- log2 of the positive exact value `m × 2^e`, rounded once to FP32. -/
def log2Exact (m : Nat) (e : Int) : Fl :=
  let k := Nat.log2 m
  let ip : Int := (k : Int) + e
  if m = 2 ^ k then roundFp (ip < 0) ip.natAbs 1 0
  else
    let z := (m - 2 ^ k) * fixOne / (m + 2 ^ k)
    let l2 := 2 * fixAtanh z * fixOne / fixLn2
    let t : Int := ip * (fixOne : Int) + (l2 : Int)
    roundFp (t < 0) (2 * t.natAbs + 1) 1 (-(fixBits : Int) - 1)

/-- LOG2 of an exact operand value (R208; the first LOG2 of DRAW takes a value of 25 significant bits, R543). -/
def log2Val : Val → Fl
  | .nan => ⟨fpNan, 0⟩
  | .inf s => ⟨if s then fpNan else fpInf false, 0⟩
  | .fin s m e =>
    if m = 0 then ⟨fpInf true, 0⟩
    else if s then ⟨fpNan, 0⟩
    else log2Exact m e

/-- LOG2 (R208). -/
def fLog2 (a : Word) : Fl :=
  let x := operand32 a
  let y := log2Val x.1
  ⟨y.w, x.2 + y.fl⟩

/-- arctan(1/n) by its alternating series: `t` is the running power, `fuel` terms. -/
def atanInvFrom (n2 : Nat) : Nat → Nat → Nat → Int
  | 0, _, _ => 0
  | fuel + 1, t, k => ((t / (2 * k + 1) : Nat) : Int) - atanInvFrom n2 fuel (t / n2) (k + 1)

/-- π by Machin's formula. -/
def fixPi : Nat :=
  (16 * atanInvFrom 25 120 (fixOne / 5) 0 - 4 * atanInvFrom (239 * 239) 40 (fixOne / 239) 0).toNat

/-- √(2π). -/
def fixSqrt2Pi : Nat := isqrt (2 * fixPi * fixOne)

/-- `Σ x^(2k+1) / (1·3·…·(2k+1))` from the term `t`, `fuel` terms. -/
def phiSeriesFrom (x2 : Nat) : Nat → Nat → Nat → Nat
  | 0, _, _ => 0
  | fuel + 1, t, k => t + phiSeriesFrom x2 fuel (fixMul t x2 / (2 * k + 3)) (k + 1)

/-- Whether `Φ(x) − 1/2 ≤ j / 2^25` for a fixed-point `x` from 0 to 6. -/
def phiAtMost (x j : Nat) : Bool :=
  let x2 := fixMul x x
  phiSeriesFrom x2 300 x 0 * 2 ^ 25 ≤ j * fixMul fixSqrt2Pi (fixExp (x2 / 2))

/-- The largest multiple of `2^(fixBits − 100)` with `phiAtMost`, bit by bit from bit `k − 1`. -/
def normBits (j : Nat) : Nat → Nat → Nat
  | 0, acc => acc
  | k + 1, acc =>
    let c := acc + 2 ^ (k + (fixBits - 100))
    normBits j k (if phiAtMost c j then c else acc)

/-- The inverse normal CDF of `u′ = (2a + 1) / 2^25`, rounded once to FP32 (R542). -/
def invNormal (a : Nat) : Word :=
  let n := 2 * a + 1
  let s : Bool := n < 2 ^ 24
  let j := if s then 2 ^ 24 - n else n - 2 ^ 24
  (roundFp s (2 * (normBits j 103 0 / 2 ^ (fixBits - 100)) + 1) 1 (-101)).w

end Sys2Proof.Machine
end

