-- ==== Sys2Proof/Machine/Rng.lean ====
section
/-! DEFINITION. The generator of *Random lanes*: its step (R528), jump-ahead (R529), streams and positions (R531 to
R538), and the values made from draws (R540 to R543). -/

namespace Sys2Proof.Machine

/-- The four state words of a generator. -/
structure Gen where
  s0 : Word
  s1 : Word
  s2 : Word
  s3 : Word
deriving DecidableEq, Repr

/-- The state update of one step (R528). -/
def genNext (g : Gen) : Gen :=
  let t := g.s1 <<< 9
  let a2 := g.s2 ^^^ g.s0
  let a3 := g.s3 ^^^ g.s1
  let a1 := g.s1 ^^^ a2
  let a0 := g.s0 ^^^ a3
  ⟨a0, a1, a2 ^^^ t, a3.rotateLeft 11⟩

/-- The draw of a state (R528). -/
def genDraw (g : Gen) : Word := (g.s0 + g.s3).rotateLeft 7 + g.s0

/-- A seed or state as one 128-bit value, s0 lowest. -/
def genOfBits (b : BitVec 128) : Gen :=
  ⟨b.extractLsb' 0 32, b.extractLsb' 32 32, b.extractLsb' 64 32, b.extractLsb' 96 32⟩

/-- A state as one 128-bit value. -/
def genToBits (g : Gen) : BitVec 128 := g.s3 ++ g.s2 ++ g.s1 ++ g.s0

/-- A 128 × 128 matrix over GF(2), as the images of the unit vectors, column 0 first, applied to a vector. -/
def matApply : List (BitVec 128) → Nat → BitVec 128
  | [], _ => 0
  | c :: cs, v => (if v % 2 = 1 then c else 0) ^^^ matApply cs (v / 2)

/-- The matrix of two applications. -/
def matSquare (m : List (BitVec 128)) : List (BitVec 128) := m.map fun c => matApply m c.toNat

/-- The matrix of one step. -/
def stepMatrix : List (BitVec 128) :=
  (List.range 128).map fun k => genToBits (genNext (genOfBits (BitVec.ofNat 128 (2 ^ k))))

/-- Advance by `n` steps with the matrix of `2^j` steps in hand, `fuel` bits of `n` at most (R529). -/
def jumpAux : Nat → List (BitVec 128) → Nat → BitVec 128 → BitVec 128
  | 0, _, _, v => v
  | fuel + 1, m, n, v =>
    if n = 0 then v
    else
      let v' := if n % 2 = 1 then matApply m v.toNat else v
      if n / 2 = 0 then v' else jumpAux fuel (matSquare m) (n / 2) v'

/-- `n` single steps. -/
def genSteps : Nat → Gen → Gen
  | 0, g => g
  | n + 1, g => genSteps n (genNext g)

/-- The state `n` steps ahead; a jump yields what that many single steps would (R529). -/
def genJump (n : Nat) (g : Gen) : Gen :=
  if n < 1024 then genSteps n g else genOfBits (jumpAux 128 stepMatrix n (genToBits g))

/-- The state at draw `d` of stream `k` of a seed (R531). -/
def genAt (seed : BitVec 128) (stream d : Nat) : Gen :=
  genJump (stream * 2 ^ 64 + d % 2 ^ 64) (genOfBits seed)

/-- The draws of `n` consecutive positions. -/
def genDraws : Nat → Gen → List Word
  | 0, _ => []
  | n + 1, g => genDraw g :: genDraws n (genNext g)

/-- The 16 bits of stochastic rounding of a draw (R540). -/
def drawRound (d : Word) : Nat := d.toNat / 65536

/-- `d >> 8`, the 24 bits of a uniform draw (R540). -/
def drawHigh (d : Word) : Nat := d.toNat / 256

/-- u = (d >> 8) × 2^−24 as FP32, exact (R540). -/
def drawUniform (d : Word) : Word := (roundFp false (drawHigh d) 1 (-24)).w

/-- The shard stream of replica group `r` (R531). -/
def shardStream (r : Nat) : Nat := 2 ^ 23 + r

/-- The draw number of the emission of element 0 at the committed T (R537). -/
def emissionDraw (t : Nat) : Nat := t % 2 ^ 31 * 2 ^ 32

/-- The draw number of element 0 of INIT_PARAMS with OFFSET (R538). -/
def initDraw (offset : Nat) : Nat := (2 ^ 31 + offset % 2 ^ 31) * 2 ^ 32

/-- The FP32 value nearest to `p` in the direction of a smaller number that is a zero or normal and is not equal to
`p` (Table 2 of *Random lanes*). -/
def nextBelow (p : Word) : Word :=
  if isZero32 p then 0x80800000#32
  else if neg32 p then p + 1#32
  else if p = 0x00800000#32 then 0#32
  else p - 1#32

/-- RNG_FILL's element value before it is encoded (Table 2 of *Random lanes*), with its flushes; `p0` and `p1` are
presented values. -/
def fillValue (dist : Nat) (p0 p1 : Word) (d : Word) : Fl :=
  if dist = 0 then
    let w := fSub p1 p0
    let x := fFma (drawUniform d) w.w p0
    let eqP1 : Bool := x.w = p1 || (isZero32 x.w && isZero32 p1)
    ⟨if eqP1 then nextBelow p1 else x.w, w.fl + x.fl⟩
  else if dist = 1 then fFma (invNormal (drawHigh d)) p1 p0
  else
    let thr : Nat := match exact32 p0 with
      | .fin _ m e => if e + 24 ≥ 0 then m * 2 ^ (e + 24).toNat else m / 2 ^ (-(e + 24)).toNat
      | _ => 0
    ⟨if drawHigh d < thr then fpOne else 0#32, 0⟩

/-- ln 2 of DRAW, negated (R543). -/
def drawNegLn2 : Word := 0xBF317218#32

/-- The key of one score in DRAW (R543). -/
def drawKey (score d : Word) : Fl :=
  let l1 := log2Val (.fin false (2 * drawHigh d + 1) (-25))
  let n1 := fMul l1.w drawNegLn2
  let l2 := fLog2 n1.w
  let g := fMul l2.w drawNegLn2
  let k := fAdd score g.w
  ⟨k.w, l1.fl + n1.fl + l2.fl + g.fl + k.fl⟩

/-- The index of the largest key: a NaN key is below −∞ and equal keys go to the lowest index (R543). -/
def bestKey : List (Nat × Word) → Option (Nat × Word) → Nat
  | [], none => 0
  | [], some b => b.1
  | k :: ks, none => bestKey ks (some k)
  | k :: ks, some b =>
    let above : Bool :=
      if isNan32 k.2 then false
      else if isNan32 b.2 then true
      else if isZero32 k.2 && isZero32 b.2 then false
      else decide (orderKey b.2 < orderKey k.2)
    bestKey ks (some (if above then k else b))

end Sys2Proof.Machine
end

