-- ==== Sys2Proof/Machine/Formats.lean ====
section
/-! DEFINITION. The stored formats of *Number formats and arithmetic*: decoding (R302 to R313), encoding with one rounding
(R316 to R328), the layout of operands (R308 to R310) and integer accumulation (R332). -/

namespace Sys2Proof.Machine

/-- The bytes of a list as one little-endian number (R14). -/
def leNat : List Byte → Nat
  | [] => 0
  | b :: bs => b.toNat + 256 * leNat bs

/-- `n` little-endian bytes of a number. -/
def leBytes : Nat → Nat → List Byte
  | 0, _ => []
  | n + 1, v => BitVec.ofNat 8 v :: leBytes n (v / 256)

/-- Whether a format code is one of Table 9 of *Host port, commands and handles*. -/
def fmtKnown (c : Nat) : Bool := [0, 1, 2, 8, 9, 0x10, 0x11, 0x12, 0x13, 0x14, 0x15, 0x18, 0x19, 0x1A, 0x1B, 0x20, 0x21, 0x22].contains c

/-- An MX format. -/
def fmtMx (c : Nat) : Bool := 0x10 ≤ c && c ≤ 0x15

/-- A two-level format. -/
def fmtTl (c : Nat) : Bool := 0x18 ≤ c && c ≤ 0x1B

/-- An integer format. -/
def fmtInt (c : Nat) : Bool := 0x20 ≤ c && c ≤ 0x22

/-- A long format. -/
def fmtLong (c : Nat) : Bool := c ≤ 2

/-- A floating-point format of Table 1 (every code but the integers). -/
def fmtFloat (c : Nat) : Bool := fmtKnown c && !fmtInt c

/-- Element width in bits (Table 1). -/
def fmtBits (c : Nat) : Nat :=
  match c with
  | 0 => 32 | 1 => 16 | 2 => 16
  | 0x12 => 6 | 0x13 => 6 | 0x14 => 4 | 0x18 => 4 | 0x19 => 6
  | 0x20 => 32 | 0x21 => 64
  | _ => 8

/-- Block size of a block format, 0 for the others. -/
def fmtBlock (c : Nat) : Nat := if fmtMx c then 32 else if fmtTl c then 16 else 0

/-- Bytes of one group of 4,096 elements of a block format (R308). -/
def groupBytes (c : Nat) : Nat := 512 * fmtBits c + 4096 / fmtBlock c

/-- Bytes of an operand of `count` elements (R308, R310). -/
def operandBytes (c count : Nat) : Nat :=
  if fmtBlock c = 0 then count * (fmtBits c / 8) else (count + 4095) / 4096 * groupBytes c

/-- A floating-point grid: exponent bits, mantissa bits, bias. -/
structure Grid where
  eb   : Nat
  mb   : Nat
  bias : Nat
  maxM : Nat      -- the largest finite value is maxM × 2^maxE
  maxE : Int
deriving DecidableEq, Repr

/-- The grid of a floating format's elements (Tables 2 and 3). -/
def fmtGrid (c : Nat) : Grid :=
  match c with
  | 0 => ⟨8, 23, 127, 0xFFFFFF, 104⟩
  | 1 => ⟨5, 10, 15, 0x7FF, 5⟩
  | 2 => ⟨8, 7, 127, 0xFF, 120⟩
  | 9 => ⟨5, 2, 15, 7, 13⟩
  | 0x11 => ⟨5, 2, 15, 7, 13⟩
  | 0x12 => ⟨3, 2, 3, 7, 2⟩
  | 0x19 => ⟨3, 2, 3, 7, 2⟩
  | 0x13 => ⟨2, 3, 1, 15, -1⟩
  | 0x14 => ⟨2, 1, 1, 3, 1⟩
  | 0x18 => ⟨2, 1, 1, 3, 1⟩
  | _ => ⟨4, 3, 7, 7, 6⟩

/-- Whether the elements of a format are E4M3. -/
def fmtE4m3 (c : Nat) : Bool := c = 8 || c = 0x10 || c = 0x1A

/-- Whether the elements of a format are E5M2. -/
def fmtE5m2 (c : Nat) : Bool := c = 9 || c = 0x11

/-- Whether the elements of a format are INT8. -/
def fmtInt8Elem (c : Nat) : Bool := c = 0x15 || c = 0x1B

/-- A two's-complement number of `w` bits. -/
def toSigned (w n : Nat) : Int := if n < 2 ^ (w - 1) then (n : Int) else (n : Int) - (2 ^ w : Nat)

/-- An integer as an exact value. -/
def valOfInt (i : Int) : Val := .fin (i < 0) i.natAbs 0

/-- One element decoded without its scales (R302, R303, R316); the count is its flush. -/
def decodeElem (c n : Nat) : Val × Nat :=
  if fmtInt c then (valOfInt (toSigned (fmtBits c) n), 0)
  else if fmtInt8Elem c then
    let i := toSigned 8 n
    (.fin (i < 0) i.natAbs (if c = 0x15 then -6 else 0), 0)
  else
    let g := fmtGrid c
    let s : Bool := n / 2 ^ (g.eb + g.mb) % 2 = 1
    let ex := n / 2 ^ g.mb % 2 ^ g.eb
    let fr := n % 2 ^ g.mb
    let top := 2 ^ g.eb - 1
    if (fmtLong c || fmtE5m2 c) && ex = top then (if fr = 0 then .inf s else .nan, 0)
    else if fmtE4m3 c && ex = top && fr = 7 then (.nan, 0)
    else if ex = 0 then
      if fmtLong c && fr ≠ 0 then (.fin s 0 0, 1)
      else (.fin s fr (1 - (g.bias : Int) - (g.mb : Int)), 0)
    else (.fin s (fr + 2 ^ g.mb) ((ex : Int) - (g.bias : Int) - (g.mb : Int)), 0)

/-- A UE4M3 fine scale (R305): code with bit 7 set, or 0x7F, is NaN. -/
def decodeFine (n : Nat) : Val := if n ≥ 0x7F then .nan else (decodeElem 8 n).1

/-- An E8M0 block scale (R305). -/
def decodeE8m0 (n : Nat) : Val := if n = 0xFF then .nan else .fin false 1 ((n : Int) - 127)

/-- An element times its scale (R312): a NaN scale makes it NaN; a NaN or infinite element keeps its class; a zero
scale makes a zero with the element's own sign. -/
def scaleVal (v sc : Val) : Val :=
  match sc, v with
  | .nan, _ => .nan
  | _, .nan => .nan
  | _, .inf s => .inf s
  | .fin _ m e, .fin s n f => .fin s (n * m) (f + e)
  | .inf _, _ => .nan

/-- Element `k` of a packed area read as one little-endian bit string (R309). -/
def areaElem (w area k : Nat) : Nat := area / 2 ^ (w * k) % 2 ^ w

/-- One group of a block format decoded (R308, R312), `cnt` elements of it. -/
def decodeGroup (c : Nat) (coarse : Val) (cnt : Nat) (bytes : List Byte) : List (Val × Nat) :=
  let w := fmtBits c
  let area := leNat (bytes.take (512 * w))
  let scales := bytes.drop (512 * w)
  (List.range cnt).map fun k =>
    let sc := ((scales.drop (k / fmtBlock c)).headD 0).toNat
    let scv := if fmtMx c then decodeE8m0 sc else scaleVal (decodeFine sc) coarse
    let e := decodeElem c (areaElem w area k)
    (scaleVal e.1 scv, e.2)

/-- The groups of a block-format operand, one after another. -/
def decodeGroups (c : Nat) (coarse : Val) : Nat → Nat → List Byte → List (Val × Nat)
  | 0, _, _ => []
  | fuel + 1, cnt, bytes =>
    if cnt = 0 then []
    else decodeGroup c coarse (min cnt 4096) (bytes.take (groupBytes c)) ++
      decodeGroups c coarse fuel (cnt - 4096) (bytes.drop (groupBytes c))

/-- An operand of `count` elements decoded from its bytes (R311); each element with its flush count. -/
def decodeOperand (c : Nat) (coarse : Val) (count : Nat) (bytes : List Byte) : List (Val × Nat) :=
  if fmtBlock c = 0 then
    let w := fmtBits c / 8
    ((chunks w bytes).take count).map fun b => decodeElem c (leNat b)
  else decodeGroups c coarse (count / 4096 + 1) count bytes

/-- Compare `num / den × 2^e` with `m × 2^f`: whether the first is greater. -/
def greaterQ (num den : Nat) (e : Int) (m : Nat) (f : Int) : Bool :=
  let q := min e f
  decide (num * 2 ^ (e - q).toNat > m * den * 2 ^ (f - q).toNat)

/-- The code of the value `y × 2^q` on a grid, sign apart; the value is on the grid and not above its largest. -/
def packGrid (g : Grid) (y : Nat) (q : Int) : Nat :=
  if y = 0 then 0
  else
    let top : Int := (Nat.log2 y : Int) + q
    let emin : Int := 1 - (g.bias : Int)
    let ulp : Int := max top emin - (g.mb : Int)
    let m : Nat := if q ≥ ulp then y * 2 ^ (q - ulp).toNat else y / 2 ^ (ulp - q).toNat
    if top < emin then m else ((top - emin).toNat + 1) * 2 ^ g.mb + (m - 2 ^ g.mb)

/-- What an overflow or an infinite source becomes in a format that has no infinity or rounds toward zero. -/
inductive OverKind where
  | inf      -- ±∞, counted in INF
  | largest  -- ±largest finite, counted in SAT
  | nan      -- canonical NaN, counted in NAN
deriving DecidableEq, Repr

/-- Table 4's row of a floating destination under a rounding and SAT. -/
def overKind (c : Nat) (mode : Rnd) (sat : Bool) : OverKind :=
  if fmtLong c || c = 9 then (if mode = .zero then .largest else .inf)
  else if c = 8 then (if sat then .largest else .nan)
  else .largest

/-- The sign bit of a code of format `c`. -/
def signCode (c : Nat) (neg : Bool) : Nat := if neg then 2 ^ (fmtBits c - 1) else 0

/-- The canonical NaN code of a format that has one (R326); none for the others (R327). -/
def nanCode (c : Nat) : Option Nat :=
  match c with
  | 0 => some 0x7FC00000 | 1 => some 0x7E00 | 2 => some 0x7FC0
  | _ => if fmtE4m3 c then some 0x7F else if fmtE5m2 c then some 0x7E else none

/-- A NaN encoded (R326, R327). -/
def encodeNan (c : Nat) : Nat × Counts := ((nanCode c).getD 0, ⟨0, 0, 1, 0⟩)

/-- An infinity's code. -/
def infCode (c : Nat) (neg : Bool) : Nat := let g := fmtGrid c; signCode c neg + (2 ^ g.eb - 1) * 2 ^ g.mb

/-- The largest finite code of a sign. -/
def largestCode (c : Nat) (neg : Bool) : Nat := let g := fmtGrid c; signCode c neg + packGrid g g.maxM g.maxE

/-- An overflow encoded (Table 4). -/
def encodeOver (c : Nat) (k : OverKind) (neg : Bool) : Nat × Counts :=
  match k with
  | .inf => (infCode c neg, ⟨0, 0, 0, 1⟩)
  | .largest => (largestCode c neg, ⟨1, 0, 0, 0⟩)
  | .nan => encodeNan c

/-- `num / den × 2^e` of the sign `neg` encoded as one element of a floating format, its scales already divided out
(R316, R318 to R321, R328). Rounding into a long format is done with an unbounded exponent under nearest even and
toward zero, and on the subnormal spacing under stochastic rounding (R319; DEDUCED, log 13). -/
def encodeFin (c : Nat) (mode : Rnd) (sat : Bool) (neg : Bool) (num den : Nat) (e : Int) : Nat × Counts :=
  if num = 0 then (signCode c neg, countsZero)
  else
    let g := fmtGrid c
    let emin : Int := 1 - (g.bias : Int)
    let top : Int := floorLog2Q num den + e
    let bounded : Bool := match mode with | .stoch _ => true | _ => !fmtLong c
    let q : Int := (if bounded then max top emin else top) - (g.mb : Int)
    let t := gridDiv num den e q
    let y := roundGrid mode t.1 t.2.1 t.2.2
    let tooBig : Bool := greaterQ y 1 q g.maxM g.maxE
    -- Table 7: toward zero, a magnitude above the largest finite counts in SAT also where it rounds down to it
    let clampedRz : Bool := overKind c mode sat = .largest && (fmtLong c || c = 9) && greaterQ num den e g.maxM g.maxE
    if tooBig || clampedRz then encodeOver c (overKind c mode sat) neg
    else if fmtLong c && (y = 0 || decide ((Nat.log2 y : Int) + q < emin)) then (signCode c neg, ⟨0, 1, 0, 0⟩)
    else (signCode c neg + packGrid g y q, countsZero)

/-- A value encoded as one INT8 block element, saturated to ±127 (R323, R324). -/
def encodeInt8Elem (mode : Rnd) (neg : Bool) (num den : Nat) (e : Int) : Nat × Counts :=
  let t := gridDiv num den e 0
  let y := roundGrid mode t.1 t.2.1 t.2.2
  let s : Counts := if y > 127 then ⟨1, 0, 0, 0⟩ else countsZero
  let m := min y 127
  (if neg then (256 - m) % 256 else m, s)

/-- A value encoded in a format with no block: long, E4M3, E5M2 or integer (R325). -/
def encodePlain (c : Nat) (mode : Rnd) (sat : Bool) (v : Val) : Nat × Counts :=
  if fmtInt c then
    let w := fmtBits c
    match v with
    | .nan => (0, ⟨0, 0, 1, 0⟩)
    | .inf s => (if s then 2 ^ (w - 1) else 2 ^ (w - 1) - 1, ⟨1, 0, 0, 0⟩)
    | .fin s m e =>
      let t := gridDiv m 1 e 0
      let y := roundGrid mode t.1 t.2.1 t.2.2
      if s then (if y > 2 ^ (w - 1) then (2 ^ (w - 1), ⟨1, 0, 0, 0⟩) else ((2 ^ w - y) % 2 ^ w, countsZero))
      else (if y > 2 ^ (w - 1) - 1 then (2 ^ (w - 1) - 1, ⟨1, 0, 0, 0⟩) else (y, countsZero))
  else match v with
    | .nan => encodeNan c
    | .inf s =>
      -- R322: an infinite source stays infinite in a format that has an infinity, whatever ROUND
      if fmtLong c || c = 9 then encodeOver c .inf s else encodeOver c (overKind c mode sat) s
    | .fin s m e => encodeFin c mode sat s m 1 e

/-- One element of a block encoded: the value divided by its scale `X` (positive). -/
def encodeScaled (c : Nat) (mode : Rnd) (sc : Val) (v : Val) : Nat × Counts :=
  match v, sc with
  | .nan, _ => encodeNan c
  | .inf s, _ =>
    if c = 0x11 then encodeOver c .inf s
    else if fmtInt8Elem c then (if s then 129 else 127, ⟨1, 0, 0, 0⟩)
    else encodeOver c .largest s
  | .fin s m e, .fin _ k f =>
    if k = 0 then (if fmtInt8Elem c then 0 else signCode c s, countsZero)
    else if fmtInt8Elem c then encodeInt8Elem mode s m k (e - f + (if c = 0x15 then 6 else 0))
    else encodeFin c mode true s m k (e - f)
  | .fin s _ _, _ => (signCode c s, countsZero)

/-- The magnitude with which an element takes part in a block maximum: none for NaN; an infinity is `infAs`. -/
def magOf (infAs : Option Val) : Val → Option Val
  | .nan => none
  | .inf _ => infAs
  | .fin _ m e => some (.fin false m e)

/-- The larger of two non-negative values; an infinity exceeds every finite value. -/
def magMax : Val → Val → Val
  | .fin s m e, .fin t n f => if greaterQ n 1 f m e then .fin t n f else .fin s m e
  | .inf s, _ => .inf s
  | _, .inf s => .inf s
  | a, _ => a

/-- The block maximum of the elements that take part. -/
def blockMax (infAs : Option Val) (vs : List Val) : Val :=
  (vs.filterMap (magOf infAs)).foldl magMax (.fin false 0 0)

/-- emax of an MX element format (R323). -/
def mxEmax (c : Nat) : Int :=
  match c with
  | 0x10 => 8 | 0x11 => 15 | 0x12 => 4 | 0x13 => 2 | 0x14 => 2
  | _ => 0

/-- The largest finite FP32 as a value. -/
def maxFp32 : Val := .fin false 0xFFFFFF 104

/-- The E8M0 code of a block (R230, R323); of a block with no finite element 0x00, as of one whose largest magnitude is 0 (DESIGN CHOICE,
log 145). -/
def mxScaleCode (c : Nat) (vs : List Val) : Nat :=
  match blockMax (if c = 0x11 then none else some maxFp32) vs with
  | .fin _ m e =>
    if m = 0 then 0
    else
      let k : Int := (Nat.log2 m : Int) + e - mxEmax c
      if k < -127 then 0 else if k > 127 then 0xFE else (k + 127).toNat
  | _ => 0xFE

/-- Qmax of a two-level format (R231). -/
def tlQmax (c : Nat) : Nat :=
  match c with
  | 0x18 => 6 | 0x19 => 28 | 0x1A => 448
  | _ => 127

/-- The smallest code from `k` upward, `fuel` codes, whose fine scale is at least the bound; 0x7E when none is. -/
def fineSearch (ok : Nat → Bool) : Nat → Nat → Nat
  | 0, _ => 0x7E
  | fuel + 1, k => if ok k then k else fineSearch ok fuel (k + 1)

/-- The UE4M3 code of a block (R231, R324); the comparison is exact. -/
def tlFineCode (c : Nat) (coarse : Val) (vs : List Val) : Nat :=
  match blockMax (some (.inf false)) vs, coarse with
  | .inf _, _ => 0x7E
  | .fin _ m e, .fin _ k f =>
    if m = 0 then 0
    else fineSearch (fun code => match decodeFine code with
      | .fin _ a b => !greaterQ m 1 e (a * k * tlQmax c) (b + f)
      | _ => false) 126 1
  | _, _ => 0

/-- The grid values of one block and its scale code, given the block's elements with their random bits. -/
def encodeBlock (c : Nat) (mode : Nat → Rnd) (coarse : Val) (vs : List (Val × Nat)) : List Nat × Nat × Counts :=
  let code := if fmtMx c then mxScaleCode c (vs.map (·.1)) else tlFineCode c coarse (vs.map (·.1))
  let sc := if fmtMx c then decodeE8m0 code else scaleVal (decodeFine code) coarse
  let es := vs.map fun v => encodeScaled c (mode v.2) sc v.1
  (es.map (·.1), code, (es.map (·.2)).foldl countsAdd countsZero)

/-- Elements packed from bit 0 upward, `w` bits each (R309). -/
def packBits (w : Nat) : List Nat → Nat
  | [] => 0
  | e :: es => e + 2 ^ w * packBits w es

/-- A list padded to `n` entries. -/
def padTo {α : Type} (n : Nat) (z : α) (l : List α) : List α := l ++ List.replicate (n - l.length) z

/-- One group of a block format encoded in full, padding encoded as +0 (R308, R310). -/
def encodeGroup (c : Nat) (mode : Nat → Rnd) (coarse : Val) (vs : List (Val × Nat)) : List Byte × Counts :=
  let bs := (chunks (fmtBlock c) vs).map (encodeBlock c mode coarse)
  let w := fmtBits c
  let elems := (bs.map fun b => b.1).flatten
  let scales := padTo (4096 / fmtBlock c) 0 (bs.map fun b => b.2.1)
  (leBytes (512 * w) (packBits w elems) ++ scales.map (BitVec.ofNat 8),
    (bs.map fun b => b.2.2).foldl countsAdd countsZero)

/-- A list of values encoded as an operand of format `c` (R310, R325); each value comes with its 16 random bits, which
only stochastic rounding uses. -/
def encodeOperand (c : Nat) (mode : Nat → Rnd) (sat : Bool) (coarse : Val) (vs : List (Val × Nat)) : List Byte × Counts :=
  if fmtBlock c = 0 then
    let es := vs.map fun v => encodePlain c (mode v.2) sat v.1
    ((es.map fun e => leBytes (fmtBits c / 8) e.1).flatten, (es.map (·.2)).foldl countsAdd countsZero)
  else
    let gs := (chunks 4096 vs).map (encodeGroup c mode coarse)
    ((gs.map (·.1)).flatten, (gs.map (·.2)).foldl countsAdd countsZero)

/-- The rounding of a ROUND field as a function of an element's random bits. -/
def roundMode (round : Nat) (r : Nat) : Rnd := if round = 1 then .stoch r else if round = 2 then .zero else .even

/-- Whether an FP32 word is a positive normal power of two (R305). -/
def powerOfTwo32 (w : Word) : Bool :=
  w.toNat % 2 ^ 23 = 0 && 1 ≤ w.toNat / 2 ^ 23 && w.toNat / 2 ^ 23 ≤ 254

/-- The coarse scale that WMAX gives a two-level format (R231, R339), clamped to 2^−126 .. 2^127; `init` when WMAX is +0. -/
def coarseOf (c : Nat) (wmax init : Word) : Word :=
  match exact32 wmax with
  | .fin _ m e =>
    if m = 0 then init
    else
      let d := 112 * tlQmax c
      let fl := floorLog2Q m d + e
      -- ⌈log2⌉: one above the floor unless the quotient is a power of two
      let exactP : Bool := !greaterQ m d e 1 fl
      let k : Int := if exactP then fl else fl + 1
      let k := max (-126) (min 127 k)
      BitVec.ofNat 32 ((k + 127).toNat * 2 ^ 23)
  | _ => 0x7F000000#32

/-- Convert one value to FP32 under a rounding (a contribution on its way into an adder, R140, R331). -/
def toFp32 (v : Val) : Word × Counts :=
  let r := encodePlain 0 .even false v
  (BitVec.ofNat 32 r.1, r.2)

/-- Integer accumulation (R332): the sum brought back to `w` bits by wrap or saturation, with its SAT count. -/
def intAccum (w : Nat) (sat : Bool) (acc add : Int) : Int × Nat :=
  let t := acc + add
  let hi : Int := (2 ^ (w - 1) : Nat) - 1
  let lo : Int := -((2 ^ (w - 1) : Nat) : Int)
  if sat then (if t > hi then (hi, 1) else if t < lo then (lo, 1) else (t, 0))
  else (toSigned w (t % ((2 ^ w : Nat) : Int)).toNat, 0)

/-- A signed integer as `n` little-endian bytes. -/
def intBytes (n : Nat) (i : Int) : List Byte := leBytes n (i % ((256 ^ n : Nat) : Int)).toNat

end Sys2Proof.Machine
end

