-- ==== Sys2Proof/Machine/Hash.lean ====
section
/-! DEFINITION. The check sums and hashes the spec names: CRC-64 of ECMA-182 (R566, Table 4 of *Replica digests, error
correction and error reports*), CRC-32 of IEEE 802.3 (R345, R609, R655, R656), and SHA-256 and SHA-384 of FIPS 180-4
(R169, R170, R654). The round constants are computed from their definition: fractional bits of roots of primes. -/

namespace Sys2Proof.Machine

/-- One bit step of a CRC shifted left. -/
def crc64Bit (c : BitVec 64) : BitVec 64 := if c.msb then (c <<< 1) ^^^ 0x42F0E1EBA9EA3693#64 else c <<< 1

/-- `n` bit steps. -/
def crc64Bits : Nat → BitVec 64 → BitVec 64
  | 0, c => c
  | n + 1, c => crc64Bits n (crc64Bit c)

/-- CRC-64 over bytes, most significant bit first, initial value and final XOR 0 (Table 4). -/
def crc64 (bs : List Byte) : BitVec 64 :=
  bs.foldl (fun c b => crc64Bits 8 (c ^^^ BitVec.ofNat 64 (b.toNat * 2 ^ 56))) 0#64

/-- One reflected bit step of CRC-32. -/
def crc32Bit (c : Word) : Word := if c.getLsbD 0 then (c >>> 1) ^^^ 0xEDB88320#32 else c >>> 1

/-- `n` reflected bit steps. -/
def crc32Bits : Nat → Word → Word
  | 0, c => c
  | n + 1, c => crc32Bits n (crc32Bit c)

/-- CRC-32 of IEEE 802.3. -/
def crc32 (bs : List Byte) : Word :=
  (bs.foldl (fun c b => crc32Bits 8 (c ^^^ b.zeroExtend 32)) 0xFFFFFFFF#32) ^^^ 0xFFFFFFFF#32

/-- Whether `n` has no divisor from 2 to `d + 1`. -/
def noDivisor (n : Nat) : Nat → Bool
  | 0 => true
  | d + 1 => n % (d + 2) ≠ 0 && noDivisor n d

/-- The primes below 420, of which the first 80 are used. -/
def primesSmall : List Nat := (List.range 420).filter fun n => 2 ≤ n && noDivisor n (isqrt n - 1)

/-- Bitwise integer cube root. -/
def icbrtBits (n : Nat) : Nat → Nat → Nat
  | 0, acc => acc
  | k + 1, acc =>
    let c := acc + 2 ^ k
    icbrtBits n k (if c * c * c ≤ n then c else acc)

/-- The first `w` fractional bits of the square root of `p`. -/
def sqrtFrac (w p : Nat) : Nat := isqrt (p * 2 ^ (2 * w)) % 2 ^ w

/-- The first `w` fractional bits of the cube root of `p`. -/
def cbrtFrac (w p : Nat) : Nat := icbrtBits (p * 2 ^ (3 * w)) (w + 4) 0 % 2 ^ w

/-- The six rotation and shift triples of a SHA-2 variant. -/
structure ShaParams where
  w      : Nat             -- word bits
  rounds : Nat
  bigS0  : Nat × Nat × Nat
  bigS1  : Nat × Nat × Nat
  smallS0 : Nat × Nat × Nat
  smallS1 : Nat × Nat × Nat
deriving DecidableEq, Repr

/-- SHA-256 (FIPS 180-4). -/
def sha256P : ShaParams := ⟨32, 64, (2, 13, 22), (6, 11, 25), (7, 18, 3), (17, 19, 10)⟩

/-- SHA-384 and SHA-512 (FIPS 180-4). -/
def sha512P : ShaParams := ⟨64, 80, (28, 34, 39), (14, 18, 41), (1, 8, 7), (19, 61, 6)⟩

/-- Rotation right of a `w`-bit word. -/
def rotr (w n x : Nat) : Nat := x / 2 ^ n + x % 2 ^ n * 2 ^ (w - n)

/-- A Σ function: three rotations. -/
def bigSigma (w : Nat) (t : Nat × Nat × Nat) (x : Nat) : Nat := rotr w t.1 x ^^^ rotr w t.2.1 x ^^^ rotr w t.2.2 x

/-- A σ function: two rotations and a shift. -/
def smallSigma (w : Nat) (t : Nat × Nat × Nat) (x : Nat) : Nat := rotr w t.1 x ^^^ rotr w t.2.1 x ^^^ x / 2 ^ t.2.2

/-- The message schedule, newest word first, extended by `n` words. -/
def shaExtend (p : ShaParams) : Nat → List Nat → List Nat
  | 0, ws => ws
  | n + 1, ws =>
    let x := (smallSigma p.w p.smallS1 (ws.getD 1 0) + ws.getD 6 0 + smallSigma p.w p.smallS0 (ws.getD 14 0) +
      ws.getD 15 0) % 2 ^ p.w
    shaExtend p n (x :: ws)

/-- One round on the eight working words. -/
def shaRound (p : ShaParams) (h : List Nat) (kw : Nat × Nat) : List Nat :=
  match h with
  | [a, b, c, d, e, f, g, hh] =>
    let ch := (e &&& f) ^^^ ((2 ^ p.w - 1 - e) &&& g)
    let maj := (a &&& b) ^^^ (a &&& c) ^^^ (b &&& c)
    let t1 := hh + bigSigma p.w p.bigS1 e + ch + kw.1 + kw.2
    let t2 := bigSigma p.w p.bigS0 a + maj
    [(t1 + t2) % 2 ^ p.w, a, b, c, (d + t1) % 2 ^ p.w, e, f, g]
  | l => l

/-- One block. -/
def shaBlock (p : ShaParams) (ks : List Nat) (h : List Nat) (block : List Nat) : List Nat :=
  let ws := (shaExtend p (p.rounds - 16) block.reverse).reverse
  let r := (ks.zip ws).foldl (shaRound p) h
  (h.zip r).map fun x => (x.1 + x.2) % 2 ^ p.w

/-- A big-endian number of bytes. -/
def beNat (bs : List Byte) : Nat := bs.foldl (fun a b => a * 256 + b.toNat) 0

/-- `n` big-endian bytes of a number. -/
def beBytes (n v : Nat) : List Byte := (leBytes n v).reverse

/-- The padded message. -/
def shaPad (p : ShaParams) (m : List Byte) : List Byte :=
  let blk := 2 * p.w
  let lenB := p.w / 4
  let z := (blk - (m.length + 1 + lenB) % blk) % blk
  m ++ [0x80#8] ++ List.replicate z 0#8 ++ beBytes lenB (8 * m.length)

/-- The eight hash words of a message. -/
def shaWords (p : ShaParams) (h0 : List Nat) (m : List Byte) : List Nat :=
  let ks := (primesSmall.take p.rounds).map (cbrtFrac p.w)
  let blocks := chunks (2 * p.w) (shaPad p m)
  blocks.foldl (fun h b => shaBlock p ks h ((chunks (p.w / 8) b).map beNat)) h0

/-- SHA-256. -/
def sha256 (m : List Byte) : List Byte :=
  ((shaWords sha256P ((primesSmall.take 8).map (sqrtFrac 32)) m).map (beBytes 4)).flatten

/-- SHA-384: initial words from the 9th to the 16th prime, the first six words of the result. -/
def sha384 (m : List Byte) : List Byte :=
  (((shaWords sha512P (((primesSmall.drop 8).take 8).map (sqrtFrac 64)) m).take 6).map (beBytes 8)).flatten

end Sys2Proof.Machine
end

