-- ==== Sys2Proof/Machine/Plane.lean ====
section
/-! DEFINITION. The configuration a package acts on: what a Limbelia image fixes (Table 1 of *The Limbelia image*), as
plain data. A `Plane` is one whole configuration; the package holds a live plane and a shadow plane (R175). -/

namespace Sys2Proof.Machine

/-- A sparse map from numbers to values; keys rising, a missing key means the map's default. -/
abbrev NMap (α : Type) := List (Nat × α)

/-- Look up a key. -/
def nmGet? {α : Type} : NMap α → Nat → Option α
  | [], _ => none
  | (k, v) :: m, i => if i = k then some v else nmGet? m i

/-- Look up a key, with a default. -/
def nmGet {α : Type} (d : α) (m : NMap α) (i : Nat) : α := (nmGet? m i).getD d

/-- Set a key, keeping keys rising. -/
def nmSet {α : Type} (m : NMap α) (i : Nat) (v : α) : NMap α :=
  match m with
  | [] => [(i, v)]
  | (k, w) :: m' => if i < k then (i, v) :: (k, w) :: m' else if i = k then (i, v) :: m' else (k, w) :: nmSet m' i v

/-- Remove a key. -/
def nmErase {α : Type} (m : NMap α) (i : Nat) : NMap α := m.filter fun e => e.1 ≠ i

/-- The parameters of one command queue (Table 5 of *Host port, commands and handles*, Table 8 of *Register windows*). -/
structure QueueParams where
  en        : Bool
  tenant    : BitVec 4
  group     : BitVec 4
  weight    : BitVec 4
  sqEntries : BitVec 17
  hbase     : BitVec 16
  cqEntries : BitVec 17
  sqBase    : BitVec 44
  cqBase    : BitVec 44
deriving DecidableEq, Repr

/-- A queue that does not exist (EN 0). -/
def queueAbsent : QueueParams := ⟨false, 0, 0, 0, 0, 0, 0, 0, 0⟩

/-- A run of 64 MiB granules with one owner (GRANULES of R586). -/
structure GranuleRun where
  first : Nat
  count : Nat
  owner : BitVec 4
deriving DecidableEq, Repr

/-- A tenant entry (Table 1 of *Tenants and contexts*) but for GRANULES, which is one table over D-space. -/
structure TenantEntry where
  enabled   : Bool
  ueOwn     : BitVec 320
  pChannels : BitVec 256
  opsMax    : Nat
  txgMax    : Nat
  weight    : Nat
  seed      : BitVec 128
  hostBase  : Nat
  eventRing : Option Nat   -- none while no image has placed the ring
deriving DecidableEq, Repr

/-- A tenant that is not enabled. -/
def tenantAbsent : TenantEntry := ⟨false, 0, 0, 0, 0, 0, 0, 0, none⟩

/-- The interleave policy of a 1 GiB region (R416). -/
inductive Interleave where
  | packageWide
  | stackLocal (stack : Fin 4)
deriving DecidableEq, Repr

/-- What an engine-owned region holds (R51, R361, R570, R605). -/
inductive OwnedKind where
  | state | accumulator | relay | gather | undo | digest | exchange | other
deriving DecidableEq, Repr

/-- An engine-owned region of DMAP (R51). -/
structure OwnedRegion where
  base  : Nat
  bytes : Nat
  owner : BitVec 4
  kind  : OwnedKind
deriving DecidableEq, Repr

/-- A shared region and its source pointer (R559). -/
structure SharedRegion where
  base   : Nat
  bytes  : Nat
  source : DWord
deriving DecidableEq, Repr

/-- A gather buffer: one host address range mapped by its homes to one of two copies (R45, R46), or one slot of a
gather window when it has a single copy (R405). -/
structure GatherBuffer where
  base   : Nat
  bytes  : Nat
  copy0  : Nat
  copy1  : Option Nat
  tenant : BitVec 4
  layer  : Nat
  owners : List (Nat × Nat × BitVec 13)   -- offset, bytes and owning package of each chunk
deriving DecidableEq, Repr

/-- Relay tiles placed in the fast tier (R361), with the accumulator mode they relay (R362). -/
structure RelayRegion where
  base   : Nat
  tiles  : Nat
  fmt    : Nat        -- 0x00 FP32, 0x20 INT32, 0x21 INT64
  sat    : Bool
  tenant : BitVec 4
deriving DecidableEq, Repr

/-- The DMAP section (class B): address-space layout. -/
structure DMap where
  pRows    : Nat
  policies : NMap Interleave        -- by 1 GiB region; unlisted: package-wide
  owned    : List OwnedRegion
  shared   : List SharedRegion
  gathers  : List GatherBuffer
  relays   : List RelayRegion
  staging  : NMap Nat               -- by UE, in bytes; unlisted: 512 KiB
  fastPool : List Nat               -- 1 GiB regions, in order (R491)
  capPool  : List Nat
  exchange : Nat                    -- base of the digest exchange area (R570)
deriving DecidableEq, Repr

/-- Slot mode of a shard (R216, R275). -/
inductive SlotMode where
  | dual
  | capacity (undoBase : Nat) (entries : Nat) (spec : Bool)
deriving DecidableEq, Repr

/-- One shard of the shard map (SHARDS). -/
structure ShardCfg where
  tenant     : BitVec 4
  n          : Nat
  capTier    : Bool
  intKind    : Bool
  fields     : BitVec 5
  mode       : SlotMode
  stateBase  : Nat
  accBase    : Nat
  accFmt     : Nat          -- 0x00, 0x20 or 0x21
  accSat     : Bool
  ueSet      : List Nat
  fmtIndex   : Nat          -- its FORMATS entry
  prog       : Nat
  gather     : Nat          -- index of its gather buffer in DMAP
  gatherOff  : Nat
  factorBase : Nat
  cols       : Nat          -- columns of the tensor, for factored programs
  trustGroup : Option Nat
  group      : Nat          -- replica-group number
  members    : List (BitVec 13)   -- members of the replica group, by position; empty: none
  digestBase : Nat
  epoch0     : Bool
deriving DecidableEq, Repr

/-- An update program (Tables 1 and 3 of *Update engines and parameter state*). -/
structure UeProgram where
  fields  : BitVec 5
  lrSrc   : Bool
  intKind : Bool
  kEma    : Nat
  cplan   : Option Nat
  ks      : List Word
  pass0   : List DWord
  pass1   : List DWord
deriving DecidableEq, Repr

/-- A FORMATS entry (Table 8 of *Number formats and arithmetic*). -/
structure FormatEntry where
  nfmt       : Nat
  round      : Nat
  sat        : Bool
  initCoarse : Word
deriving DecidableEq, Repr

/-- One phase entry of a collective plan (Table 6 of *Hazel fabric and memory-side collectives*). -/
structure CPhase where
  op       : Nat
  dim      : Nat
  rings    : BitVec 9
  span     : Nat
  pos      : Nat
  first    : Nat
  count    : Nat
  plus     : BitVec 13
  plusRtd  : Bool
  minus    : BitVec 13
  minusRtd : Bool
  part     : Nat
  standin  : Option (BitVec 13)
deriving DecidableEq, Repr

/-- A collective plan (Table 5 of the same chapter). -/
structure CPlan where
  kind    : Nat
  rotate  : Nat
  contrib : Bool
  tiles   : Nat
  base    : Nat
  frame   : Nat
  group   : BitVec 14
  phases  : List CPhase
  narrowOffs : List (Nat × Nat)   -- KIND 2: offset and bytes of each tile of the region (log 51)
deriving DecidableEq, Repr

/-- One layer of a step plan: its reduce and gather plans and its gather buffer (R45, R266). -/
structure StepLayer where
  reduce  : Option Nat
  gather  : Option Nat
  buffer  : Nat
  shards  : List Nat
deriving DecidableEq, Repr

/-- A gather of a step plan into a slot of its gather window (R405, R407). -/
structure SlotGather where
  plan    : Nat             -- its KIND 2 plan, whose GROUP is the slot's sync object
  slot    : Nat             -- the slot: a gather buffer of one copy
  own     : Nat             -- the gather buffer that holds this package's own narrow weights of the layer
  ownOff  : Nat             -- offset in the plan's region at which that buffer begins
  release : BitVec 14       -- the slot's release sync object
deriving DecidableEq, Repr

/-- A mark between the phases of a step plan (R597; log 69). -/
inductive StepMark where
  | started
  | slot (gather : Nat)     -- a gather into a slot is complete
  | reduced (layer : Nat)
  | swept (layer : Nat)
  | gathered (layer : Nat)
  | decided
  | flipped
deriving DecidableEq, Repr

/-- A step plan (STEPPLANS; R254 to R271, R596 to R598). -/
structure StepPlan where
  tenant  : BitVec 4
  shards  : List Nat        -- ascending package shard numbers
  layers  : List StepLayer
  relays  : List Nat        -- relay regions zeroed with the step
  norm    : Option Nat      -- its KIND 3 plan
  theta   : Word
  gamma   : Word
  lsGrow  : Nat
  sync    : BitVec 14       -- signalled at the gather flip (R47, R48)
  guest   : Option (BitVec 4)
  windows : List (StepMark × StepMark)  -- bubble windows, by opening and closing mark (R597)
  slots   : List SlotGather -- gathers into the gather window, in the plan's order (R405)
  pips    : List Nat        -- Pip programs that it references (Table 7 of *The Limbelia image*)
deriving DecidableEq, Repr

/-- A Pip program (Tables 4 and 5 of *Pips: logic in the sense amplifiers*). -/
structure PipProgram where
  hot    : Bool
  maxA   : Nat
  maxB   : Nat
  maxC   : Nat
  absTop : Nat
  ops    : List DWord
deriving DecidableEq, Repr

/-- The POWER section. -/
structure PowerCfg where
  package : Nat
  tenants : NMap Nat
  phases  : NMap Nat
deriving DecidableEq, Repr

/-- The POLICY section. -/
structure PolicyCfg where
  repairTimeout : Nat     -- µs
  quietTimeout  : Nat     -- in units of 100 µs (Table 1 of *The Limbelia image*)
  ceThreshold   : Nat
  throttleFloor : Nat
deriving DecidableEq, Repr

/-- The SYSTEM section (R355; Table 1 of *The Limbelia image*). -/
structure SystemCfg where
  dims       : List (Nat × Nat)     -- (n_d, c_d)
  ringDim    : List (Option Nat)    -- the dimension of ring pair 0..8, none when not in use
  digestK    : Nat
  preferLow  : Bool                 -- two-replica rule: prefer the lower ring position; else halt
deriving DecidableEq, Repr

/-- One FALLBACK case (R195, R384): the replaced collective plans, by index. -/
structure FallbackCase where
  pkg    : BitVec 13
  plans  : NMap CPlan
  tree   : Option Nat               -- KIND 3 plan of the recovery round
deriving DecidableEq, Repr

/-- A register preset of REGS (R164). -/
structure RegPreset where
  offset : Nat
  value  : Word
  mask   : Word
deriving DecidableEq, Repr

/-- One whole configuration. -/
structure Plane where
  isImage   : Bool          -- false: the boot configuration
  spid      : DWord
  package   : BitVec 13
  sysSize   : Nat
  svn       : Word
  sealing   : Bool
  digest    : List Byte     -- image digest, 48 bytes; empty while no image is live
  baseDigest : List Byte    -- BASE_DIGEST of a delta; empty for a full image
  system    : SystemCfg
  control   : BitVec 4
  groups    : NMap (BitVec 16)   -- allowed tenants by module group; unlisted: 0
  granules  : List GranuleRun
  tenants   : NMap TenantEntry
  queues    : NMap QueueParams
  syncs     : NMap (BitVec 4)    -- owner by sync object; unlisted: 0
  dmap      : DMap
  shards    : NMap ShardCfg
  ueprogs   : NMap UeProgram
  formats   : NMap FormatEntry
  stepplans : NMap StepPlan
  cplans    : NMap CPlan
  fallback  : List FallbackCase
  pipprogs  : NMap PipProgram
  power     : PowerCfg
  policy    : PolicyCfg
  regs      : List RegPreset
deriving DecidableEq, Repr

/-- Granules of D-space that can ever be mapped: 2.375 TiB / 64 MiB (R586). -/
def granuleCount : Nat := 38912

/-- Queue 0 of the boot configuration (Table 10 of *The Limbelia image*); its CQ_BASE is read from HUB_BOOT_CQ (R737). -/
def bootQueue0 : QueueParams := ⟨true, 0, 0, 1, 16, 0, 16, 0, 0⟩

/-- Tenant 0 of the boot configuration. -/
def bootTenant0 : TenantEntry :=
  ⟨true, BitVec.allOnes 320, BitVec.allOnes 256, 4096, 64, 1, 0x00000004000000030000000200000001#128, 0, none⟩

/-- DMAP of the boot configuration: P_ROWS 0, every region package-wide (DESIGN CHOICE, log 20), nothing owned but the
image store, which R166 fixes by address. -/
def bootDMap : DMap := ⟨0, [], [], [], [], [], [], [], [], 0⟩

/-- The boot configuration (Table 10 of *The Limbelia image*). -/
def bootPlane : Plane :=
  { isImage := false, spid := 0, package := 0, sysSize := 1, svn := 0, sealing := false, digest := [], baseDigest := []
    system := ⟨[], [], 0, false⟩
    control := 0
    groups := (List.range 16).map fun g => (g, 1#16)
    granules := [⟨0, granuleCount, 0⟩]
    tenants := [(0, bootTenant0)]
    queues := [(0, bootQueue0)]
    syncs := []
    dmap := bootDMap
    shards := [], ueprogs := [], formats := [], stepplans := [], cplans := [], fallback := [], pipprogs := []
    power := ⟨560, [], []⟩
    policy := ⟨2000, 10000, 0, 0⟩
    regs := [] }

/-- Parameters of a queue of a plane. -/
def planeQueue (p : Plane) (q : Nat) : QueueParams := nmGet queueAbsent p.queues q

/-- A tenant entry of a plane. -/
def planeTenant (p : Plane) (t : Nat) : TenantEntry := nmGet tenantAbsent p.tenants t

/-- The owner of a sync object. -/
def planeSyncOwner (p : Plane) (s : Nat) : BitVec 4 := nmGet 0 p.syncs s

/-- The owner of a granule, none for a granule that belongs to no tenant. -/
def granuleOwner (p : Plane) (g : Nat) : Option (BitVec 4) :=
  (p.granules.find? fun r => decide (r.first ≤ g) && decide (g < r.first + r.count)).map (·.owner)

/-- Staging size of a UE in bytes (R68). -/
def stagingOf (p : Plane) (ue : Nat) : Nat := nmGet 0x80000 p.dmap.staging ue

/-- Fields of a shard's set, in the bit order of Table 5 of *Update engines and parameter state*. -/
def fieldList (c : ShardCfg) : List Nat := (List.range 5).filter fun k => c.fields.getLsbD k

/-- NF, the number of fields. -/
def fieldCount (c : ShardCfg) : Nat := (fieldList c).length

/-- Tiles of a shard of N elements. -/
def tileCount (c : ShardCfg) : Nat := (c.n + 4095) / 4096

/-- Bytes of one element of a state field: 8 for an integer shard (R217). -/
def elemBytes (c : ShardCfg) : Nat := if c.intKind then 8 else 4

/-- Bytes of one field block of a tile: 16 KiB, or 32 KiB for an integer shard. -/
def blockBytes (c : ShardCfg) : Nat := 4096 * elemBytes c

/-- Whether the shard is in capacity mode. -/
def capMode (c : ShardCfg) : Bool := match c.mode with | .capacity _ _ _ => true | .dual => false

/-- TAGB of a capacity-mode shard (R275). -/
def tagBytes (c : ShardCfg) : Nat := (8 * tileCount c + 4095) / 4096 * 4096

/-- Address of field number `j` of tile `t` in slot `s` (R216, R217, R275). -/
def fieldAddr (c : ShardCfg) (s : Nat) (t j : Nat) : Nat :=
  if capMode c then c.stateBase + 0x1000 + tagBytes c + t * (fieldCount c * blockBytes c) + j * blockBytes c
  else c.stateBase + 0x1000 + t * (2 * fieldCount c * blockBytes c) + s * (fieldCount c * blockBytes c) + j * blockBytes c

/-- Address of a slot's header; a capacity-mode shard has one header (R216, R275). -/
def headerAddr (c : ShardCfg) (s : Nat) : Nat := if capMode c then c.stateBase else c.stateBase + 64 * s

/-- Bytes of a shard's whole state region. -/
def stateBytes (c : ShardCfg) : Nat :=
  if capMode c then 0x1000 + tagBytes c + tileCount c * (fieldCount c * blockBytes c)
  else 0x1000 + tileCount c * (2 * fieldCount c * blockBytes c)

/-- Bytes of one accumulator element. -/
def accElemBytes (fmt : Nat) : Nat := if fmt = 0x21 then 8 else 4

/-- Bytes of one accumulator tile (R220). -/
def accTileBytes (fmt : Nat) : Nat := 4096 * accElemBytes fmt

/-- Address of a shard's accumulator tile (R220). -/
def accAddr (c : ShardCfg) (t : Nat) : Nat := c.accBase + t * accTileBytes c.accFmt

/-- Bytes of one narrow tile (Table 8 of *Update engines and parameter state*, R308). -/
def narrowTileBytes (nfmt : Nat) : Nat := operandBytes nfmt 4096

/-- The elements of tile `t` that are not padding (R212). -/
def tileElems (c : ShardCfg) (t : Nat) : Nat := min 4096 (c.n - 4096 * t)

/-- The format of a shard's narrow weight. -/
def narrowFmt (p : Plane) (c : ShardCfg) : Nat := (nmGet ⟨0x1A, 0, false, fpOne⟩ p.formats c.fmtIndex).nfmt

end Sys2Proof.Machine
end

