-- ==== Sys2Proof/Config.lean ====
section
/-! DEFINITION. Values the manual leaves open: opaque constants, applied to a counter of the state or to what they depend
on. Nothing can evaluate them. -/

namespace Sys2Proof.Config

/-- A choice the device may take either way (R82, R87: whether a copy is kept), one per use. -/
opaque freeBit : Nat → Bool

/-- A value the manual leaves undefined, one per use. -/
opaque freeNat : Nat → Nat

/-- Contents of a P-space row that has not been written since a COLD reset (R73), by that reset and row. -/
opaque undefinedRow : Nat → Nat → BitVec 8192

/-- Contents of a compute row at the start of an atom (R449). -/
opaque undefinedCompute : Nat → Nat → BitVec 8192

/-- Contents of an S-space byte that the work of a UE has left open, by the index of that work. -/
opaque freeScratch : Nat → Nat → BitVec 8

/-- The result of a stage or operand that no table of the manual names; only an image outside the manual has one (R198). -/
opaque unnamedStage : Nat → Nat

/-- What a section of an image means: the configuration with that section read from its bytes in place of its own. The manual
names what each section fixes and gives no layout of it; none where the bytes can be read as nothing (log 84). -/
opaque imageSection : Nat → List Byte → Machine.Plane → Option Machine.Plane

/-- The bytes of a QUEUES or SYNC section that hold what a configuration has come to by SH writes (R170; log 84). -/
opaque sectionOf : Nat → Machine.Plane → List Byte

/-- The SHA-384 of the root key, fused into the hub at manufacture. -/
opaque rootKeyHash : List Byte

/-- The fused minimum firmware SVN (R709). -/
opaque fusedSvnMin : BitVec 12

/-- The level of the LEAD_SEL strap. -/
opaque leadSel : Bool

/-- The Husk's ECDSA P-256 signature of a record's first 384 bytes (R653); its key is in no interface (R654). -/
opaque huskSign : Nat → List Byte → List Byte

/-- The Husk's public key, Ecquel's certificate signature over it, and the Husk's serial number (R654). -/
opaque huskKey : List Byte
opaque huskCert : List Byte
opaque huskSerial : List Byte

end Sys2Proof.Config
end

