-- ==== Sys2Proof/Machine/StepState.lean ====
section
/-! DEFINITION. The records of the step machinery that the state holds: operations, tickets, shards, sweeps, step runs,
trees, transaction groups and Hazel ports, as plain data. -/

namespace Sys2Proof.Machine

/-- A status code of Table 14 of *Host port, commands and handles*. -/
abbrev Status := BitVec 16

/-- The life of a fetched handle (Table 13); an Issued handle is one that P covers and H has not reached. -/
inductive OpPhase where
  | waiting | running | done | retired
deriving DecidableEq, Repr

/-- A fetched operation. -/
structure Op where
  handle  : Word
  queue   : Nat
  number  : Word          -- the descriptor's count p (R122)
  order   : Nat           -- its place in the fetch order of the package
  tenant  : BitVec 4
  desc    : BitVec 512    -- the 64 bytes, little-endian
  phase   : OpPhase
  failed  : Option Status -- the first failed check of R142
  started : Bool          -- its command has begun to act
  met     : Option DWord  -- the sync value at which a WAIT's condition held
  status  : Status
  empty   : Bool
  signalled : Bool
  replayed : Bool
  event   : Bool
  res0    : Word
  res1    : DWord
  counts  : Counts
  cursor  : Nat           -- first position taken from its queue's cursor (R536)
  pieces  : List (Nat × List Byte)  -- push pieces taken, by OFFSET64
  remote  : Nat           -- remote frames still outstanding
  pull    : Bool          -- it awaits the answer of its own SERVE frame (R354)
  spoiled : List Nat      -- offsets at which that answer was poisoned (R354)
  stream  : Nat           -- the source stream it sends or awaits
  last    : Bool          -- it has sent a zero-length FINAL frame to another package (R776)
  seat    : Nat           -- its place in the order of entering Running (R775, R777)
  behind  : Bool          -- a PLAN_RUN that entered Running while an earlier one drove a shard of its plan (R775)
  collNo  : Nat           -- a collective command's number (R777)
deriving DecidableEq, Repr

/-- A push piece held in a base die's push buffer (R117). -/
structure PushPiece where
  queue  : Nat
  pushId : BitVec 16
  offset : BitVec 20
  tenant : BitVec 4
  data   : List Byte
deriving DecidableEq, Repr

/-- The counts of a queue (R122) and the flags of its doorbell page (Table 6). -/
structure QCounts where
  p : Word
  h : Word
  t : Word
  c : Word
  l : Nat
  badDb   : Bool
  cqStall : Bool          -- EV_CQ_FULL raised for the present stall
  cursor  : DWord         -- random cursor (R536)
  bell    : List HostReq  -- writes of the doorbell's own module that a home still held when it rang (R81)
deriving DecidableEq, Repr

/-- Counts of a queue after cold reset (R122). -/
def qZero : QCounts := ⟨0, 0, 0, 0, 0, false, false, 0, []⟩

/-- A pending event of one code (R158). -/
structure EvtEntry where
  code   : BitVec 16
  repeats : Nat
  place  : DWord          -- WHERE
  detail : DWord
  handle : Word
deriving DecidableEq, Repr

/-- A tenant's event ring (R771). -/
structure EvtRing where
  seq     : Word          -- last SEQ written
  head    : Word          -- HUB_EVT_HEAD
  pending : List EvtEntry
deriving DecidableEq, Repr

/-- An event ring after cold reset. -/
def evtZero : EvtRing := ⟨0, 0, []⟩

/-- A norm triple (R247). -/
structure Triple where
  sumsq : Word
  maxm  : Word
  nf    : Bool
deriving DecidableEq, Repr

/-- The triple of nothing. -/
def tripleZero : Triple := ⟨0, 0, false⟩

/-- A verdict record (Table 3 of *Speculative update and the commit sweep*). -/
structure Verdict where
  stepNo  : DWord
  outcome : Nat           -- 0 commit, 1 redo, 2 skip
  clip    : Word
  norm    : Word
  sumsq   : Word
  maxg    : Word
  nf      : Bool
  hint    : BitVec 8
deriving DecidableEq, Repr

/-- Shard states (Table 1 of the same chapter). -/
inductive ShardState where
  | clean | sweeping | written | redoing | ready | held
deriving DecidableEq, Repr

/-- What the transaction directory keeps of a shard (R251), with its halt (R558). -/
structure ShardDyn where
  epoch  : Bool
  st     : ShardState
  halted : Bool
  header : List Byte      -- header that the commit of a capacity-mode shard will write (R279)
  between : Option (List Word)  -- between-pass vector of its last sweep, for a recovery that goes on from there (R295)
deriving DecidableEq, Repr

/-- A shard nothing has touched. -/
def shardZero : ShardDyn := ⟨false, .clean, false, [], none⟩

/-- Who sent a contribution. -/
inductive ContribSrc where
  | accum (handle : Word)
  | plan (port : Nat) (frame : Frame)
deriving DecidableEq, Repr

/-- A contribution to one tile. -/
structure Contribution where
  ticket : Nat            -- TICKET, or the plan ticket k of an ACC or SET frame
  src    : ContribSrc
  set    : Bool
  sat    : Bool
  final  : Bool
  elems  : List (Nat × Nat)   -- element of the tile; FP32 bits, or the integer as 64-bit two's complement
deriving DecidableEq, Repr

/-- The ticket sequence of one accumulator or relay tile (R240 to R246). -/
structure TileDyn where
  next    : Nat           -- B, the lowest ticket not yet applied
  held    : List Contribution   -- accepted host tickets
  plan    : List Contribution   -- plan tickets arrived
  final   : Option Nat
  triple  : Option Triple
  sent    : Nat           -- phases of its plan that have sent it on
deriving DecidableEq, Repr

/-- A tile's sequence after its zeroing. -/
def tileZero : TileDyn := ⟨0, [], [], none, none, 0⟩

/-- What started a sweep. -/
inductive SweepBy where
  | run (handle : Word)
  | command (handle : Word)
  | repair                -- swept again after a repair, for no command and no run (R577)
deriving DecidableEq, Repr

/-- A sweep that is running. -/
structure SweepRec where
  shard  : Nat
  redo   : Bool           -- it leaves READY, not WRITTEN
  c      : Word           -- S0
  lrArg  : Option Word    -- ARG0 [31:0] of the driving PLAN_RUN (R223)
  stepNo : DWord
  by_    : SweepBy
  stop   : Bool           -- ordered to stop at its next tile boundary
  ahead  : Bool           -- a speculative sweep of a capacity-mode shard (R280)
  pass1  : Bool           -- pass 0 is complete (R227)
  own    : List Word      -- this shard's own between-pass vector, once pass 0 is complete
  between : Option (List Word)  -- the combined between-pass vector
  again  : Bool           -- once stopped, it starts again from the repaired slot (R577)
  resume : Bool           -- tiles whose tag is already its STEP_NO are not swept again (R295)
deriving DecidableEq, Repr

/-- A run of a step plan (R775). -/
structure StepRun where
  handle   : Word
  tenant   : BitVec 4
  plan     : Nat
  stepNo   : DWord
  arg0     : DWord
  started  : Bool
  replays  : Nat
  entered  : Bool         -- its package triple has entered the norm tree
  verdict  : Option Verdict
  flipped  : Bool         -- epoch flips complete
  redos    : List Nat     -- shards whose redo or remaining sweep has been started or is not needed
  held     : List Nat     -- shards HELD
  narrow   : List (Nat × Nat)  -- narrow tiles present in the inactive copies: (layer, region tile)
  gathered : List Nat     -- layers whose gather flip has taken place
  dropped  : Bool         -- inactive gather copies discarded after a skip
  zeroed   : Bool
  signalled : Bool
  slots    : Nat          -- gathers into slots that it has begun (R405)
  slotGot  : List (Nat × Nat)  -- tiles present in the slots: (gather, region tile)
  closed   : List Nat     -- bubble windows that have closed (R598)
deriving DecidableEq, Repr

/-- A commit record of the retention island (R262). -/
structure CommitRec where
  tenant : BitVec 4
  stepNo : DWord
  outcome : Nat
deriving DecidableEq, Repr

/-- What a tree is run for. -/
inductive TreeUse where
  | step (handle : Word)
  | norm (handle : Word)
  | between (shard : Nat)
  | recovery
deriving DecidableEq, Repr

/-- A value on a tree: triples, FP32 vectors, or the record of the recovery round (R369, R372, R381). -/
structure TreeVal where
  triple  : Triple
  vector  : List Word
  flag    : Bool
  verdicts : List (BitVec 4 × Verdict)
deriving DecidableEq, Repr

/-- A tree in progress on this package. -/
structure TreeRun where
  use    : TreeUse
  tenant : BitVec 4
  plan   : Nat
  seq    : Word           -- STEP of its frames
  attempt : Nat
  phase  : Nat            -- the UP phase that it is in
  value  : TreeVal        -- own value, with the chains already combined
  plus   : NMap TreeVal   -- values that arrived from the + chain, by phase
  minus  : NMap TreeVal
  up     : Bool           -- sent up; the result is awaited
  down   : List Word      -- what has arrived of the result vector
deriving DecidableEq, Repr

/-- A collective command at work (R777). -/
structure CollRun where
  handle : Word
  tenant : BitVec 4
  plan   : Nat
  number : Nat
  src    : Nat
  dst    : Nat
  fmt    : Nat
  begun  : Bool           -- it has entered work
  got    : List Nat       -- tiles of a GATHER present here
deriving DecidableEq, Repr

/-- States of a transaction group (R282 to R289). -/
inductive TxgState where
  | open_ | ending | doomed | conflict
deriving DecidableEq, Repr

/-- An open transaction group. -/
structure Txg where
  group  : Nat
  queue  : Nat
  tenant : BitVec 4
  order  : Nat            -- fetch order of its TXG_BEGIN
  wset   : Nat
  lines  : NMap (List Byte)   -- locked lines with their new 128 bytes
  state  : TxgState
deriving DecidableEq, Repr

/-- A lock request waiting at a line's mutex (R104). -/
structure LockWait where
  line  : Nat
  group : Nat
  round : Nat             -- grants of the line since the request was accepted
  full  : Bool            -- its grant found no room for the line; its command is to end with ST_LIMIT (R285)
deriving DecidableEq, Repr

/-- A Hazel port (R340, Tables 16 and 17). -/
structure HzPort where
  up      : Bool
  width   : BitVec 2
  los     : Bool
  across  : Bool
  out     : Bool
  peer    : BitVec 13
  peerSpid : DWord
  badLanes : List Nat
  replayRun : Nat         -- replays of the same frame in a row
  credits : NMap Nat      -- by VC, in 256 B units
  lastVc  : Nat           -- the channel that it last served among those that share it round-robin (R348)
  sendq   : List Frame    -- frames waiting for credit
  unacked : List Frame    -- frames sent whose credits have not come back, oldest first; the replay buffer holds the youngest of them
  fecCorr : Word
  fecUncorr : Word
  replays : Word
  stale   : Word
  creditWait : Word
deriving DecidableEq, Repr

/-- A port that is down, with its counters at 0. -/
def hzDown : HzPort := ⟨false, 0, false, false, false, 0, 0, [], 0, [], 0, [], [], 0, 0, 0, 0, 0⟩

/-- An open stream-and-group count (R351, R352). -/
structure StreamCount where
  src    : BitVec 13
  stream : Word
  group  : BitVec 14
  landed : Nat
  final  : Option (Word × Word × Frame)   -- PRIOR and SIG_ADD of a held FINAL frame
  quiet  : Bool           -- that FINAL frame was discarded, and signals nothing when it closes the count
  port   : Nat
  planned : Option (BitVec 4)             -- the tenant whose plan step it belongs to
deriving DecidableEq, Repr

/-- Progress of a dropout (R380 to R383). -/
structure DropState where
  learned : List (BitVec 13)   -- packages this one has learned are dropped
  late    : List Nat           -- ports across the closed bypasses that have not trained in time (R381)
  pending : Option (BitVec 13) -- the dropout whose recovery round is in progress
  bad     : Bool               -- the flag this package will send up
  dropped : Bool               -- this package has dropped out
  wdog    : Bool
  keepDelay : Bool             -- 100 µs between DROP(self) and the fall of the keep outputs
  keepLow : Bool               -- keep outputs held low from reset until R375 holds again
  halt    : Bool
  cut     : Bool
  drops   : BitVec 16
  cas     : Option (BitVec 13) -- the live fallback case
deriving DecidableEq, Repr

end Sys2Proof.Machine
end

