-- ==== Sys2Proof/Machine/UnitState.lean ====
section
/-! DEFINITION. The state of the units outside the front end and the step machinery, as plain data. -/

namespace Sys2Proof.Machine

/-- UEs: availability and the fault registers of each die (Tables 12 to 14 of *Update engines and parameter state*). -/
structure UeUnits where
  avail  : BitVec 320
  faults : NMap (Nat × Nat × Bool)   -- by die 0..5: COUNT, LAST_UE, RESIDUE
deriving DecidableEq, Repr

/-- Capacity tier and migration (R482 to R499). -/
structure TierUnits where
  lpChannels : Nat          -- N, installed channels per bridge (R483)
  lpRate     : BitVec 2     -- RATE of TB_LP_CONFIG (R715)
  lpFailed   : List Nat     -- bridge channels that failed, bridge × 32 + channel
  placed     : NMap Nat     -- displaced move units: unit number to the address of its pool frame (R492)
  pins       : List Nat     -- pinned move units, rising (R497)
  moves      : List (Nat × Nat × Word)  -- moves that commands have reserved, in order: unit, target frame, command (R495)
  lecc       : NMap (Nat × Nat × Nat)   -- by bridge × 32 + channel: corrected bursts, retried reads, failed reads
  selfRefresh : List Nat    -- bridges in self-refresh
  hubLost    : List Nat     -- bridges whose self-refresh was entered under R486
  links      : NMap (Nat × Nat)  -- by burst of a bridge channel: failing attempts and corrected bursts that its next read will meet (R484)
  unlisted   : List Nat     -- granules that their last read found uncorrectable with the bridge's poison list full, rising (R552)
deriving DecidableEq, Repr

/-- A fast-tier channel (Tables 8 to 11 of *Stacks, channels and the hint cache*). -/
structure Chan where
  inService : Bool
  failed  : Bool
  retrain : Bool
  spares  : Nat
  hot     : Bool
  behind  : NMap Nat      -- refreshes owed, by bank
  temp    : BitVec 8
  ce      : Word
  ue      : Word
  retries : BitVec 16
  repairs : BitVec 7
  lastLane : BitVec 9
  attempts : Nat          -- attempts of the present transfer that have failed (R429)
deriving DecidableEq, Repr

/-- A channel after a COLD reset. -/
def chanReset : Chan := ⟨false, false, false, 0, false, [], 0, 0, 0, 0, 0, 0x1FF, 0⟩

/-- State of a cached sector (R433). -/
inductive SectorState where
  | invalid | clean | dirty
deriving DecidableEq, Repr

/-- A visitor copy's bytes, with the tenant and acquire generation that they were taken under (R87, R88). -/
structure Visitor where
  tenant : BitVec 4
  gen    : Nat
  data   : List Byte
deriving DecidableEq, Repr

/-- A line of a hint cache (die 0 to 3) or of a bridge home cache (die 4 and 5). -/
structure CacheLine where
  die  : Nat
  line : Nat
  s0   : SectorState
  s1   : SectorState
  prot : Bool
  visitor : Option Visitor
  under0 : List Byte      -- what the array holds beneath a dirty sector (R432); empty for any other
  under1 : List Byte
deriving DecidableEq, Repr

/-- A refetch of a poisoned granule (R560 to R563). -/
structure Refetch where
  granule : Nat
  shared  : Bool
  late    : Bool          -- its deadline has passed
deriving DecidableEq, Repr

/-- Integrity: error log, corrected-error window, refetches and repairs that are due. -/
structure Integrity where
  log     : NMap (List Byte)  -- by slot (R582)
  logSeq  : Word
  ceNow   : Nat               -- corrections in the present window (R564)
  ceBy    : NMap Nat          -- by package channel, or 256 + bridge channel
  ceRaised : Bool
  ceLast  : Word
  refetch : List Refetch
  repairs : List (Nat × Nat)  -- (shard, tile) whose repair from a replica is due (R557, R572)
  sources : List (Nat × Nat × List (BitVec 13))  -- packages left to repair a tile from, where a comparison chose them (R578)
  halts   : NMap DWord        -- shards to halt once their due repairs are done, with DETAIL of EV_DIGEST_SPLIT (R572)
deriving DecidableEq, Repr

/-- Integrity after a COLD reset. -/
def integrityReset : Integrity := ⟨[], 0, 0, [], false, 0, [], [], [], []⟩

/-- A recovery controller (Tables 12 and 13 of *Acorns, the Cupule and recovery*). -/
structure Acorn where
  up       : Bool
  mismatch : Bool
  selftest : Bool         -- SELFTEST_FAIL
  reach    : BitVec 16
  epoch    : Word         -- the epoch that it last read
deriving DecidableEq, Repr

/-- The Cupule (R616 to R625). -/
structure Cupule where
  epoch    : Word
  holder   : Nat          -- 0 none, 1 Acorn A, 2 Acorn B
  last     : Nat          -- the last holder (R621)
  lease    : Bool         -- the lease has time left
  deferent : Bool
  parity   : Bool
  lastBy   : Nat          -- 0 cold, 1 CLAIM, 2 strap, 3 lead command
deriving DecidableEq, Repr

/-- The Acorns, the Cupule, and what they record. -/
structure AcornUnits where
  a        : Acorn
  b        : Acorn
  cupule   : Cupule
  fwFlash  : Bool
  unitFail : BitVec 4     -- UNIT_FAIL
  failed   : List Nat     -- units of Table 2 that have failed, counted from 0
  fatal    : Bool         -- HUB_FATAL
  running  : Bool         -- a HUB_RECOVER is between its steps 1 and 5
  recovers : BitVec 8     -- HUB_RECOVER sequences completed
  misses   : Nat          -- probes in a row in which the leader's map lacks what the standby's holds (R623)
deriving DecidableEq, Repr

/-- An Acorn in reset. -/
def acornDown : Acorn := ⟨false, false, false, 0, 0⟩

/-- The Acorns after a COLD reset. -/
def acornsReset : AcornUnits := ⟨acornDown, acornDown, ⟨1, 0, 0, false, false, false, 0⟩, false, 0xF, [], false, false, 0, 0⟩

/-- Whether neither Acorn is in service (R615). -/
def AcornUnits.bothDown (x : AcornUnits) : Bool := !x.a.up && !x.b.up

/-- Start-up (Tables 9, 10 and 12 of *Start-up, reset and link training*). -/
structure BootUnits where
  phase    : Nat          -- 1 ROM, 2 firmware, 3 training, 4 BOOT_READY, 5 IMAGE_LIVE, 7 stopped; 6 is computed (R722)
  join     : Bool         -- JOIN_BLOCK
  fail     : Nat
  miswired : Bool
  fwSlot   : Bool
  warms    : BitVec 16
  svn      : BitVec 12
  abi      : BitVec 8
  spine    : NMap Nat     -- modules in service: links 0..3 hub–base, 4..7 TB0–base, 8..11 TB1–base, 12 and 13 bridge–hub
  sprouts  : List Nat     -- dies whose Sprouts run: 0 hub, 1..4 base dies, 5 and 6 bridges
  trained  : List Nat     -- fast-tier channels whose training has ended
  lpDone   : Bool         -- LPDDR5X training has ended
  resets   : List Nat     -- PORT resets under way, by TARGET
  warm     : Bool         -- a WARM reset is under way, from its step 1 to its step 6 (R702)
  fwCopy   : List Byte    -- the retained copy of the Acorn firmware (R710)
  fwDigest : List Byte    -- its SHA-384, as recorded when it was authenticated
deriving DecidableEq, Repr

/-- Start-up after a COLD reset. -/
def bootReset : BootUnits := ⟨1, false, 0, false, false, 0, 0, 0, [], [], [], false, [], false, [], []⟩

/-- A PIM_RUN at work on a channel (R458): the next operation word, and whether the channel is held at its end (R469). -/
structure PipRun where
  handle : Word
  next   : Nat
  hold   : Bool
deriving DecidableEq, Repr

/-- Pip sequencers, by package channel. -/
structure PipUnits where
  runs    : NMap PipRun
  held    : List Nat      -- channels held under HOLD, rising
  yields  : List Nat      -- channels that return at their next atom boundary for a held access
  waits   : NMap Bool     -- channels in memory mode at an atom boundary: true under R470, false for a yield
deriving DecidableEq, Repr

/-- What the fuses of the set hold (R709, R766, *Authentication* of *The Limbelia image*), and the strap. -/
structure Fuses where
  rootHash : List Byte          -- SHA-384 of the root key
  svnMin   : BitVec 12          -- lowest firmware SVN
  retired  : NMap (List Nat)    -- retire entries by die 0..5, as KIND, UNIT and LANE in the bits of the register
  leadSel  : Bool               -- level of the LEAD_SEL strap, fixed on the board (R756)
deriving DecidableEq, Repr

/-- The fuses as manufactured, nothing retired, and the strap as the board sets it. -/
def fusesNew : Fuses := ⟨Config.rootKeyHash, Config.fusedSvnMin, [], Config.leadSel⟩

/-- A margin run: SBD_MARGIN of stacks 0 to 3, SBD_UMARGIN of stacks 0 to 3, TB_MARGIN of bridges 0 and 1, numbered 0 to 9. -/
structure MarginRun where
  run     : Nat
  chans   : List Nat      -- fast-tier channels whose requests it holds
  bridge  : Option Nat    -- bridge channel that it holds, 32m + channel
  module  : Option Nat    -- host-port module that carries nothing while it runs
  started : Bool          -- false while a host's module has yet to take part (R742)
  link    : Option Nat    -- spine link one of whose modules carries nothing while it runs
deriving DecidableEq, Repr

/-- The test access port (R758 to R764). -/
structure Tap where
  ir      : BitVec 8      -- the instruction loaded last
  refused : Bool          -- it was refused under R760
  irOut   : BitVec 8      -- what the instruction register captured as that instruction was shifted in (R759)
  stack   : BitVec 2      -- STACK_SEL
  core    : BitVec 3      -- CORE_DIE
  dr      : Nat           -- what its data register captures
  drLen   : Nat           -- bits of that register; the boundary register's length is in the BSDL file and counts as 0
  bounds  : Nat           -- the boundary register's update stage
  out     : List CoreId   -- cores out of service after an internal test
deriving DecidableEq, Repr

/-- The port after its reset: IDCODE is loaded. -/
def tapReset : Tap := ⟨0x01, false, 0x01, 0, 0, 0x1E040FD9, 32, 0, []⟩

/-- The pacer and the power manager (R675 to R695). -/
structure PowerUnits where
  droop   : NMap Nat      -- droop limit by domain: 0 hub, 1..4 base dies, 5 and 6 bridges; unlisted: 255
  thermal : NMap Nat      -- thermal limit by domain
  power   : Nat           -- limit that the power rules put on every domain
  tenants : NMap Nat      -- issue rates of tenants over their budgets (R682); unlisted: 255
  episode : List Nat      -- domains whose present throttle episode has been reported (R684)
  short   : BitVec 16
  long    : BitVec 16
  pipDraw : BitVec 16
  temps   : NMap (BitVec 8)   -- highest logic reading by domain; 8 + n: highest array reading of stack n
  state   : Nat           -- STATE of HUB_PWR_STATUS
  refused : Bool
  why     : Nat           -- REFUSE_WHY
  doze    : List Nat      -- module groups in L1
  capMiss : Bool
  refclk  : Bool          -- the timebase takes its ticks from REFCLK_HZ (R674)
  noUcie  : Bool          -- VDD_UCIE removed in RETAIN (R690)
  noHz    : Bool
deriving DecidableEq, Repr

/-- The power manager after a COLD reset. -/
def powerReset : PowerUnits := ⟨[], [], 255, [], [], 0, 0, 0, [], 0, false, 0, [], false, true, false, false⟩

/-- Occupancy records (R609). -/
structure OccUnits where
  seq  : Word             -- SEQ of the last record
  mask : BitVec 16        -- MASK of the last record
  sent : List (List Byte) -- the model's own: records sent, oldest first
deriving DecidableEq, Repr

/-- The management I3C target (R729, R730). -/
structure I3c where
  reply : List Byte       -- the reply that waits to be read; empty: none
  busy  : Bool            -- the last command has not completed
deriving DecidableEq, Repr

/-- The totals of an open billing interval (R646 to R652). -/
structure HuskOpen where
  start   : Nat           -- Husk time at its opening, µs
  energy  : NMap Int      -- cumulative energy by channel, nJ
  shunt   : NMap Int      -- sum of shunt voltages in the interval, nV times IGAIN
  samples : Nat           -- samples in the interval
  occupy  : NMap Nat      -- µs by tenant
  unknown : Nat           -- OCC_UNKNOWN
  bad     : Word          -- RECS_BAD
  gap     : Word          -- RECS_GAP
  flags   : Word
deriving DecidableEq, Repr

/-- The Husk (*The Husk: sealed metering*). -/
structure Husk where
  up       : Bool         -- VAUX_HUSK within range, metering
  time     : Nat          -- Husk time, µs
  number   : Nat          -- number of the open interval
  cur      : HuskOpen
  saved    : HuskOpen     -- the last checkpoint (R668)
  savedNo  : Nat          -- number of the interval that it belongs to
  pcycles  : Word
  events   : BitVec 12
  blocks   : List (List Byte)   -- written OTP slots, slot 0 first
  cfgEn    : Bool
  result   : Nat          -- last CONFIG result: 0 none, 1 accepted, 2 refused
  stopped  : Bool         -- metering stopped under R655
  swcrc    : Word         -- checksum as last computed
  lastSeq  : Option Word  -- SEQ of the last applied record
  mask     : Option (BitVec 16)   -- MASK of the last applied record, which stands for 3 ms
  maskAt   : Nat          -- Husk time at its arrival
  anchorUtc : DWord
  anchorUs : Nat
  log      : NMap (List Byte)   -- closed records by interval number
  acked    : Nat          -- every interval up to this number is acknowledged
  snap     : Word         -- snapshots pushed since power-up
  ibis     : Nat          -- the model's own: in-band interrupts raised (R662)
  reply    : List Byte    -- the reply that waits to be read
deriving DecidableEq, Repr

/-- An interval in which nothing has been measured. -/
def huskOpenZero : HuskOpen := ⟨0, [], [], 0, [], 0, 0, 0, 0⟩

/-- Parameter block of slot 0 (R656): 15 minutes, channel 8 alone, I_n 0.20 A; calibration 1.0 (DESIGN CHOICE, log 86). -/
def factoryBlock : List Byte :=
  let chan := fun n => [if n = 8 then 1 else 0, 0] ++ leBytes 2 20 ++ leBytes 2 0x8000 ++ leBytes 2 0x8000
  let body := leBytes 2 15 ++ List.replicate 6 0 ++ (List.range 18).flatMap chan ++ List.replicate 4 0
  body ++ leBytes 4 (crc32 body).toNat

/-- A Husk in its first interval, metering (DESIGN CHOICE, log 86). -/
def huskNew : Husk :=
  { up := true, time := 0, number := 1, cur := huskOpenZero, saved := huskOpenZero, savedNo := 1, pcycles := 1, events := 0
    blocks := [factoryBlock], cfgEn := false, result := 0, stopped := false, swcrc := 0x9C1E44D7, lastSeq := none, mask := none, maskAt := 0
    anchorUtc := 0, anchorUs := 0, log := [], acked := 0, snap := 0, ibis := 0, reply := [] }

/-- The mirror in the hub (R664): the registers of the last snapshot by offset, none before the first. -/
structure Mirror where
  words : NMap Word
  link  : Bool
deriving DecidableEq, Repr

/-- The units. -/
structure Units where
  chans : NMap Chan       -- fast-tier channels by package channel number
  cache : List CacheLine  -- hint and bridge home caches, least recently used line first
  integ : Integrity
  ues  : UeUnits
  proc : List Nat     -- package channels in processor mode, rising
  margin : List Nat   -- package channels that a margin run or a stack test holds
  runs : List MarginRun   -- margin runs under way
  tier : TierUnits
  totals : NMap Counts      -- numeric totals by tenant (R606)
  acorns : AcornUnits
  boot : BootUnits
  pips : PipUnits
  rngTest : NMap Nat      -- test lanes by die × 1024 + lane: the draw that the next STEP produces (R547)
  fetchStop : Bool          -- fetch from every queue is held (R687, R629, R631, R702)
  power : PowerUnits
  occ : OccUnits
  i3c : I3c
  tap : Tap
  fuses : Fuses
  husk : Husk
  mirror : Mirror
  adders : NMap (List Nat)  -- 256 B chunks in each channel's adder buffer, least recently used first (R441)
deriving DecidableEq, Repr

/-- The units after a COLD reset. -/
def unitsReset : Units :=
  { chans := [], cache := [], integ := integrityReset, ues := ⟨0, []⟩, proc := [], tier := ⟨0, 0, [], [], [], [], [], [], [], [], []⟩
    margin := [], runs := [], totals := [], acorns := acornsReset, boot := bootReset, pips := ⟨[], [], [], []⟩
    rngTest := [], fetchStop := false, power := powerReset, occ := ⟨0, 0, []⟩, i3c := ⟨[], false⟩
    tap := tapReset, fuses := fusesNew, husk := huskNew, mirror := ⟨[], false⟩, adders := [] }

end Sys2Proof.Machine
end

