-- ==== Sys2Proof/Machine/State.lean ====
section
/-! DEFINITION. The whole state of a package, the reasons a step can stop, and the state after a COLD reset. -/

namespace Sys2Proof.Machine

/-- Reasons a step can stop with a fault. No meaning of this model raises one. -/
inductive Fault where
  /-- Raised by no command; safe. -/
  | none_
deriving DecidableEq, Repr

/-- Reasons a command is refused. -/
inductive Refusal where
  /-- Raised by a dispatcher arm whose command has no meaning yet; safe. -/
  | notModelled (mnemonic : String)
deriving DecidableEq, Repr

/-- A read-ahead entry of a host-port module (R86 to R88); visitor copies are lines of `units.cache`. -/
structure StaleCopy where
  module : Nat
  tenant : BitVec 4
  gen    : Nat
  addr   : Nat
  data   : List Byte
deriving DecidableEq, Repr

/-- The memories: D-space with its fresh map, S-space, P-space (Table 2 of *Address spaces and ordering*). -/
structure MemState where
  cells   : List Host.Cell      -- D-space bytes; an unlisted byte reads 0
  written : List Nat            -- 4 KiB granules that are not never-written, rising
  scells  : List Host.Cell      -- S-space bytes; an unlisted byte reads 0
  sopen   : List (Nat × Nat × Nat)  -- S-space ranges that UE work has left open: first byte, end, index of the free values (log 66)
  prows   : NMap (BitVec 8192)  -- P-space rows written since cold reset
  pIndex  : Nat                 -- the model's own: index of the free values of rows that nothing has written since cold reset
  pbad    : List Nat            -- P-space rows with an uncorrectable sector, rising (R472, R473)
  gens    : NMap Nat            -- acquire generation by tenant
  copies  : List StaleCopy
  poison  : List Nat            -- poisoned 64 B granules, rising
  flips   : NMap (List Byte)    -- stored sectors that differ from their code word, by place, with the bits that differ (R426)
deriving DecidableEq, Repr

/-- Who waits at a home: a host-transport request, or a command of a descriptor. -/
inductive Waiter where
  | request (type : BitVec 8) (r : HostReq)
  | command (handle : Word)
deriving DecidableEq, Repr

/-- An access that its home holds (R74, R102, R557): the channels in processor mode at which it waits in the order of arrival, and the
address that a host request reaches, fixed when its home accepted it (R46). -/
structure HeldReq where
  who   : Waiter
  chans : List Nat
  loc   : Nat
deriving DecidableEq, Repr

/-- A host-port module (R108, R110, R714). -/
structure HostModule where
  up      : Bool
  fails   : Nat           -- consecutive replay failures
  out     : Bool          -- left service under R110, until a PORT reset
deriving DecidableEq, Repr

/-- What the package sends to the host. -/
inductive HostOut where
  | rsp (module : Nat) (tenant : BitVec 4) (tag : BitVec 16) (status : BitVec 8) (data : List Byte)
  | cplWr (group : Nat) (addr : Nat) (data : List Byte)
deriving DecidableEq, Repr

/-- A register access that waits for a die beyond the spine (R728): its value if it is a write. -/
structure HeldReg where
  req    : Requester
  offset : Nat
  value  : Option Word
deriving DecidableEq, Repr

/-- The command front end and host ports. -/
structure FrontEnd where
  counts  : NMap QCounts
  ops     : List Op         -- in fetch order
  fetched : Nat             -- descriptors fetched since reset
  seats   : Nat             -- operations that have entered Running since reset
  push    : List PushPiece
  rings   : NMap EvtRing
  modules : NMap HostModule
  held    : List HeldReq    -- in order of arrival
  pushWait : List HostReq   -- push pieces that wait for room in a push buffer, in order of arrival (R117)
  heldReg : List HeldReg
  hostOut : List HostOut    -- the model's own: what was sent, oldest first
  heldCpl : List (Nat × Nat × List Byte)  -- writes to the host that wait for a trained group, or for a group to leave L1 (R120, R686)
deriving DecidableEq, Repr

/-- The plan player, adders and transaction directory. -/
structure StepEngine where
  shards  : NMap ShardDyn
  tiles   : NMap TileDyn      -- by tile address
  sweeps  : List SweepRec
  runs    : List StepRun      -- in the order they entered Running
  verdicts : NMap Verdict     -- last decided verdict by tenant (R291)
  noSkip  : NMap Nat          -- steps without a skip, by step plan (R260)
  planLast : NMap (Nat × BitVec 8 × Word)  -- last decided outcome, hint and STEP_NO [31:0], by step plan (R600)
  commits : List CommitRec
  heldCount : NMap Nat        -- HUB_STEP_STATE.HELD by tenant
  txgs    : List Txg
  locks   : List LockWait
  trees   : List TreeRun
  colls   : List CollRun
  collSeq : NMap Nat          -- collective commands numbered so far, by tenant and plan (R777)
  marks   : NMap (Word × Nat) -- current step and ATTEMPT by tenant (R368)
  phases  : List (Engine × BitVec 4)  -- work dispatched to engines (R596)
  turns   : List ((Engine × BitVec 4) × Nat)  -- turns that tenants have had at an engine in its round (R596)
  compares : List Nat         -- shards whose periodic digest comparison is due (R569)
  copy1   : NMap Bool         -- gather buffers whose second copy is the active one (R46)
  slotUses : NMap Nat         -- uses begun of each slot of a gather window, by gather buffer (R407)
deriving DecidableEq, Repr

/-- The Hazel fabric of this package. -/
structure Fabric where
  ports   : NMap HzPort
  counts  : List StreamCount
  held    : List (Nat × Frame)   -- frames held in their receiving buffers, oldest first
  nextStream : Word
  out     : List (Nat × Frame)   -- the model's own: frames sent, oldest first
  drop    : DropState
deriving DecidableEq, Repr

/-- A CFG_COMMIT past step 2 (R178). -/
structure CommitWait where
  handle   : Word
  tenants  : List Nat
deriving DecidableEq, Repr

/-- The configuration loader. -/
structure CfgState where
  live    : Plane
  shadow  : Plane
  base    : Option Plane    -- the live image's own plans while a FALLBACK case is live
  staged  : Bool
  image   : Bool            -- the shadow plane holds a staged image (not SH writes alone)
  isSealed : Bool
  bank    : Bool            -- which bank of the image store is live
  digest0 : List Byte       -- bank digests (R166)
  digest1 : List Byte
  lkDrop  : Bool
  pairBad : Bool
  lastSt  : Status
  wait    : Option CommitWait
  heldWr  : List (Requester × Nat × Word)   -- SH writes and DISCARDs held under R187, oldest first
  former  : NMap (BitVec 4) -- the last tenant of each granule that belongs to none at present (R96)
deriving DecidableEq, Repr

/-- The state of a package. -/
structure State where
  pending : List Instr      -- commands waiting, first in first out
  free    : Nat             -- the model's own: free values used so far
  regs    : NMap Word       -- register words software has written, by control-window offset
  latches : NMap Word       -- VALUE_HI and HUB_TEN_NUM_HI latches and staged low words, by requester and entry
  mem     : MemState
  fe      : FrontEnd
  syncs   : NMap DWord
  cfg     : CfgState
  step    : StepEngine
  hz      : Fabric
  units   : Units
deriving DecidableEq, Repr

/-- The memories after a COLD reset (Table 2 of *Address spaces and ordering*, R93, R551). -/
def memReset : MemState := ⟨[], [], [], [], [], 0, [], [], [], [], []⟩

/-- The front end after a COLD reset. -/
def feReset : FrontEnd := ⟨[], [], 0, 0, [], [], [], [], [], [], [], []⟩

/-- The step engine after a COLD reset. -/
def stepReset : StepEngine := ⟨[], [], [], [], [], [], [], [], [], [], [], [], [], [], [], [], [], [], [], []⟩

/-- Dropout state after a COLD reset. -/
def dropReset : DropState := ⟨[], [], none, false, false, false, false, true, false, false, 0, none⟩

/-- The fabric after a COLD reset. -/
def fabricReset : Fabric := ⟨[], [], [], 0, [], dropReset⟩

/-- The configuration loader after a COLD reset: the boot configuration, nothing staged (R199). -/
def cfgReset : CfgState := ⟨bootPlane, bootPlane, none, false, false, false, false, [], [], false, false, 0, none, [], []⟩

/-- The package right after a COLD reset. -/
def State.reset : State :=
  { pending := [], free := 0, regs := [], latches := [], mem := memReset, fe := feReset, syncs := [], cfg := cfgReset
    step := stepReset, hz := fabricReset, units := unitsReset }

end Sys2Proof.Machine
end

