-- ==== Sys2Proof/Machine/Operands.lean ====
section
/-! DEFINITION. Status codes, event codes, and every field of a descriptor (Tables 7 to 11, 14 and 19 of *Host port, commands
and handles*): where each lies, which bits each opcode reserves, and which values each field may take. -/

namespace Sys2Proof.Machine

def stOk : Status := 0x0000
def stBadOp : Status := 0x0001
def stBadField : Status := 0x0002
def stBadSpace : Status := 0x0003
def stBadFmt : Status := 0x0004
def stBadLen : Status := 0x0005
def stLimit : Status := 0x0006
def stScope : Status := 0x0007
def stPriv : Status := 0x0008
def stBounds : Status := 0x0009
def stRange : Status := 0x000A
def stAlign : Status := 0x000B
def stOverlap : Status := 0x000C
def stBusy : Status := 0x0010
def stTimeout : Status := 0x0011
def stTicket : Status := 0x0012
def stTxgConflict : Status := 0x0013
def stAborted : Status := 0x0014
def stDropped : Status := 0x0015
def stUnwritten : Status := 0x0018
def stPoison : Status := 0x0019
def stDigestSplit : Status := 0x001A
def stCfgAuth : Status := 0x0020
def stCfgPair : Status := 0x0021

def evDoorbellBad : BitVec 16 := 0x0001
def evCqFull : BitVec 16 := 0x0002
def evPushOrphan : BitVec 16 := 0x0003
def evOwnedWrite : BitVec 16 := 0x0004
def evPortDown : BitVec 16 := 0x0005
def evPortUp : BitVec 16 := 0x0006
def evLossScale : BitVec 16 := 0x0010
def evStepReplay : BitVec 16 := 0x0011
def evBypass : BitVec 16 := 0x0012
def evDigestSplit : BitVec 16 := 0x0020
def evRepaired : BitVec 16 := 0x0021
def evCeRate : BitVec 16 := 0x0022
def evUe : BitVec 16 := 0x0023
def evSharedUe : BitVec 16 := 0x0024
def evThrottle : BitVec 16 := 0x0030
def evLease : BitVec 16 := 0x0031
def evLkDrop : BitVec 16 := 0x0032

def opNop : Nat := 0x00
def opPlanRun : Nat := 0x01
def opSignal : Nat := 0x02
def opWait : Nat := 0x03
def opFence : Nat := 0x04
def opCopy : Nat := 0x10
def opConvert : Nat := 0x11
def opTransposeIn : Nat := 0x12
def opTransposeOut : Nat := 0x13
def opAccum : Nat := 0x20
def opReduce : Nat := 0x21
def opGather : Nat := 0x22
def opNorm : Nat := 0x23
def opSweepSpec : Nat := 0x30
def opSweepRedo : Nat := 0x31
def opCommit : Nat := 0x32
def opAbort : Nat := 0x33
def opDigest : Nat := 0x40
def opRepair : Nat := 0x41
def opPimRun : Nat := 0x48
def opZero : Nat := 0x49
def opMigrate : Nat := 0x50
def opPin : Nat := 0x51
def opSnapshot : Nat := 0x58
def opActStore : Nat := 0x59
def opActLoad : Nat := 0x5A
def opRngFill : Nat := 0x60
def opDraw : Nat := 0x61
def opInitParams : Nat := 0x62
def opTxgBegin : Nat := 0x68
def opTxgEnd : Nat := 0x69
def opCtxSave : Nat := 0x70
def opCtxRestore : Nat := 0x71
def opCfgStage : Nat := 0x78
def opCfgCommit : Nat := 0x79

/-- `n` bytes of a descriptor from byte `b`, little-endian. -/
def dField (d : BitVec 512) (b n : Nat) : Nat := d.toNat / 2 ^ (8 * b) % 2 ^ (8 * n)

/-- `w` bits of a descriptor from bit `l` of byte `b`. -/
def dBits (d : BitVec 512) (b l w : Nat) : Nat := d.toNat / 2 ^ (8 * b + l) % 2 ^ w

/-- A flag of a descriptor. -/
def dFlag (d : BitVec 512) (k : Nat) : Bool := dBits d 1 k 1 = 1

def dOpcode (d : BitVec 512) : Nat := dField d 0 1
def dPreWait (d : BitVec 512) : Bool := dFlag d 0
def dAcquire (d : BitVec 512) : Bool := dFlag d 1
def dFencePre (d : BitVec 512) : Bool := dFlag d 2
def dSig (d : BitVec 512) : Bool := dFlag d 3
def dSigAny (d : BitVec 512) : Bool := dFlag d 4
def dCounters (d : BitVec 512) : Bool := dFlag d 5
def dQuiet (d : BitVec 512) : Bool := dFlag d 6
def dHint (d : BitVec 512) : Nat := dBits d 2 0 2
def dScope (d : BitVec 512) : Nat := dBits d 2 2 3
def dSrcSpace (d : BitVec 512) : Nat := dBits d 3 0 2
def dDstSpace (d : BitVec 512) : Nat := dBits d 3 2 2
def dPreSync (d : BitVec 512) : Nat := dBits d 4 0 14
def dSigSync (d : BitVec 512) : Nat := dBits d 6 0 14
def dPreValue (d : BitVec 512) : Nat := dField d 8 8
def dSigAdd (d : BitVec 512) : Nat := dField d 16 4
def dUser (d : BitVec 512) : Nat := dField d 20 4

/-- The fields of an opcode's body (Table 10) as (byte, bits), none for an undefined opcode. -/
def bodyFields (op : Nat) : Option (List (Nat × Nat)) :=
  match op with
  | 0x00 => some []
  | 0x01 => some [(24, 32), (32, 64), (40, 64), (48, 64)]
  | 0x02 => some [(24, 16), (26, 16), (28, 8), (32, 64)]
  | 0x03 => some [(24, 16), (26, 8), (27, 1), (28, 32), (32, 64)]
  | 0x04 => some [(24, 8)]
  | 0x10 => some [(24, 64), (32, 64), (40, 64)]
  | 0x11 => some [(24, 64), (32, 64), (40, 64), (48, 8), (49, 8), (50, 8), (51, 8), (52, 32), (56, 64)]
  | 0x12 => some [(24, 64), (32, 64), (40, 64), (48, 8), (49, 8)]
  | 0x13 => some [(24, 64), (32, 64), (40, 64), (48, 8), (49, 8)]
  | 0x20 => some [(24, 64), (32, 32), (38, 2), (39, 8), (40, 64), (48, 64)]
  | 0x21 => some [(24, 64), (32, 64), (40, 64), (48, 32), (52, 8)]
  | 0x22 => some [(24, 64), (32, 64), (40, 64), (48, 32), (52, 8)]
  | 0x23 => some [(24, 64), (40, 64), (48, 8), (52, 32)]
  | 0x30 => some [(24, 32), (32, 64)]
  | 0x31 => some [(24, 32), (32, 64), (40, 32)]
  | 0x32 => some [(24, 32), (32, 64)]
  | 0x33 => some [(24, 32), (32, 64)]
  | 0x40 => some [(24, 32), (28, 8)]
  | 0x41 => some [(24, 32), (28, 32), (32, 16)]
  | 0x48 => some [(24, 32), (32, 8), (33, 8), (34, 8), (40, 64), (48, 64), (56, 64)]
  | 0x49 => some [(32, 64), (40, 64)]
  | 0x50 => some [(24, 64), (40, 64), (48, 8)]
  | 0x51 => some [(32, 64), (40, 64), (48, 8)]
  | 0x58 => some [(24, 32), (28, 8), (32, 64), (48, 8)]
  | 0x59 => some [(24, 64), (32, 64), (40, 64), (48, 8), (49, 8), (50, 8), (56, 64)]
  | 0x5A => some [(24, 64), (32, 64), (40, 64), (48, 8), (49, 8), (56, 64)]
  | 0x60 => some [(24, 64), (32, 64), (40, 64), (48, 8), (49, 8), (52, 32), (56, 32)]
  | 0x61 => some [(24, 64), (32, 64), (40, 64)]
  | 0x62 => some [(24, 64), (32, 32), (48, 32), (52, 32)]
  | 0x68 => some [(24, 8), (32, 32)]
  | 0x69 => some [(24, 8), (25, 8)]
  | 0x70 => some [(32, 64), (40, 64)]
  | 0x71 => some [(24, 64), (40, 64)]
  | 0x78 => some [(24, 64), (40, 64)]
  | 0x79 => some []
  | _ => none

/-- The mask of bits that a descriptor of an opcode may use: Table 7's header fields and its body fields (R130). -/
def usedMask (fields : List (Nat × Nat)) : Nat :=
  fields.foldl (fun m f => m ||| (2 ^ f.2 - 1) * 2 ^ (8 * f.1)) 
    ((0xFF : Nat) ||| 0x7F * 2 ^ 8 ||| 0x1F * 2 ^ 16 ||| 0xF * 2 ^ 24 ||| 0x3FFF * 2 ^ 32 ||| 0x3FFF * 2 ^ 48 |||
      (2 ^ 128 - 1) * 2 ^ 64)

/-- Whether a reserved bit of the descriptor is set. -/
def reservedSet (d : BitVec 512) (fields : List (Nat × Nat)) : Bool :=
  decide (d.toNat &&& (2 ^ 512 - 1 - usedMask fields) ≠ 0)

/-- The spaces an opcode allows (Table 10, R132, R512): for SRC and for DST; `none` where the field is reserved. -/
def allowedSpaces (op : Nat) : Option (List Nat) × Option (List Nat) :=
  match op with
  | 0x10 => (some [0, 1], some [0, 1])
  | 0x11 => (some [0, 1], some [0, 1])
  | 0x12 => (some [0, 1], some [2])
  | 0x13 => (some [2], some [0, 1])
  | 0x20 => (some [0, 1, 3], some [0])
  | 0x21 => (some [0], some [0])
  | 0x22 => (some [0], some [0])
  | 0x23 => (some [0, 1], none)
  | 0x49 => (none, some [0, 2])
  | 0x50 => (some [0], none)
  | 0x51 => (none, some [0])
  | 0x58 => (none, some [0])
  | 0x59 => (some [0, 1], some [0])
  | 0x5A => (some [0], some [0, 1])
  | 0x60 => (none, some [0, 1])
  | 0x61 => (some [0, 1], none)
  | 0x70 => (none, some [0])
  | 0x71 => (some [0], none)
  | 0x78 => (some [0], none)
  | _ => (none, none)

/-- A space field that is reserved but not 0 (R132). -/
def spaceReserved (d : BitVec 512) : Bool :=
  let a := allowedSpaces (dOpcode d)
  (a.1.isNone && dSrcSpace d ≠ 0) || (a.2.isNone && dDstSpace d ≠ 0)

/-- A space that the opcode does not allow (R132). -/
def spaceBad (d : BitVec 512) : Bool :=
  let a := allowedSpaces (dOpcode d)
  (match a.1 with | some l => !l.contains (dSrcSpace d) | none => false) ||
  (match a.2 with | some l => !l.contains (dDstSpace d) | none => false)

/-- Byte of the SRC field of an opcode's body. -/
def srcByte (op : Nat) : Nat := if op = 0x20 then 48 else if op = 0x61 then 32 else 24

/-- Byte of the DST field of an opcode's body. -/
def dstByte (op : Nat) : Nat := if op = 0x20 then 24 else 32

def dSrc (d : BitVec 512) : Nat := dField d (srcByte (dOpcode d)) 8
def dDst (d : BitVec 512) : Nat := dField d (dstByte (dOpcode d)) 8
def dCount (d : BitVec 512) : Nat := dField d 40 8
def dTicket (d : BitVec 512) : Nat := dField d 32 4
def dStepNo (d : BitVec 512) : Nat := dField d 32 8

/-- Byte of SFMT. -/
def sfmtByte (op : Nat) : Nat := if op = 0x20 then 39 else if op = 0x21 || op = 0x22 then 52 else 48

/-- Byte of DFMT. -/
def dfmtByte (op : Nat) : Nat := if op = 0x13 || op = 0x58 then 48 else 49

def dSfmt (d : BitVec 512) : Nat := dField d (sfmtByte (dOpcode d)) 1
def dDfmt (d : BitVec 512) : Nat := dField d (dfmtByte (dOpcode d)) 1

/-- Shard number of a command's body. -/
def dShard (d : BitVec 512) : Nat := if dOpcode d = 0x62 then dField d 32 4 else dField d 24 4

/-- Every shard (Table 11). -/
def allShards : Nat := 0xFFFFFFFF

/-- Collective plan index of a command. -/
def dCplan (d : BitVec 512) : Nat := if dOpcode d = 0x23 then dField d 52 4 else dField d 48 4

/-- Whether the opcode is a data command with a COUNT or BYTES of 0 that Table 17 treats as EMPTY. -/
def countsData (op : Nat) : Bool :=
  [0x10, 0x11, 0x12, 0x13, 0x20, 0x21, 0x22, 0x23, 0x49, 0x50, 0x51, 0x59, 0x5A, 0x60, 0x61, 0x71].contains op

/-- An empty data command (Table 17). -/
def dEmpty (d : BitVec 512) : Bool := countsData (dOpcode d) && dCount d = 0

/-! ### System addresses -/

/-- A D-space operand: on this package at a local address, on another package, or unmapped (R66). -/
inductive DAddr where
  | here (a : Nat)
  | there (pkg : BitVec 13) (a : Nat)
  | nowhere
deriving DecidableEq, Repr

/-- Read a system address (Table 4 of *Address spaces and ordering*). -/
def sysAddr (p : Plane) (x : Nat) : DAddr :=
  let pkg := x / 2 ^ 44 % 2 ^ 13
  if x / 2 ^ 57 ≠ 0 then .nowhere
  else if pkg = p.package.toNat then .here (x % 2 ^ 44)
  else if p.sysSize ≤ pkg then .nowhere
  else .there (BitVec.ofNat 13 pkg) (x % 2 ^ 44)

/-- Whether an operand lies on another package. -/
def farAddr (p : Plane) (x : Nat) : Bool := match sysAddr p x with | .there _ _ => true | _ => false

/-- The local address of an operand. -/
def localAddr (p : Plane) (x : Nat) : Option Nat := match sysAddr p x with | .here a => some a | _ => none

/-- Whether the command's D-space destination lies on another package, whose SIG_SYNC that package checks (R776). -/
def farDst (p : Plane) (d : BitVec 512) : Bool :=
  [opCopy, opConvert, opTransposeOut, opZero, opRngFill, opActStore, opActLoad, opSnapshot].contains (dOpcode d) && dDstSpace d = 0 &&
  farAddr p (dDst d)

end Sys2Proof.Machine
end

