-- ==== Sys2Proof/Machine/Sectors.lean ====
section
/-! DEFINITION. The sector code of the fast tier (R425, R426): Reed–Solomon over GF(2^8), 32 data and 4 check symbols. -/

namespace Sys2Proof.Machine

/-- A product by x in GF(2^8) with the field polynomial x^8 + x^4 + x^3 + x^2 + 1 (R425). -/
def gfDouble (x : Byte) : Byte := if x.msb then x <<< 1 ^^^ 0x1D else x <<< 1

/-- A product in the field. -/
def gfMul (a b : Byte) : Byte :=
  (List.range 8).foldl (fun acc i => gfDouble acc ^^^ (if b.getLsbD (7 - i) then a else 0)) 0

/-- α^n, with α = 0x02. -/
def gfAlpha : Nat → Byte
  | 0 => 1
  | n + 1 => gfDouble (gfAlpha n)

/-- A polynomial times (x + r); coefficients from the highest degree down. -/
def gfTimesRoot (p : List Byte) (r : Byte) : List Byte := List.zipWith (· ^^^ ·) (p ++ [0]) (0 :: p.map (gfMul r))

/-- The generator polynomial (x + α^0)(x + α^1)(x + α^2)(x + α^3), from the highest degree down (R425). -/
def rsGenerator : List Byte := ((List.range 4).map gfAlpha).foldl gfTimesRoot [1]

/-- One data symbol enters the division by the generator: `r` is the remainder so far, from x^3 down. -/
def rsDivide (r : List Byte) (d : Byte) : List Byte :=
  let f := d ^^^ r.headD 0
  List.zipWith (· ^^^ ·) (r.drop 1 ++ [0]) ((rsGenerator.drop 1).map (gfMul f))

/-- The check bytes of 32 data bytes: byte k is the coefficient of x^(3 − k) of the remainder (R425). -/
def rsCheck (data : List Byte) : List Byte := data.foldl rsDivide [0, 0, 0, 0]

/-- The 36 symbols of a sector as it is stored. -/
def rsWord (data : List Byte) : List Byte := data ++ rsCheck data

/-- A stored word as a polynomial at α^i; symbol j is the coefficient of x^(35 − j). -/
def rsSyndrome (w : List Byte) (i : Nat) : Byte := w.foldl (fun acc d => gfMul acc (gfAlpha i) ^^^ d) 0

/-- What the decoder makes of a stored word (R426). -/
inductive SectorCode where
  | clean
  | poisoned
  | corrected (word : List Byte)
  | uncorrectable
deriving DecidableEq, Repr

/-- Whether an error of value `v` in symbol `j` alone explains syndromes 1 to 3. -/
def rsSingle (v : Byte) (s : List Byte) (j : Nat) : Bool :=
  s = (List.range 3).map fun i => gfMul v (gfAlpha ((i + 1) * (35 - j)))

/-- The stored word of a sector of a poisoned granule (R550). -/
def poisonWord : List Byte := List.replicate 32 0 ++ List.replicate 4 0xA7

/-- The decoder: a sector that holds the mark of poison is read as poisoned (R550); an error confined to one symbol is corrected, every other word that is not a code word is uncorrectable (R426). -/
def rsDecode (w : List Byte) : SectorCode :=
  let v := rsSyndrome w 0
  let s := (List.range 3).map fun i => rsSyndrome w (i + 1)
  if w = poisonWord then .poisoned
  else if v = 0 && s = [0, 0, 0] then .clean
  else match (List.range 36).find? (rsSingle v s) with
    | some j => if v = 0 then .uncorrectable
        else .corrected ((List.zipIdx w).map fun x => if x.2 = j then x.1 ^^^ v else x.1)
    | none => .uncorrectable

/-- Bytes with the differences of a pattern. -/
def flipBytes (bs e : List Byte) : List Byte := (List.zipIdx bs).map fun x => x.1 ^^^ e.getD x.2 0

end Sys2Proof.Machine
end

