-- ==== Sys2Proof/Machine/Mem.lean ====
section
/-! DEFINITION. Memory as a canonical list of cells, and the address map of D-space, S-space and P-space
(*Address spaces and ordering*; R416, R417 for the interleave hash). -/

namespace Sys2Proof.Machine

/-- The canonical form: addresses strictly rising and no cell equal to what an unlisted address reads as. -/
def cellsWf : List Host.Cell → Bool
  | [] => true
  | [c] => c.2 ≠ 0
  | c :: d :: m => c.2 ≠ 0 && c.1 < d.1 && cellsWf (d :: m)

/-- Read one byte; an unlisted byte reads 0. -/
def memGet : List Host.Cell → Nat → Byte
  | [], _ => 0
  | (k, v) :: m, a => if k = a then v else memGet m a

/-- Read `n` bytes from `a` of a canonical list. -/
def memReadGo : Nat → List Host.Cell → Nat → List Byte
  | 0, _, _ => []
  | n + 1, [], a => 0 :: memReadGo n [] (a + 1)
  | n + 1, (k, v) :: m, a =>
    if k = a then v :: memReadGo n m (a + 1) else 0 :: memReadGo n ((k, v) :: m) (a + 1)

/-- Read `n` bytes from `a`. -/
def memRead (m : List Host.Cell) (a n : Nat) : List Byte := memReadGo n (m.dropWhile fun c => c.1 < a) a

/-- The cells of a run of bytes, leaving out those that an unlisted address already reads as. -/
def cellsOf (a : Nat) : List Byte → List Host.Cell
  | [] => []
  | b :: bs => if b = 0 then cellsOf (a + 1) bs else (a, b) :: cellsOf (a + 1) bs

/-- Write bytes from `a`, keeping the canonical form. -/
def memWrite (m : List Host.Cell) (a : Nat) (bs : List Byte) : List Host.Cell :=
  m.filter (fun c => c.1 < a) ++ (cellsOf a bs ++ m.filter (fun c => a + bs.length ≤ c.1))

/-- Add a number to a rising list without repeats. -/
def insertNat (x : Nat) : List Nat → List Nat
  | [] => [x]
  | y :: l => if x < y then x :: y :: l else if x = y then y :: l else y :: insertNat x l

/-- The numbers from `a` to `b`, both included. -/
def rangeIncl (a b : Nat) : List Nat := List.range' a (b + 1 - a)

/-- The blocks of size `k` that `n` bytes from `a` touch. -/
def blocksOf (k a n : Nat) : List Nat := if n = 0 then [] else rangeIncl (a / k) ((a + n - 1) / k)

/-- Fast-tier end of the live map (Table 3 of *Address spaces and ordering*). -/
def fastEnd (p : Plane) : Nat := (32768 - p.dmap.pRows) * 12582912

/-- Start of the capacity tier (R64). -/
def capBase : Nat := 0x06000000000

/-- Capacity end: 32 GiB per installed channel (R62, R483). -/
def capEnd (s : State) : Nat := capBase + 2 * s.units.tier.lpChannels * 2 ^ 35

/-- The image store: the top 1 GiB of the mapped fast tier (R166). -/
def imageStoreBase (p : Plane) : Nat := fastEnd p - 2 ^ 30

/-- Whether two ranges meet. -/
def meets (a n b k : Nat) : Bool := decide (a < b + k) && decide (b < a + n) && decide (0 < n) && decide (0 < k)

/-- Whether every byte of a D-space range is mapped (R61, R62, R491). -/
def dMapped (s : State) (a n : Nat) : Bool :=
  (decide (a + n ≤ fastEnd s.cfg.live) || (decide (capBase ≤ a) && decide (a + n ≤ capEnd s))) &&
  (s.cfg.live.dmap.fastPool ++ s.cfg.live.dmap.capPool).all fun r => !meets a n (r * 2 ^ 30) (2 ^ 30)

/-- Whether a granule of 64 MiB holds mapped bytes of a range. -/
def granuleMapped (s : State) (g a n : Nat) : Bool :=
  let lo := max a (g * 2 ^ 26)
  let hi := min (a + n) ((g + 1) * 2 ^ 26)
  let pooled := (s.cfg.live.dmap.fastPool ++ s.cfg.live.dmap.capPool).contains (g / 16)
  (decide (lo < min hi (fastEnd s.cfg.live)) || decide (max lo capBase < min hi (capEnd s))) && !pooled

/-- Whether the tenant owns every mapped byte of a range (R587). -/
def dOwned (s : State) (t : BitVec 4) (a n : Nat) : Bool :=
  (blocksOf (2 ^ 26) a (min n (2 ^ 44 - min a (2 ^ 44)))).all fun g =>
    !granuleMapped s g a n || granuleOwner s.cfg.live g = some t

/-- The shared region that holds a whole range. -/
def sharedAt (s : State) (a n : Nat) : Option SharedRegion :=
  s.cfg.live.dmap.shared.find? fun r => decide (r.base ≤ a) && decide (a + n ≤ r.base + r.bytes)

/-- Whether a range meets a shared region. -/
def meetsShared (s : State) (a n : Nat) : Bool := s.cfg.live.dmap.shared.any fun r => meets a n r.base r.bytes

/-- Whether the tenant may read a range (R587). -/
def dReadable (s : State) (t : BitVec 4) (a n : Nat) : Bool := dOwned s t a n || (sharedAt s a n).isSome

/-- Whether a range meets the image store. -/
def meetsStore (s : State) (a n : Nat) : Bool := meets a n (imageStoreBase s.cfg.live) (2 ^ 30)

/-- The owner of the first engine-owned byte of a range, if it holds one (R51, R52, R166, R559). -/
def engineOwner (s : State) (a n : Nat) : Option (BitVec 4) :=
  match s.cfg.live.dmap.owned.find? fun r => meets a n r.base r.bytes with
  | some r => some r.owner
  | none => if meetsStore s a n then some s.cfg.live.control else none

/-- Package channel of a fast-tier address (Table 3 of *Stacks, channels and the hint cache*). -/
def channelOfFast (p : Plane) (a : Nat) : Nat :=
  let r := a / 2 ^ 30
  let o := a % 2 ^ 30
  let bit := fun i => o / 2 ^ i % 2
  let x := fun (l : List Nat) => (l.foldl (fun acc i => acc + (if i < 30 then bit i else 0)) 0) % 2
  match nmGet .packageWide p.dmap.policies r with
  | .packageWide =>
    (List.range 6).foldl (fun acc i => acc + 2 ^ i * x [8 + i, 16 + i, 24 + i]) 0 + 64 * x [14, 22] + 128 * x [15, 23]
  | .stackLocal st =>
    64 * st.val + (List.range 4).foldl (fun acc i => acc + 2 ^ i * x [8 + i, 14 + i, 20 + i, 26 + i]) 0
      + 16 * x [12, 18, 24] + 32 * x [13, 19, 25]

/-- Channel-local offset of a fast-tier address (R416, R417). -/
def chanOffset (p : Plane) (a : Nat) : Nat :=
  let r := a / 2 ^ 30
  let o := a % 2 ^ 30
  match nmGet .packageWide p.dmap.policies r with
  | .packageWide => 2 ^ 24 * (r / 4) + 2 ^ 22 * (r % 4) + 256 * (o / 2 ^ 16) + o % 256
  | .stackLocal _ => 2 ^ 24 * (r / 4) + 256 * (o / 2 ^ 14) + o % 256

/-- A number for each stored sector of the fast tier: channel, bank, row of 32,776, and sector of the row (R410). -/
def sectorId (ch bank row k : Nat) : Nat := ((ch * 48 + bank) * 32776 + row) * 32 + k

/-- The stored sector of a fast-tier address (R418). -/
def sectorOfFast (p : Plane) (a : Nat) : Nat :=
  let c := chanOffset p a
  sectorId (channelOfFast p a) (c / 1024 % 48) (c / 1024 / 48) (c % 1024 / 32)

/-- The frame that holds a D-space address at present (R492, R494). -/
def frameOf (s : State) (a : Nat) : Nat :=
  match nmGet? s.units.tier.placed (a / 65536) with
  | some f => f + a % 65536
  | none => a

/-- The package channel behind a D-space address, none behind a bridge. -/
def channelOf (s : State) (a : Nat) : Option Nat :=
  let f := frameOf s a
  if f < capBase then some (channelOfFast s.cfg.live f) else none

/-- The bridge behind a D-space address, none in the fast tier (R487). -/
def bridgeOf (s : State) (a : Nat) : Option Nat :=
  let f := frameOf s a
  if f < capBase then none else some (if f - capBase < s.units.tier.lpChannels * 2 ^ 35 then 0 else 1)

/-- log2 of the installed channels per bridge (R488). -/
def lpBits (s : State) : Nat := if s.units.tier.lpChannels = 8 then 3 else if s.units.tier.lpChannels = 16 then 4 else 5

/-- The bridge channel, as 32m + channel, behind a D-space address; none in the fast tier (R488). -/
def lpChannelOf (s : State) (a : Nat) : Option Nat :=
  let n := lpBits s
  let part := s.units.tier.lpChannels * 2 ^ 35
  (bridgeOf s a).map fun m =>
    let o := frameOf s a - capBase - m * part
    let x := fun (i : Nat) => ((List.range 12).foldl (fun acc j => if i + n * j ≤ 26 + n then acc + o / 2 ^ (8 + i + n * j) % 2 else acc) 0) % 2
    32 * m + (List.range n).foldl (fun acc i => acc + 2 ^ i * x i) 0

/-- Channel-local offset of a capacity address (R488). -/
def lpOffset (s : State) (a : Nat) : Nat :=
  let o := frameOf s a - capBase - (bridgeOf s a).getD 0 * (s.units.tier.lpChannels * 2 ^ 35)
  256 * (o / 2 ^ (8 + lpBits s) % 2 ^ 27) + o % 256

/-- The place in a bridge channel that an offset names: column byte, bank, rank and row (R489). -/
structure LpPlace where
  column : Nat
  bank   : Nat
  rank   : Nat
  row    : Nat
deriving DecidableEq, Repr

/-- Split a channel-local offset of a bridge channel (R489). -/
def lpPlace (c : Nat) : LpPlace := ⟨c % 2 ^ 11, c / 2 ^ 11 % 16, c / 2 ^ 15 % 2, c / 2 ^ 16 % 2 ^ 19⟩

/-- A number for each 32 B burst of the bridge channels, from 32m + channel and its place. -/
def burstId (ch : Nat) (x : LpPlace) : Nat := (((ch * 2 + x.rank) * 16 + x.bank) * 2 ^ 19 + x.row) * 64 + x.column / 32

/-- The burst that a capacity address lies in. -/
def burstOf (s : State) (a : Nat) : Option Nat := (lpChannelOf s a).map fun ch => burstId ch (lpPlace (lpOffset s a))

/-- The die that is the home of an address: stack 0 to 3, or 4 + m for bridge m. -/
def homeDie (s : State) (a : Nat) : Nat :=
  match channelOf s a with
  | some g => g / 64
  | none => 4 + (bridgeOf s a).getD 0

/-- Tier of a frame. -/
def frameTier (f : Nat) : Nat := if f < capBase then 0 else 1

/-- The bridge whose migration engine carries out a move (R495). -/
def moveEngine (s : State) (mv : Nat × Nat × Word) : Nat :=
  let f := if mv.2.1 < capBase then frameOf s (mv.1 * 65536) else mv.2.1
  if f - capBase < s.units.tier.lpChannels * 2 ^ 35 then 0 else 1

/-- Moves whose copy is under way: each engine's first, once every earlier move of its unit is over (R498, R499). -/
def movesUnderWay (s : State) : List (Nat × Nat × Word) :=
  ((List.zipIdx s.units.tier.moves).filter fun x =>
    !(s.units.tier.moves.take x.2).any fun y => y.1 = x.1.1 || moveEngine s y = moveEngine s x.1).map (·.1)

/-- The tier that a move unit lies in once every reserved move is over. -/
def unitTier (s : State) (u : Nat) : Nat :=
  match (s.units.tier.moves.filter fun m => m.1 = u).getLast? with
  | some m => frameTier m.2.1
  | none => frameTier (frameOf s (u * 65536))

/-- Whether an S-space range is mapped (R68). -/
def sMapped (p : Plane) (a n : Nat) : Bool :=
  let ok := fun (b : Nat) => decide (b < 2 ^ 29) && decide (b / 2 ^ 20 < 320) &&
    (b / 2 ^ 19 % 2 = 0 || decide (b % 2 ^ 19 < stagingOf p (b / 2 ^ 20)))
  decide (a + n ≤ 2 ^ 29) && (blocksOf 65536 a n).all fun k => ok (max a (k * 65536))

/-- Whether the tenant owns every UE of the mapped part of an S-space range: the scratch and staging bytes that exist (R61, R588). -/
def sOwned (p : Plane) (t : BitVec 4) (a n : Nat) : Bool :=
  (blocksOf (2 ^ 20) a (min n (2 ^ 29 - min a (2 ^ 29)))).all fun u =>
    decide (320 ≤ u) || (planeTenant p t.toNat).ueOwn.getLsbD u || !meets a n (u * 2 ^ 20) (0x80000 + stagingOf p u)

/-- P-space row address of stack, channel, bank and row (Table 6). -/
def pAddr (st ch bank row : Nat) : Nat := st * 2 ^ 27 + ch * 2 ^ 21 + bank * 2 ^ 15 + row

/-- Whether a P-space row address is mapped (R71). -/
def pMapped (p : Plane) (a : Nat) : Bool :=
  decide (a < 2 ^ 29) && decide (a / 2 ^ 15 % 64 < 48) && decide (a % 2 ^ 15 < p.dmap.pRows)

/-- Package channel of a P-space row. -/
def pChannel (a : Nat) : Nat := a / 2 ^ 27 % 4 * 64 + a / 2 ^ 21 % 64

/-- The row of its bank that a P-space row is, counted over the channel as `sectorId` counts (Table 6). -/
def rowPlace (p : Plane) (a : Nat) : Nat := sectorId (pChannel a) (a / 2 ^ 15 % 64) (32768 - p.dmap.pRows + a % 2 ^ 15) 0 / 32

/-! ### The address behind a place of the fast tier -/

/-- Bit `i` of a number. -/
def bitOf (n i : Nat) : Nat := n / 2 ^ i % 2

/-- Exclusive OR of some bits, placed at bit `i`. -/
def xorAt (i : Nat) (l : List Nat) : Nat := l.foldl (· + ·) 0 % 2 * 2 ^ i

/-- The fast-tier address of a channel-local offset under the package-wide policy: the hash of Table 3 solved for the offset. -/
def wideAddr (ch c : Nat) : Nat :=
  let hi := c % 2 ^ 22 / 256 * 2 ^ 16 + c % 256
  let o := hi + xorAt 14 [bitOf ch 6, bitOf hi 22] + xorAt 15 [bitOf ch 7, bitOf hi 23]
  let o := o + (List.range 6).foldl (fun a i => a + xorAt (8 + i) [bitOf ch i, bitOf o (16 + i), bitOf o (24 + i)]) 0
  (4 * (c / 2 ^ 24) + c % 2 ^ 24 / 2 ^ 22) * 2 ^ 30 + o

/-- The same within a region that is local to the channel's stack. -/
def localAddrOf (region ch c : Nat) : Nat :=
  let o := c % 2 ^ 24 / 256 * 2 ^ 14 + c % 256
  let at30 := fun i => if i < 30 then bitOf o i else 0
  region * 2 ^ 30 + o + (List.range 6).foldl (fun a i =>
    a + xorAt (8 + i) ([bitOf ch i, at30 (14 + i), at30 (20 + i)] ++ if i < 4 then [at30 (26 + i)] else [])) 0

/-- The address whose initial place is a row, bank and sector of a package channel (R416 to R418). -/
def sectorAddr (p : Plane) (ch row bank sector : Nat) : Option Nat :=
  let c := (row * 48 + bank) * 1024 + 32 * sector
  let q := c / 2 ^ 24
  match nmGet .packageWide p.dmap.policies (4 * q) with
  | .packageWide => some (wideAddr ch c)
  | .stackLocal _ =>
    ((List.range 4).map (4 * q + ·)).findSome? fun r =>
      match nmGet .packageWide p.dmap.policies r with
      | .stackLocal st => if st.val = ch / 64 then some (localAddrOf r ch c) else none
      | .packageWide => none

/-- The address whose bytes lie at present at a fast-tier place: a displaced unit's frame holds another unit, or none (R492, R494). -/
def residentAt (s : State) (a : Nat) : Option Nat :=
  match s.units.tier.placed.find? fun e => e.2 / 65536 = a / 65536 with
  | some e => some (e.1 * 65536 + a % 65536)
  | none =>
    if (nmGet? s.units.tier.placed (a / 65536)).isSome || !dMapped s (64 * (a / 64)) 64 then none else some a

/-- A P-space row's bits; a row not written since cold reset is undefined (R73). -/
def pRow (s : State) (a : Nat) : BitVec 8192 := nmGet (Config.undefinedRow s.mem.pIndex a) s.mem.prows a

end Sys2Proof.Machine
end

