-- ==== Sys2Proof/Machine/Flags.lean ====
section
/-! DEFINITION. The numeric counters and the flag byte of completion records (Table 15 of *Host port, commands and
handles*, R148, R333, R334, R606), and the bytes of completion and event records. -/

namespace Sys2Proof.Machine

/-- A count that saturates. -/
def satTo (limit n : Nat) : Nat := min limit n

/-- Add to a tenant's 48-bit totals, saturating (R606). -/
def totalsAdd (a b : Counts) : Counts :=
  let f := fun x y => satTo (2 ^ 48 - 1) (x + y)
  ⟨f a.sat b.sat, f a.flush b.flush, f a.nan b.nan, f a.inf b.inf⟩

/-- CFLAGS of a completion record (Table 15). -/
def cflagsOf (op : Op) : Nat :=
  (if op.empty then 1 else 0) + (if dCounters op.desc then 2 else 0) + (if op.signalled then 4 else 0) +
  (if op.replayed then 8 else 0) + (if op.event then 16 else 0)

/-- The 16-bit counts of a record: filled only under COUNTERS, saturating (R148). -/
def countBytes (op : Op) : List Byte :=
  if dCounters op.desc then
    leBytes 2 (satTo 0xFFFF op.counts.sat) ++ leBytes 2 (satTo 0xFFFF op.counts.flush) ++
    leBytes 2 (satTo 0xFFFF op.counts.nan) ++ leBytes 2 (satTo 0xFFFF op.counts.inf)
  else List.replicate 8 0

/-- The 32 bytes of an operation's completion record (Table 15). -/
def recordBytes (op : Op) : List Byte :=
  leBytes 4 op.handle.toNat ++ leBytes 2 op.status.toNat ++ leBytes 1 (cflagsOf op) ++ leBytes 1 (dOpcode op.desc) ++
  leBytes 4 (dUser op.desc) ++ leBytes 4 op.res0.toNat ++ leBytes 8 op.res1.toNat ++ countBytes op

/-- The 32 bytes of an event record (Table 18). -/
def eventBytes (seq : Word) (e : EvtEntry) : List Byte :=
  leBytes 2 e.code.toNat ++ leBytes 1 (satTo 255 e.repeats) ++ leBytes 1 0 ++ leBytes 4 seq.toNat ++
  leBytes 8 e.place.toNat ++ leBytes 8 e.detail.toNat ++ leBytes 4 e.handle.toNat ++ leBytes 4 0

end Sys2Proof.Machine
end

