-- ==== Sys2Proof/Machine/Ops.lean ====
section
/-! DEFINITION. The named operations every command is built from: reading and writing memory through its homes, register
words, events, sync objects, and the life of an operation. -/

namespace Sys2Proof.Machine

/-! ### Free values -/

/-- Use one free bit. -/
def takeBit (s : State) : State × Bool := ({ s with free := s.free + 1 }, Config.freeBit s.free)

/-- Use one free number. -/
def takeNat (s : State) : State × Nat := ({ s with free := s.free + 1 }, Config.freeNat s.free)

/-! ### Register words -/

/-- A register word by control-window offset, with its cold value. -/
def regGet (s : State) (off : Nat) (cold : Word) : Word := nmGet cold s.regs off

/-- Set a register word. -/
def regSet (s : State) (off : Nat) (v : Word) : State := { s with regs := nmSet s.regs off v }

/-- Offset of a register of tenant block `t` (R734). -/
def tenOff (t : BitVec 4) (off : Nat) : Nat := 0x10000 + t.toNat * 0x100 + off

/-- Add to a 32-bit saturating counter register. -/
def regCount (s : State) (off n : Nat) : State :=
  regSet s off (BitVec.ofNat 32 (satTo 0xFFFFFFFF ((regGet s off 0).toNat + n)))

/-- Window base of a die: SBD n for 0 to 3, TB m for 4 + m (Table 1 of *Register windows*). -/
def dieBase (d : Nat) : Nat := 0x100000 + d * 0x100000

/-! ### Outputs and events -/

/-- Send something to the host. -/
def emit (s : State) (o : HostOut) : State := { s with fe := { s.fe with hostOut := s.fe.hostOut ++ [o] } }

/-- Answer a request (R112). -/
def respond (s : State) (r : HostReq) (st : Status) (data : List Byte) : State :=
  emit s (.rsp r.module.val r.tenant r.tag (st.setWidth 8) data)

/-- Whether a host-port module carries traffic. -/
def moduleUp (s : State) (k : Nat) : Bool := (nmGet ⟨false, 0, false⟩ s.fe.modules k).up

/-- Whether a module group has a trained module. -/
def groupUp (s : State) (g : Nat) : Bool := (List.range 4).any fun k => moduleUp s (4 * g + k)

/-- The group that carries a queue's writes: its own, or the lowest trained group of the same base die (R120). -/
def carryGroup (s : State) (g : Nat) : Option Nat :=
  if groupUp s g then some g else ((List.range 4).map fun k => g / 4 * 4 + k).find? (groupUp s)

/-- A write to host memory that cannot go out now. -/
def holdCpl (s : State) (g addr : Nat) (data : List Byte) : State :=
  { s with fe := { s.fe with heldCpl := s.fe.heldCpl ++ [(g, addr, data)] } }

/-- Send a write to host memory through a group, or hold it while the base die has no trained group (R120) or the group is in L1, whose
exit it waits for (R686). -/
def cplWrite (s : State) (g addr : Nat) (data : List Byte) : State :=
  match carryGroup s g with
  | some k => if s.units.power.doze.contains k then holdCpl s g addr data else emit s (.cplWr k addr data)
  | none => holdCpl s g addr data

/-- A tenant's event ring. -/
def ringOf (s : State) (t : Nat) : EvtRing := nmGet evtZero s.fe.rings t

/-- Replace a tenant's event ring. -/
def setRing (s : State) (t : Nat) (r : EvtRing) : State := { s with fe := { s.fe with rings := nmSet s.fe.rings t r } }

/-- Whether a tenant's ring takes another record: it is placed and not full (R771, Table 10 of *The Limbelia image*). -/
def ringRoom (s : State) (t : Nat) : Bool :=
  (planeTenant s.cfg.live t).eventRing.isSome && (ringOf s t).seq - (ringOf s t).head != 256

/-- The lowest module group that allows a tenant; it carries the tenant's event records (DESIGN CHOICE, log 31). -/
def eventGroup (s : State) (t : Nat) : Nat :=
  ((List.range 16).find? fun g => (nmGet 0 s.cfg.live.groups g).getLsbD t).getD 0

/-- Write an event record to the ring, with the next SEQ (R771). -/
def writeEvent (s : State) (t : Nat) (e : EvtEntry) : State :=
  let r := ringOf s t
  let seq := r.seq + 1
  let addr := ((planeTenant s.cfg.live t).eventRing.getD 0) + 32 * ((seq - 1).toNat % 256)
  cplWrite (setRing s t { r with seq := seq }) (eventGroup s t) addr (eventBytes seq e)

/-- Merge an event into the pending table (R158). -/
def pendEvent (l : List EvtEntry) (e : EvtEntry) : List EvtEntry :=
  if l.any (fun x => x.code = e.code) then l.map fun x => if x.code = e.code then { x with repeats := x.repeats + 1 } else x
  else l ++ [e]

/-- The bit of HUB_ALERT_STATUS that an event marked ALERT_N sets (Table 19 of *Host port, commands and handles*, Table 9 of
*Replica digests, error correction and error reports*). -/
def alertBit (code : BitVec 16) : Option Nat :=
  if code = evPortDown then some 0 else if code = evBypass then some 1 else if code = evDigestSplit then some 2
  else if code = evUe then some 3 else if code = evSharedUe then some 4 else if code = evLease then some 5 else none

/-- Set the alert bit of an event (R583). -/
def setAlert (s : State) (code : BitVec 16) : State :=
  match alertBit code with
  | some b => regSet s 0x2000 (regGet s 0x2000 0 ||| BitVec.ofNat 32 (2 ^ b))
  | none => s

/-- Raise an event to a tenant: written when the ring has room, else pending (R158). -/
def raiseEvent (s : State) (t : Nat) (code : BitVec 16) (place detail : DWord) (handle : Word) : State :=
  let e : EvtEntry := ⟨code, 0, place, detail, handle⟩
  let s := setAlert s code
  if ringRoom s t && !(ringOf s t).pending.any (fun x => x.code = code) then writeEvent s t e
  else setRing s t { ringOf s t with pending := pendEvent (ringOf s t).pending e }

/-- Raise an event whose DETAIL the manual does not give: a free value (log 42). -/
def raiseEventFree (s : State) (t : Nat) (code : BitVec 16) (place : DWord) (handle : Word) : State :=
  let (s, n) := takeNat s
  raiseEvent s t code place (BitVec.ofNat 64 n) handle

/-- Raise an event whose WHERE and DETAIL the manual does not give: free values (log 42). -/
def raiseEventOpen (s : State) (t : Nat) (code : BitVec 16) (handle : Word) : State :=
  let (s, n) := takeNat s
  raiseEventFree s t code (BitVec.ofNat 64 n) handle

/-- The tenants that exist. -/
def tenantsOf (p : Plane) : List Nat := (List.range 16).filter fun t => (planeTenant p t).enabled

/-- Raise an event to every tenant. -/
def raiseAll (s : State) (code : BitVec 16) (place detail : DWord) : State :=
  (tenantsOf s.cfg.live).foldl (fun s t => raiseEvent s t code place detail 0) s

/-- Raise an event with open WHERE and DETAIL to every tenant. -/
def raiseAllOpen (s : State) (code : BitVec 16) : State :=
  (tenantsOf s.cfg.live).foldl (fun s t => raiseEventOpen s t code 0) s

/-- Write one error-log record (R582, Table 7 of the same chapter); the oldest of 1,024 is overwritten. -/
def logRecord (s : State) (kind die unit : Nat) (place detail : Nat) (tenant : Nat) : State :=
  let g := s.units.integ
  let seq := g.logSeq + 1
  let rec_ := leBytes 2 kind ++ leBytes 1 die ++ [0] ++ leBytes 2 unit ++ leBytes 2 0 ++ leBytes 8 place ++ leBytes 8 detail ++
    leBytes 4 seq.toNat ++ leBytes 1 tenant ++ leBytes 3 0
  { s with units := { s.units with integ := { g with
      logSeq := seq, log := nmSet g.log ((seq - 1).toNat % 1024) rec_ } } }

/-- Write an error-log record whose DETAIL the manual does not give: a free value (log 42). -/
def logRecordFree (s : State) (kind die unit place tenant : Nat) : State :=
  let (s, n) := takeNat s
  logRecord s kind die unit place n tenant

/-- A package channel's state. -/
def chanOf (s : State) (c : Nat) : Chan := nmGet chanReset s.units.chans c

/-- Change a package channel. -/
def updChan (s : State) (c : Nat) (f : Chan → Chan) : State :=
  { s with units := { s.units with chans := nmSet s.units.chans c (f (chanOf s c)) } }

/-! ### D-space through its homes -/

/-- Never-written granules that a range touches. -/
def freshIn (s : State) (a n : Nat) : Nat := ((blocksOf 4096 a n).filter fun g => !s.mem.written.contains g).length

/-- Poisoned granules that a range touches. -/
def poisonIn (s : State) (a n : Nat) : Bool := (blocksOf 64 a n).any fun g => s.mem.poison.contains g

/-- Poisoned granules that a range covers only in part (R554). -/
def poisonPart (s : State) (a n : Nat) : List Nat :=
  (blocksOf 64 a n).filter fun g => s.mem.poison.contains g && !(decide (a ≤ 64 * g) && decide (64 * g + 64 ≤ a + n))

/-- The bytes of a range. -/
def dRead (s : State) (a n : Nat) : List Byte := memRead s.mem.cells a n

/-- Bytes to write, with the bytes of partly covered poisoned granules put back to what they hold (R554). -/
def keepPoison (s : State) (a : Nat) (bs : List Byte) : List Byte :=
  let p := poisonPart s a bs.length
  if p.isEmpty then bs
  else (List.zipIdx bs).map fun x => if p.contains ((a + x.2) / 64) then memGet s.mem.cells (a + x.2) else x.1

/-- State of sector `k` of a cached line. -/
def sectorOf (l : CacheLine) (k : Nat) : SectorState := if k = 0 then l.s0 else l.s1

/-- Set the state of sector `k` of a line. -/
def setSector (l : CacheLine) (k : Nat) (st : SectorState) : CacheLine := if k = 0 then { l with s0 := st } else { l with s1 := st }

/-- What the array holds beneath sector `k` of a line. -/
def underOf (l : CacheLine) (k : Nat) : List Byte := if k = 0 then l.under0 else l.under1

/-- Note what the array holds beneath sector `k` of a line. -/
def setUnder (l : CacheLine) (k : Nat) (bs : List Byte) : CacheLine := if k = 0 then { l with under0 := bs } else { l with under1 := bs }

/-- Whether a cached line is the line of an address at its home. -/
def homeLine (s : State) (a : Nat) (l : CacheLine) : Bool := l.line = a / 128 && l.visitor.isNone && l.die = homeDie s a

/-- Whether the home of an address holds its 64 B sector in its cache, Clean or Dirty (R432, R433). -/
def cachedAt (s : State) (a : Nat) : Bool :=
  s.units.cache.any fun l => homeLine s a l && sectorOf l (a / 64 % 2) ≠ .invalid

/-- Whether the channel of an address is failed. -/
def failedAt (s : State) (a : Nat) : Bool := match channelOf s a with | some c => (chanOf s c).failed | none => false

/-- Granules of a range for which an access reaches a failed channel: those that the home does not hold in its cache (R431, R432). -/
def failedGranules (s : State) (a n : Nat) : List Nat :=
  if s.units.chans.any fun c => c.2.failed then (blocksOf 64 a n).filter fun g => failedAt s (64 * g) && !cachedAt s (64 * g)
  else []

/-- A sector becomes dirty: what the array holds beneath it is kept apart (R432). -/
def dirtySector (s : State) (l : CacheLine) (k : Nat) : CacheLine :=
  if sectorOf l k = .dirty then l else setUnder (setSector l k .dirty) k (memRead s.mem.cells (l.line * 128 + 64 * k) 64)

/-- A write updates the sectors that its home holds in its cache, and marks them dirty (R432). -/
def dirtyLines (s : State) (a n : Nat) : State :=
  if s.units.cache.any fun l => l.visitor.isNone && meets a n (l.line * 128) 128 then
    let mark := fun (l : CacheLine) (k : Nat) =>
      if sectorOf l k ≠ .invalid && meets a n (l.line * 128 + 64 * k) 64 then dirtySector s l k else l
    let lines := s.units.cache.map fun l => if homeLine s (l.line * 128) l then mark (mark l 0) 1 else l
    { s with units := { s.units with cache := lines } }
  else s

/-- A dirty sector is written to the array; a failed channel discards the write, so its array value stands (R431, R432). -/
def writeBackSector (l : CacheLine) (s : State) (k : Nat) : State :=
  let a := l.line * 128 + 64 * k
  if sectorOf l k = .dirty && failedAt s a then { s with mem := { s.mem with cells := memWrite s.mem.cells a (underOf l k) } } else s

/-- The dirty sectors of a line are written to the array (R432). -/
def writeBack (s : State) (l : CacheLine) : State := if l.visitor.isNone then [0, 1].foldl (writeBackSector l) s else s

/-- Writes to a failed channel are discarded (R431): the bytes put back to what memory holds there. -/
def dropFailed (s : State) (a : Nat) (bs : List Byte) : List Byte :=
  let f := failedGranules s a bs.length
  if f.isEmpty then bs else (List.zipIdx bs).map fun x => if f.contains ((a + x.2) / 64) then memGet s.mem.cells (a + x.2) else x.1

/-- Before any access to a bank that is 4 REFs behind, a REF owed to it is issued (R423). -/
def catchUp (s : State) (c : Nat) : State :=
  if (chanOf s c).behind.any fun b => 4 ≤ b.2 then
    updChan s c fun x => { x with behind := x.behind.map fun b => if 4 ≤ b.2 then (b.1, 3) else b }
  else s

/-- A D-space access reaches channels held under HOLD: they return to memory mode (Table 7 of *Pips*), and REFs at their limit come
first (R423). -/
def releaseHold (s : State) (a n : Nat) : State :=
  if s.units.pips.held.isEmpty then s
  else
    let gone := (blocksOf 128 a n).filterMap fun l => (channelOf s (l * 128)).filter s.units.pips.held.contains
    gone.foldl catchUp { s with units := { s.units with
      proc := s.units.proc.filter fun c => !gone.contains c
      pips := { s.units.pips with held := s.units.pips.held.filter fun c => !gone.contains c } } }

/-- Granules of 4 KiB that hold a byte which a write has not lost to a failed channel. -/
def landedGranules (a n : Nat) (failed : List Nat) : List Nat :=
  if failed.isEmpty then blocksOf 4096 a n else ((blocksOf 64 a n).filter fun g => !failed.contains g).map (· / 64)

/-- Stored sectors that a write covers whole. -/
def wholeSectors (a n : Nat) : List Nat := (blocksOf 32 a n).filter fun b => decide (a ≤ 32 * b) && decide (32 * b + 32 ≤ a + n)

/-- The stored sector of a D-space address, none behind a bridge. -/
def sectorAt (s : State) (a : Nat) : Option Nat := let f := frameOf s a; if f < capBase then some (sectorOfFast s.cfg.live f) else none

/-- A write that covers a stored sector whole leaves a code word there (R425). -/
def mendSectors (s : State) (a n : Nat) : NMap (List Byte) :=
  if s.mem.flips.isEmpty then s.mem.flips
  else let l := (wholeSectors a n).filterMap fun b => sectorAt s (32 * b); s.mem.flips.filter fun f => !l.contains f.1

/-- Write bytes at their home: the fresh map is marked, and poison that the write covers whole ends (R94, R553, R554); a sector that the
home holds in its cache becomes dirty (R432), and what reaches a failed channel is discarded (R431). An access that carries no hint, such
as that of a sweep or a frame, writes so and no more (DESIGN CHOICE, log 71). -/
def dWrite (s : State) (a : Nat) (bs : List Byte) : State :=
  if bs.isEmpty then s else
  let s := dirtyLines (releaseHold s a bs.length) a bs.length
  let p := poisonPart s a bs.length
  let f := failedGranules s a bs.length
  { s with mem := { s.mem with
      cells := memWrite s.mem.cells a (keepPoison s a (dropFailed s a bs))
      flips := mendSectors s a bs.length
      written := (landedGranules a bs.length f).foldl (fun l g => insertNat g l) s.mem.written
      poison := s.mem.poison.filter fun g => p.contains g || f.contains g || !(blocksOf 64 a bs.length).contains g } }

/-- Whether a write discards bytes of a poisoned granule (R554). -/
def poisonCut (s : State) (a n : Nat) : Bool := !(poisonPart s a n).isEmpty

/-- Mark a range of 4 KiB granules never-written (R96). -/
def freshen (s : State) (g0 n : Nat) : State :=
  { s with mem := { s.mem with
      cells := s.mem.cells.filter (fun c => c.1 < g0 * 4096) ++ s.mem.cells.filter (fun c => (g0 + n) * 4096 ≤ c.1)
      written := s.mem.written.filter fun g => g < g0 || g0 + n ≤ g
      poison := s.mem.poison.filter fun p => p < g0 * 64 || (g0 + n) * 64 ≤ p } }

/-- A byte of S-space: a free value where the work of a UE has left it open and nothing has written it since (log 66). -/
def sByte (s : State) (a : Nat) : Byte :=
  match s.mem.sopen.find? fun r => decide (r.1 ≤ a) && decide (a < r.2.1) with
  | some r => Config.freeScratch r.2.2 a
  | none => memGet s.mem.scells a

/-- Read S-space. -/
def sRead (s : State) (a n : Nat) : List Byte :=
  if s.mem.sopen.any fun r => meets a n r.1 (r.2.1 - r.1) then (List.range n).map fun i => sByte s (a + i)
  else memRead s.mem.scells a n

/-- Open ranges with some bytes taken out. -/
def cutOpen (l : List (Nat × Nat × Nat)) (a n : Nat) : List (Nat × Nat × Nat) :=
  l.flatMap fun r => [(r.1, min r.2.1 a, r.2.2), (max r.1 (a + n), r.2.1, r.2.2)].filter fun x => x.1 < x.2.1

/-- Write S-space; an operand that ends inside a 4-byte word leaves the rest of the word (DESIGN CHOICE, log 146). -/
def sWrite (s : State) (a : Nat) (bs : List Byte) : State :=
  { s with mem := { s.mem with scells := memWrite s.mem.scells a bs, sopen := cutOpen s.mem.sopen a bs.length } }

/-- Work of some UEs leaves their scratch and staging open (R204, R589; log 66). -/
def openUes (s : State) (ues : List Nat) : State :=
  { s with
    free := s.free + 1
    mem := { s.mem with
      sopen := ues.foldl (fun l u => cutOpen l (u * 2 ^ 20) (2 ^ 20)) s.mem.sopen ++ ues.map fun u => (u * 2 ^ 20, (u + 1) * 2 ^ 20, s.free) } }

/-- Write one P-space row; its check bits are those of the new value (R473). -/
def pWrite (s : State) (a : Nat) (v : BitVec 8192) : State :=
  { s with mem := { s.mem with
      prows := nmSet s.mem.prows a v, pbad := s.mem.pbad.filter fun r => r ≠ a
      flips := s.mem.flips.filter fun f => f.1 / 32 ≠ rowPlace s.cfg.live a } }

/-- Count a read of never-written granules (R95). -/
def countUninit (s : State) (t : BitVec 4) (n : Nat) : State := if n = 0 then s else regCount s (tenOff t 0x04) n

/-- HUB_MEM_POLICY.UNWR_STATUS of a tenant. -/
def unwrStatus (s : State) (t : BitVec 4) : Bool := (regGet s (tenOff t 0x00) 0).getLsbD 0

/-! ### Transaction groups and held lines -/

/-- The group that a line is locked by, with its state. -/
def lockOf (s : State) (line : Nat) : Option Txg := s.step.txgs.find? fun g => g.lines.any fun l => l.1 = line

/-- Whether a line is Busy: a write-back of an Ending group is under way (R286). -/
def lineBusy (s : State) (line : Nat) : Bool :=
  match lockOf s line with | some g => decide (g.state = .ending) | none => false

/-- Address of tile `t`'s narrow bytes in the active gather-buffer copy (R222, R275). -/
def activeNarrow (s : State) (c : ShardCfg) (t : Nat) : Nat :=
  let copy := match s.cfg.live.dmap.gathers[c.gather]? with
    | some g => (match g.copy1 with | some k => if nmGet false s.step.copy1 c.gather then k else g.copy0 | none => g.copy0)
    | none => 0
  copy + c.gatherOff + 64 + t * narrowTileBytes (narrowFmt s.cfg.live c)

/-- A tile whose repair is due holds its committed fields and its narrow bytes (R557, R576): whether a range meets one. -/
def repairHeld (s : State) (a n : Nat) : Bool :=
  s.units.integ.repairs.any fun r =>
    match nmGet? s.cfg.live.shards r.1 with
    | none => false
    | some c =>
      let e := if capMode c then 0 else if (nmGet shardZero s.step.shards r.1).epoch then 1 else 0
      meets a n (fieldAddr c e r.2 0) (fieldCount c * blockBytes c) ||
      (!c.intKind && meets a n (activeNarrow s c r.2) (narrowTileBytes (narrowFmt s.cfg.live c)))

/-- Whether a read waits for a refetch or a repair (R557, R560, R576). -/
def refetchHeld (s : State) (a n : Nat) : Bool :=
  s.units.integ.refetch.any (fun r => !r.late && meets a n (64 * r.granule) 64) || repairHeld s a n

/-- Whether the memories are in self-refresh, in RETAIN or for a WARM reset (R688, R702): requests wait (log 94). -/
def memAsleep (s : State) : Bool := decide (s.units.power.state = 2) || s.units.boot.warm

/-- Whether a channel is in processor mode, and not one that HOLD keeps for the next access (R74, R469). -/
def procAt (s : State) (c : Nat) : Bool := s.units.proc.contains c && !s.units.pips.held.contains c

/-- Channels of a range of lines. -/
def rangeChannels (s : State) (a n : Nat) : List Nat := (blocksOf 128 a n).filterMap fun l => channelOf s (l * 128)

/-- Channels at which an access to some ranges waits in the order of arrival: those in processor mode, and those at which an access that
arrived earlier still waits (R74). -/
def orderChans (s : State) (l : List (Nat × Nat)) : List Nat :=
  let queued := s.fe.held.flatMap (·.chans)
  if s.units.proc.isEmpty && queued.isEmpty then []
  else ((l.flatMap fun x => rangeChannels s x.1 x.2).filter fun c => procAt s c || queued.contains c).eraseDups

/-- Whether every access to a range is held: a Busy line, a channel in processor mode, in a retrain or under test, or a memory in
self-refresh (R74, R102, R430, R486). -/
def accessHeld (s : State) (a n : Nat) : Bool :=
  (blocksOf 128 a n).any fun l => lineBusy s l || memAsleep s ||
    (match channelOf s (l * 128) with
     | some c => procAt s c || (chanOf s c).retrain || s.units.margin.contains c
     | none => s.units.tier.selfRefresh.contains ((bridgeOf s (l * 128)).getD 0) ||
         (!s.units.runs.isEmpty && s.units.runs.any fun r => r.bridge.isSome && r.bridge = lpChannelOf s (l * 128)))

/-- Whether a plain read of a range is held; a refetch or a repair under way holds reads too (R557). -/
def readHeld (s : State) (a n : Nat) : Bool := refetchHeld s a n || accessHeld s a n

/-- Whether a range overlaps a unit whose copy is under way (R499, R504). -/
def copyHeld (s : State) (a n : Nat) : Bool := (movesUnderWay s).any fun c => meets a n (c.1 * 65536) 65536

/-- Whether a plain write by a group, or by none, is held: another group's lock or the copy of its move unit holds it too (R102, R499). -/
def writeHeld (s : State) (grp : Option Nat) (a n : Nat) : Bool :=
  accessHeld s a n || copyHeld s a n ||
  (blocksOf 128 a n).any fun l => match lockOf s l with | some g => decide (grp ≠ some g.group) | none => false

/-- The bytes of a range as a transaction group sees them: its own new data over the old (R284). -/
def groupRead (s : State) (grp : Option Nat) (a n : Nat) : List Byte :=
  match grp.bind fun g => s.step.txgs.find? fun x => x.group = g with
  | none => dRead s a n
  | some g => (List.zipIdx (dRead s a n)).map fun x =>
      match nmGet? g.lines ((a + x.2) / 128) with
      | some l => l.getD ((a + x.2) % 128) 0
      | none => x.1

/-! ### Sync objects and the life of an operation -/

/-- A sync object's value. -/
def syncGet (s : State) (id : Nat) : DWord := nmGet 0 s.syncs id

/-- An operation that has not retired, by its handle. -/
def findOp (s : State) (h : Word) : Option Op := s.fe.ops.find? fun o => o.handle = h && o.phase ≠ .retired

/-- Change the operation of a handle. -/
def updOp (s : State) (h : Word) (f : Op → Op) : State :=
  { s with fe := { s.fe with ops := s.fe.ops.map fun o => if o.handle = h && o.phase ≠ .retired then f o else o } }

/-- Whether an operation is not yet Done. -/
def opLive (o : Op) : Bool := o.phase = .waiting || o.phase = .running

/-- Opcodes that hold later commands of their queue: WAIT and FENCE, and what acts as a FENCE (R146, R178, R601). -/
def opBarrier (c : Nat) : Bool := c = opWait || c = opFence || c = opCfgCommit || c = opCtxSave || c = opCtxRestore

/-- An earlier WAIT or FENCE of the queue holds the operation (R146). -/
def barred (ops : List Op) (o : Op) : Bool :=
  ops.any fun x => x.queue = o.queue && decide (x.order < o.order) && opLive x && opBarrier (dOpcode x.desc)

/-- Every earlier command of the queue has completed (FENCE_PRE). -/
def earlierDone (ops : List Op) (o : Op) : Bool :=
  ops.all fun x => !(x.queue = o.queue && decide (x.order < o.order) && opLive x)

/-- Every command of the tenant fetched before has completed (FSCOPE 1). -/
def tenantDone (ops : List Op) (o : Op) : Bool :=
  ops.all fun x => !(x.tenant = o.tenant && decide (x.order < o.order) && opLive x)

/-- The PRE_WAIT gate is open. -/
def gateOpen (s : State) (o : Op) : Bool :=
  !dPreWait o.desc || decide (dPreValue o.desc ≤ (syncGet s (dPreSync o.desc)).toNat)

/-- An acquire of a tenant (R87, R88, R131): its generation advances, and copies of an older one count as absent. -/
def acquire (s : State) (t : BitVec 4) : State :=
  { s with mem := { s.mem with
      gens := nmSet s.mem.gens t.toNat (nmGet 0 s.mem.gens t.toNat + 1) } }

/-- A CFG_STAGE stays Waiting while a CFG_COMMIT is past step 2 (R187). -/
def stageHeld (s : State) (o : Op) : Bool := dOpcode o.desc = opCfgStage && s.cfg.wait.isSome

/-- Whether two step plans name a shard in common. -/
def shareShard (a b : StepPlan) : Bool := a.shards.any fun n => b.shards.contains n

/-- The step plan of a PLAN_RUN. -/
def opPlan (p : Plane) (o : Op) : Option StepPlan := if dOpcode o.desc = opPlanRun then nmGet? p.stepplans (dField o.desc 24 4) else none

/-- Whether a PLAN_RUN of the tenant that entered Running before a moment drives a shard of another (R775): `k` is the number of operations
that had entered Running by then. -/
def drivenBefore (s : State) (o : Op) (k : Nat) : Bool :=
  match opPlan s.cfg.live o with
  | none => false
  | some g => s.fe.ops.any fun x => x.phase = .running && x.tenant = o.tenant && decide (x.seat < k) && x.handle ≠ o.handle &&
      (opPlan s.cfg.live x).any (shareShard g)

/-- Key of the count of a tenant's collective commands on a plan (R777). -/
def collKey (t : BitVec 4) (plan : Nat) : Nat := t.toNat * 2 ^ 32 + plan

/-- Collective commands of a tenant and plan numbered so far. -/
def collCount (s : State) (t : BitVec 4) (plan : Nat) : Nat := nmGet 0 s.step.collSeq (collKey t plan)

/-- Give a command of a tenant and plan the next number. -/
def countColl (s : State) (t : BitVec 4) (plan : Nat) : State :=
  { s with step := { s.step with collSeq := nmSet s.step.collSeq (collKey t plan) ((collCount s t plan + 1) % 2 ^ 32) } }

/-- A collective command (R777): REDUCE, GATHER, or NORM with a CPLAN. -/
def isColl (o : Op) : Bool :=
  dOpcode o.desc = opReduce || dOpcode o.desc = opGather || (dOpcode o.desc = opNorm && dCplan o.desc ≠ allShards)

/-- An operation enters Running: it takes its place in the order, and a collective command its number (R777). -/
def enterRunning (s : State) (o : Op) : State :=
  let b := drivenBefore s o s.fe.seats
  let n := collCount s o.tenant (dCplan o.desc)
  let s := updOp s o.handle fun x => { x with phase := .running, seat := s.fe.seats, behind := b, collNo := if isColl o then n else 0 }
  let s := { s with fe := { s.fe with seats := s.fe.seats + 1 } }
  if isColl o then countColl s o.tenant (dCplan o.desc) else s

/-- Let an operation enter Running if its barriers and gates allow it (Table 13). -/
def promoteOne (s : State) (o : Op) : State :=
  if o.phase = .waiting && o.failed.isNone && !barred s.fe.ops o && (!dFencePre o.desc || earlierDone s.fe.ops o) &&
      gateOpen s o && !stageHeld s o then
    let s := enterRunning s o
    if dAcquire o.desc then acquire s o.tenant else s
  else s

/-- Let every operation enter Running that can. -/
def promote (s : State) : State := s.fe.ops.foldl promoteOne s

/-- Whether a WAIT's condition holds on a value (R153). -/
def waitHolds (o : Op) (v : DWord) : Bool :=
  if dField o.desc 26 1 = 0 then decide (dField o.desc 32 8 ≤ v.toNat) else decide (v.toNat = dField o.desc 32 8)

/-- Mark the WAITs that a change of a sync object satisfies. -/
def markWaits (s : State) (id : Nat) (v : DWord) : State :=
  { s with fe := { s.fe with ops := s.fe.ops.map fun o =>
      if o.phase = .running && o.started && dOpcode o.desc = opWait && dField o.desc 24 2 = id && o.met.isNone && waitHolds o v
      then { o with met := some v } else o } }

/-- One change of a sync object, at which waiters and gates re-evaluate (R152, R153). -/
def syncSet (s : State) (id : Nat) (v : DWord) : State :=
  promote (markWaits { s with syncs := nmSet s.syncs id v } id v)

/-- A signal: an addition modulo 2^64. -/
def syncAdd (s : State) (id : Nat) (v : DWord) : State := syncSet s id (syncGet s id + v)

/-- What a command's work ends with. -/
structure Res where
  status : Status
  res0   : Word := 0
  res1   : DWord := 0
  counts : Counts := countsZero
  empty  : Bool := false
  signal : Bool := true      -- false: the signal of SIG is not this package's (R776)
  signalled : Bool := false  -- a remote signal has landed

/-- Success with no results. -/
def resOk : Res := { status := stOk }

/-- A status and nothing else. -/
def resSt (st : Status) : Res := { status := st }

/-- Add counts to a tenant's totals (R334). -/
def addTotals (s : State) (t : BitVec 4) (c : Counts) : State :=
  if c = countsZero then s
  else { s with units := { s.units with totals := nmSet s.units.totals t.toNat (totalsAdd (nmGet countsZero s.units.totals t.toNat) c) } }

/-- Whether an operation's end signals its SIG_SYNC here: SIG, a status that signals, no destination on another package (R776), and an object of its own
tenant (Table 8, R151). -/
def signalsHere (s : State) (o : Op) (r : Res) : Bool :=
  dSig o.desc && (r.status = stOk || dSigAny o.desc) && r.signal && !farDst s.cfg.live o.desc && planeSyncOwner s.cfg.live (dSigSync o.desc) = o.tenant

/-- Whether a queue's completion ring has room (R128). -/
def cqRoom (s : State) (q : Nat) : Bool :=
  let c := nmGet qZero s.fe.counts q
  decide ((c.t - c.c).toNat < (planeQueue s.cfg.live q).cqEntries.toNat)

/-- Change a queue's counts. -/
def updQ (s : State) (q : Nat) (f : QCounts → QCounts) : State :=
  { s with fe := { s.fe with counts := nmSet s.fe.counts q (f (nmGet qZero s.fe.counts q)) } }

/-- A record that finds no room waits, and EV_CQ_FULL is raised once per stall (R128). -/
def stallCheck (s : State) (o : Op) : State :=
  if !cqRoom s o.queue && !(nmGet qZero s.fe.counts o.queue).cqStall then
    raiseEventFree (updQ s o.queue fun c => { c with cqStall := true }) o.tenant.toNat evCqFull (BitVec.ofNat 64 o.queue) o.handle
  else s

/-- LAST_ST follows each CFG_STAGE and CFG_COMMIT (Table 12 of *The Limbelia image*). -/
def noteCfg (s : State) (o : Op) (st : Status) : State :=
  if dOpcode o.desc = opCfgStage || dOpcode o.desc = opCfgCommit then { s with cfg := { s.cfg with lastSt := st } } else s

/-- An operation is Done: its status and results are final, its signal is applied after them (R145), and under QUIET with
ST_OK it retires without a record (Table 13). -/
def finishOp (s : State) (o : Op) (r : Res) : State :=
  let sig := signalsHere s o r
  let quiet := dQuiet o.desc && r.status = stOk
  let s := updOp s o.handle fun x => { x with
    phase := if quiet then .retired else .done, status := r.status, res0 := r.res0, res1 := r.res1, counts := r.counts
    empty := r.empty, signalled := sig || r.signalled }
  let s := noteCfg (addTotals s o.tenant r.counts) o r.status
  let s := if sig then syncAdd s (dSigSync o.desc) (BitVec.ofNat 64 (dSigAdd o.desc)) else promote s
  if quiet then s else stallCheck s o

/-- What a command that ends before its work reports in the result fields: a PLAN_RUN that its outcome was not reached, a DRAW of no
values its 0xFFFF_FFFF (Table 16). A PLAN_RUN's clipping-factor field is then 0 (DESIGN CHOICE, log 129). -/
def failRes (o : Op) (st : Status) : Res :=
  if dOpcode o.desc = opPlanRun then
    { status := st, res0 := 3, res1 := BitVec.ofNat 64 (dStepNo o.desc % 2 ^ 32 * 2 ^ 32) }
  else if dOpcode o.desc = opDraw && dCount o.desc = 0 then { status := st, res0 := 0xFFFFFFFF }
  else { status := st }

/-- The end that an operation has reached without a command of its own: a failed check once its barriers let it leave
Waiting (R142), a WAIT whose condition held, a FENCE whose earlier commands are Done (R146). -/
def dueEnd (s : State) (o : Op) : Option Res :=
  if o.phase = .waiting then
    match o.failed with
    | some st => if barred s.fe.ops o then none else some (failRes o st)
    | none => none
  else if o.phase = .running && o.started then
    if dOpcode o.desc = opWait then o.met.map fun v => { status := stOk, res1 := v }
    else if dOpcode o.desc = opFence then
      if (if dField o.desc 24 1 = 1 then tenantDone s.fe.ops o else earlierDone s.fe.ops o) then some resOk else none
    else none
  else none

/-- A failed check of a command whose destination lies on another package signals there under SIG_ANY (R142, R776): the command
stays Running until its zero-length FINAL frame has landed. -/
def failsFar (p : Plane) (o : Op) : Bool := o.phase = .waiting && farDst p o.desc && dSig o.desc && dSigAny o.desc

/-- End the first operation that is due. -/
def endDue (s : State) : Option State :=
  match s.fe.ops.find? fun o => (dueEnd s o).isSome with
  | none => none
  | some o =>
    match dueEnd s o with
    | none => none
    | some r =>
      if failsFar s.cfg.live o then
        some (updOp s o.handle fun x => { x with phase := .running, started := true, remote := 1, status := r.status })
      else
        let s := if dOpcode o.desc = opWait && r.status = stOk && dBits o.desc 27 0 1 = 1 then acquire s o.tenant else s
        some (finishOp s o r)

/-- End operations until none is due. -/
def settleGo : Nat → State → State
  | 0, s => s
  | n + 1, s => match endDue s with | none => s | some s' => settleGo n s'

/-- Let every consequence of a change play out. -/
def settle (s : State) : State := settleGo (s.fe.ops.length + 1) (promote s)

/-- Finish an operation and let every consequence play out. -/
def complete (s : State) (o : Op) (r : Res) : State := settle (finishOp s o r)

/-- How far a command gets when it is tried. -/
inductive Outcome where
  | wait                        -- it cannot act yet and stays Running
  | again (s : State)           -- it has left a request behind and is to be tried again
  | sensed (s : State)          -- it cannot act yet, and what its reads have found is kept
  | go (s : State)              -- it has acted and stays Running
  | done (s : State) (r : Res)  -- it is complete

end Sys2Proof.Machine
end

