-- ==== Sys2Proof/Machine/Hazel.lean ====
section
/-! DEFINITION. Hazel ports, frames, coordinates and routes, source streams, the data a command sends to another package, and the
command of a descriptor, which ends once its frames have landed (*Hazel fabric and memory-side collectives*). -/

namespace Sys2Proof.Machine

/-! ### Ports -/

/-- A port's state. -/
def portOf (s : State) (p : Nat) : HzPort := nmGet hzDown s.hz.ports p

/-- Change a port. -/
def updPort (s : State) (p : Nat) (f : HzPort → HzPort) : State :=
  { s with hz := { s.hz with ports := nmSet s.hz.ports p (f (portOf s p)) } }

/-- Increment a 32-bit saturating counter. -/
def satInc (w : Word) : Word := if w = BitVec.allOnes 32 then w else w + 1

/-- Credits a frame needs on its channel (R347). -/
def creditsOf (f : Frame) : Nat := (f.payload.length + 64 + 255) / 256

/-- Credits of a virtual channel's buffer (Table 4). -/
def vcCredits (vc : Nat) : Nat := if vc = 0 then 1024 else if vc = 1 then 128 else 384

/-- Whether a port holds the credits for a frame; VC 4 needs none. -/
def hasCredit (p : HzPort) (f : Frame) : Bool := 3 < f.vc.toNat || decide (creditsOf f ≤ nmGet 0 p.credits f.vc.toNat)

/-- The index of the frame that heads a channel of a port, where the port holds its credits. -/
def headOf (p : HzPort) (vc : Nat) : Option Nat :=
  match p.sendq.findIdx? fun f => f.vc.toNat = vc with
  | none => none
  | some i => match p.sendq[i]? with
    | some f => if hasCredit p f then some i else none
    | none => none

/-- The index of the next frame a port sends: VC 1 first; the other channels take turns, frame by frame (R348). -/
def nextFrame (p : HzPort) : Option Nat :=
  match headOf p 1 with
  | some i => some i
  | none => (List.range 5).findSome? fun k => if (p.lastVc + 1 + k) % 5 = 1 then none else headOf p ((p.lastVc + 1 + k) % 5)

/-! ### The frame as the link carries it (R345, Table 2) -/

/-- Header bytes 0 to 59. -/
def frameHeader (f : Frame) : List Byte :=
  [f.type, f.flags] ++ leBytes 2 f.payload.length ++ leBytes 2 f.src.toNat ++ leBytes 2 f.dst.toNat ++ leBytes 8 f.spid.toNat ++
  leBytes 4 f.plan.toNat ++ leBytes 4 f.step.toNat ++ [f.attempt, BitVec.ofNat 8 (f.tenant.toNat + f.vc.toNat * 16)] ++
  leBytes 2 f.group.toNat ++ leBytes 4 f.pticket.toNat ++ leBytes 8 f.addr.toNat ++ leBytes 4 f.sigAdd.toNat ++ leBytes 4 f.stream.toNat ++
  leBytes 4 f.prior.toNat ++ leBytes 4 f.aux.toNat ++ leBytes 4 (f.cretVc.toNat + f.cret.toNat * 16)

/-- The CRC of a frame: over header bytes 0 to 59 and then the payload. -/
def frameCrc (f : Frame) : Word := crc32 (frameHeader f ++ f.payload)

/-- A frame with its CRC. -/
def sealFrame (f : Frame) : Frame := { f with crc := frameCrc f }

/-- The bytes of a frame on the link. -/
def frameBytes (f : Frame) : List Byte := frameHeader f ++ leBytes 4 f.crc.toNat ++ f.payload

/-- Whether what has arrived is a frame: its payload has a length that LEN can state, and its CRC matches (R344, R345). -/
def frameGood (f : Frame) : Bool := decide (f.payload.length ≤ 16384) && f.crc = frameCrc f

/-- Send what a port's credits allow. -/
def drainGo (port : Nat) : Nat → State → State
  | 0, s => s
  | n + 1, s =>
    let p := portOf s port
    if !p.up then s else
    match nextFrame p with
    | none => s
    | some i =>
      match p.sendq[i]? with
      | none => s
      | some f =>
        let vc := f.vc.toNat
        let s := updPort s port fun p => { p with
          sendq := p.sendq.eraseIdx i
          unacked := if vc ≤ 3 then p.unacked ++ [f] else p.unacked
          lastVc := if vc = 1 then p.lastVc else vc
          credits := if vc ≤ 3 then nmSet p.credits vc (nmGet 0 p.credits vc - creditsOf f) else p.credits }
        drainGo port n { s with hz := { s.hz with out := s.hz.out ++ [(port, sealFrame f)] } }

/-- Send what can be sent. -/
def drain (s : State) (port : Nat) : State := drainGo port (portOf s port).sendq.length s

/-- Queue a frame on a port and send what can be sent. -/
def sendOn (s : State) (port : Nat) (f : Frame) : State :=
  drain (updPort s port fun p => { p with sendq := p.sendq ++ [f] }) port

/-- Ports in service. -/
def portsUp (s : State) : List Nat := (List.range 18).filter fun p => (portOf s p).up

/-- Remove the oldest unacknowledged frames of a channel that the returned credits cover. -/
def ackFrames (vc : Nat) : Nat → List Frame → List Frame
  | _, [] => []
  | k, f :: l => if f.vc.toNat = vc && decide (creditsOf f ≤ k) then ackFrames vc (k - creditsOf f) l else f :: ackFrames vc k l

/-- Credits come back on a channel of a port (R347). -/
def creditReturn (s : State) (port vc n : Nat) : State :=
  if n = 0 || 3 < vc then s else
  drain (updPort s port fun p => { p with
    credits := nmSet p.credits vc (min (vcCredits vc) (nmGet 0 p.credits vc + n)), unacked := ackFrames vc n p.unacked }) port

/-! ### Frames -/

/-- A frame with every field that a type does not use at 0; its stream names no group. -/
def frameBlank (s : State) (type : Nat) (dst : BitVec 13) : Frame :=
  { type := BitVec.ofNat 8 type, flags := 0, src := s.cfg.live.package, dst := dst, spid := s.cfg.live.spid
    plan := BitVec.allOnes 32, step := 0, attempt := 0, tenant := 0, vc := 2, group := 0, pticket := 0, addr := 0
    sigAdd := 0, stream := 0x80000000, prior := 0, aux := 0, cretVc := 0, cret := 0, crc := 0, payload := [] }

def fFinal (f : Frame) : Bool := f.flags.getLsbD 0
def fInactive (f : Frame) : Bool := f.flags.getLsbD 1
def fSpec (f : Frame) : Bool := f.flags.getLsbD 2
def fCut (f : Frame) : Bool := f.flags.getLsbD 3
def fCmd (f : Frame) : Bool := f.flags.getLsbD 4

/-- A stream number that names no group (R776): bit 31 is set (DESIGN CHOICE, log 37). -/
def noGroup (stream : Word) : Bool := stream.getLsbD 31

/-- Return the credits of a received frame in a CREDIT frame (R347). -/
def creditBack (s : State) (port : Nat) (f : Frame) : State :=
  if 3 < f.vc.toNat then s
  else sendOn s port { frameBlank s 0x0F (portOf s port).peer with vc := 4, cretVc := f.vc, cret := BitVec.ofNat 16 (creditsOf f) }

/-! ### Coordinates and routes (R349, R355) -/

/-- Size of a dimension. -/
def dimSize (p : Plane) (d : Nat) : Nat := ((p.system.dims[d]?).map (·.1)).getD 1

/-- Coordinate of a package in a dimension. -/
def coordOf (p : Plane) (pkg d : Nat) : Nat :=
  pkg / ((List.range d).foldl (fun acc e => acc * dimSize p e) 1) % dimSize p d

/-- Ring pairs of a dimension. -/
def ringSet (p : Plane) (d : Nat) : List Nat := (List.range 9).filter fun n => (p.system.ringDim[n]?.getD none) = some d

/-- The dimension a routed frame crosses next, none when it has arrived. -/
def nextDim (p : Plane) (me dst : Nat) : Option Nat := (List.range 3).find? fun d => coordOf p me d ≠ coordOf p dst d

/-- Whether the shorter way from position `a` to `b` of a ring of `n` is the + way; equal ways take it too. -/
def plusWay (n a b : Nat) : Bool := decide (2 * ((b + n - a) % n) ≤ n)

/-- Port of a ring pair in a direction (R340). -/
def portFor (pair : Nat) (plus : Bool) : Nat := if plus then 2 * pair else 2 * pair + 1

/-- Ring pairs in service on the link of a dimension and direction. -/
def pairsUp (s : State) (d : Nat) (plus : Bool) : List Nat :=
  (ringSet s.cfg.live d).filter fun n => (portOf s (portFor n plus)).up

/-- The port and channel on which a routed frame leaves; with no port in service on its way it waits at the first of the ring set
(R349, R357). -/
def routeOf (s : State) (f : Frame) (from_ : Option Nat) : Option (Nat × BitVec 4) :=
  let p := s.cfg.live
  let me := p.package.toNat
  match nextDim p me f.dst.toNat with
  | none => none
  | some d =>
    let n := dimSize p d
    let a := coordOf p me d
    let plus := plusWay n a (coordOf p f.dst.toNat d)
    let up := pairsUp s d plus
    let pairs := if up.isEmpty then (ringSet p d).take 1 else up
    match pairs[(f.src.toNat + f.dst.toNat + f.stream.toNat) % max 1 pairs.length]? with
    | none => none
    | some pr =>
      let wraps := if plus then a + 1 = n else a = 0
      let same := match from_ with | some q => decide ((p.system.ringDim[q / 2]?.getD none) = some d) | none => false
      some (portFor pr plus, if wraps then 3 else if same then f.vc else 2)

/-- Send a routed frame. -/
def sendRouted (s : State) (f : Frame) (from_ : Option Nat) : State :=
  match routeOf s f from_ with
  | some (port, vc) => sendOn s port { f with vc := vc }
  | none => s

/-- Whether a frame in transit can be sent on at once: its channel of the next port is idle, and has credit for it (R347, Table 4). -/
def canForward (s : State) (f : Frame) (from_ : Option Nat) : Bool :=
  match routeOf s f from_ with
  | some (port, vc) => (portOf s port).up && hasCredit (portOf s port) { f with vc := vc } && !((portOf s port).sendq.any fun g => g.vc = vc)
  | none => true

/-- Take the next source-stream number. -/
def takeStream (s : State) (named : Bool) : State × Word :=
  let n := s.hz.nextStream
  ({ s with hz := { s.hz with nextStream := if n + 1 = 0x80000000#32 then 0 else n + 1 } },
   if named then n else n ||| 0x80000000#32)

/-- WRITE frames of one source stream: the data from `a` on in frames of up to 16,384 B (R776). -/
def writeFrames (base : Frame) : List (List Byte) → Nat → List Frame
  | [], _ => []
  | c :: cs, a => { base with addr := BitVec.ofNat 44 a, payload := c } :: writeFrames base cs (a + c.length)

/-- Give the last frame the FINAL flag, with the number of frames before it. -/
def withFinal (sig : Word) (l : List Frame) : List Frame :=
  (List.zipIdx l).map fun x =>
    if x.2 + 1 = l.length then { x.1 with flags := x.1.flags ||| 1, sigAdd := sig, prior := BitVec.ofNat 32 x.2 } else x.1

/-- A zero-length FINAL frame of a stream, after some number of other frames (R776). -/
def finalFrame (base : Frame) (o : Op) (a prior : Nat) : Frame :=
  { base with flags := 1, addr := BitVec.ofNat 44 a, sigAdd := BitVec.ofNat 32 (dSigAdd o.desc), prior := BitVec.ofNat 32 prior }

/-- The fields that all frames of a command's stream share. Under SIG they name SIG_SYNC as their group (R776). -/
def streamBase (s : State) (o : Op) (dst : BitVec 13) (stream : Word) : Frame :=
  { frameBlank s 0x01 dst with
    tenant := o.tenant, stream := stream, group := if dSig o.desc then BitVec.ofNat 14 (dSigSync o.desc) else 0 }

/-- Whether an end with a status signals on the destination package (R776). -/
def finalSent (o : Op) (st : Status) : Bool :=
  dSig o.desc && (st = stOk || (dSigAny o.desc && st ≠ stAborted && st ≠ stDropped))

/-- Send the data of a command to another package (R776), each piece to its address: FINAL on the last frame when the status signals,
and a zero-length FINAL after the data when only SIG_ANY makes it signal. -/
def sendPieces (s : State) (o : Op) (dst : BitVec 13) (l : List (Nat × List Byte)) (st : Status) : State × Nat :=
  let (s, stream) := takeStream s (dSig o.desc)
  let base := streamBase s o dst stream
  let body := l.flatMap fun x => writeFrames base (chunks 16384 x.2) x.1
  let a := match l with | x :: _ => x.1 | [] => 0
  let frames := if !finalSent o st then body
    else if st = stOk && !body.isEmpty then withFinal (BitVec.ofNat 32 (dSigAdd o.desc)) body
    else body ++ [finalFrame base o a body.length]
  let s := updOp s o.handle fun x => { x with
    stream := stream.toNat, signalled := finalSent o st, last := finalSent o st && (st ≠ stOk || body.isEmpty) }
  (frames.foldl (fun s f => sendRouted s f none) s, frames.length)

/-- Send one run of data. -/
def sendData (s : State) (o : Op) (dst : BitVec 13) (a : Nat) (data : List Byte) (st : Status) : State × Nat :=
  sendPieces s o dst [(a, data)] st

/-- The bytes of a STATUS frame's payload: the code, the FLAGS of the frame reported on, the stream and the address (DESIGN CHOICE,
log 38). -/
def statusPayload (st : Status) (flags : Byte) (stream : Word) (addr : BitVec 44) : List Byte :=
  leBytes 2 st.toNat ++ leBytes 2 flags.toNat ++ leBytes 4 stream.toNat ++ leBytes 8 addr.toNat

/-- Report a refused frame, or an unwritten or poisoned read, to the source (R350, R354). -/
def sendStatus (s : State) (f : Frame) (st : Status) : State :=
  sendRouted s { frameBlank s 0x0B f.src with
    tenant := f.tenant, stream := f.stream, addr := f.addr, payload := statusPayload st f.flags f.stream f.addr } none

/-! ### The command of a descriptor -/

/-- What an operation whose frames are on their way will report once they have landed: SIG names an object of the other
package for a data command (R776), and one of this package for a SIGNAL. -/
def landedRes (o : Op) : Res :=
  let far := decide (dOpcode o.desc ≠ opSignal)
  { status := o.status, res0 := o.res0, res1 := o.res1, counts := o.counts, empty := o.empty, signal := !far
    signalled := far && o.signalled }

/-- Leave an operation Running until its remote frames have landed (R145, R776). -/
def awaitLanding (s : State) (h : Word) (frames : Nat) (r : Res) : State :=
  updOp s h fun x => { x with
    remote := frames, status := r.status, res0 := r.res0, res1 := r.res1, counts := r.counts, empty := r.empty }

/-- Whether an end with an error still owes the other package the signal of SIG_ANY: no FINAL frame of the command has landed there,
and it has sent no zero-length one (R776; log 124). -/
def finalOwed (s : State) (o : Op) (r : Res) : Bool :=
  farDst s.cfg.live o.desc && r.status ≠ stOk && finalSent o r.status && !r.signalled && !o.last

/-- Send the zero-length FINAL frame of a command after its other frames have landed, as a stream of its own (R776; log 124). -/
def sendFinal (s : State) (o : Op) : State :=
  match sysAddr s.cfg.live (dDst o.desc) with
  | .there pkg a =>
    let (s, stream) := takeStream s true
    let s := updOp s o.handle fun x => { x with stream := stream.toNat, signalled := true, last := true }
    sendRouted s (finalFrame (streamBase s o pkg stream) o a 0) none
  | _ => s

/-- End a command, after its signal on another package under SIG_ANY where it still owes one (R776). -/
def endAway (s : State) (o : Op) (r : Res) : State :=
  if finalOwed s o r then settle (sendFinal (awaitLanding s o.handle 1 r) o) else complete s o r

/-- The command of a descriptor of opcode `c`: a Running operation of that opcode is tried. One that cannot act yet stays
as it is, but for the lock requests that it has left behind and what its reads have found, and the same command tries it again later. For an operation whose remote frames are outstanding the command is the
notice that all have landed (log 36). Any other handle, or an operation that still waits, changes nothing. -/
def runCommand (c : Nat) (f : State → Op → Outcome) (h : Word) (s : State) : State :=
  match findOp s h with
  | none => s
  | some o =>
    if dOpcode o.desc = c && o.phase = .running then
      if !o.started then
        match f (updOp s h fun x => { x with started := true }) { o with started := true } with
        | .wait => s
        | .again s' => settle (updOp { s with step := s'.step } h fun x => { x with started := false })
        | .sensed s' => updOp s' h fun x => { x with started := false }
        | .go s' => settle s'
        | .done s' r => endAway s' o r
      else if 0 < o.remote && !o.pull then endAway s o (landedRes o)
      else s
    else s

end Sys2Proof.Machine
end

