-- ==== Sys2Proof/Machine/Checks.lean ====
section
/-! DEFINITION. The checks made before a command starts (R142), in the order of the status codes 0x0001 to 0x000C. -/

namespace Sys2Proof.Machine

/-! ### Accumulator and relay tiles -/

/-- A run of accumulator or relay tiles: base, tiles, format, saturating mode, tenant, elements that are not padding, and the
shard it belongs to. -/
structure TileRun where
  base   : Nat
  tiles  : Nat
  fmt    : Nat
  sat    : Bool
  tenant : BitVec 4
  elems  : Nat
  shard  : Option Nat
deriving DecidableEq, Repr

/-- The runs of tiles of a plane: each shard's accumulator, then each relay region (R220, R361). -/
def tileRuns (p : Plane) : List TileRun :=
  (p.shards.map fun e => ⟨e.2.accBase, tileCount e.2, e.2.accFmt, e.2.accSat, e.2.tenant, e.2.n, some e.1⟩) ++
  (p.dmap.relays.map fun r => ⟨r.base, r.tiles, r.fmt, r.sat, r.tenant, r.tiles * 4096, none⟩)

/-- The run that an address lies in. -/
def tileRunAt (p : Plane) (a : Nat) : Option TileRun :=
  (tileRuns p).find? fun r => decide (r.base ≤ a) && decide (a < r.base + r.tiles * accTileBytes r.fmt)

/-- Addresses of `n` tiles that follow one another in memory. -/
def regionAddrs (p : Plane) : Nat → Nat → List Nat
  | 0, _ => []
  | n + 1, a => a :: regionAddrs p n (a + accTileBytes ((tileRunAt p a).elim 0 fun r => r.fmt))

/-- First element that an ACCUM covers, counted from its run's base, where DST names an element of the run. -/
def accumFirst (r : TileRun) (a : Nat) : Option Nat :=
  if (a - r.base) % accElemBytes r.fmt = 0 then some ((a - r.base) / accElemBytes r.fmt) else none

/-! ### Operands that a command names -/

/-- One range an operand covers. -/
structure Access where
  space : Nat
  addr  : Nat
  len   : Nat
  wr    : Bool
deriving DecidableEq, Repr

/-- Pages of an activation stream of `count` elements (R514). -/
def actPages (fmt count : Nat) : Nat := (operandBytes fmt count + 4095) / 4096

/-- Bytes of the page table of a stream. -/
def actTable (pages : Nat) : Nat := 32 * ((2 * pages + 31) / 32)

/-- The bound of an ACT_STORE (R517). -/
def actBound (fmt count : Nat) : Nat := let p := actPages fmt count; 64 + actTable p + 4096 * p

/-- Bytes of a shard's narrow tiles with their header (R222). -/
def narrowBytes (p : Plane) (c : ShardCfg) : Nat := 64 + tileCount c * narrowTileBytes (narrowFmt p c)

/-- Data bytes of a snapshot of a shard (R520). -/
def snapBytes (p : Plane) (c : ShardCfg) (what dfmt : Nat) : Nat :=
  if what = 2 then narrowBytes p c else operandBytes dfmt c.n

/-- Whether SNAPSHOT refuses a shard (R521): the status it would give. -/
def snapRefuses (c : ShardCfg) (what dfmt : Nat) : Option Status :=
  if (what = 1 && (c.fields.getLsbD 4 = false)) || (what ≠ 0 && c.intKind) || 2 < what then some stBadField
  else if what ≤ 1 && ((c.intKind && dfmt ≠ 0x21) || (!c.intKind && !fmtFloat dfmt)) then some stBadFmt
  else none

/-- The shards of a tenant, in ascending number. -/
def tenantShards (p : Plane) (t : BitVec 4) : List (Nat × ShardCfg) := p.shards.filter fun e => e.2.tenant = t

/-- The shards a command names: one of the tenant's own, or every one (Table 11). -/
def namedShards (p : Plane) (t : BitVec 4) (n : Nat) : List (Nat × ShardCfg) :=
  if n = allShards then tenantShards p t else (tenantShards p t).filter fun e => e.1 = n

/-- End of the snapshots laid from an address, one after another at 4 KiB steps (R522). -/
def snapEnd (p : Plane) (what dfmt : Nat) : List (Nat × ShardCfg) → Nat → Nat → Nat
  | [], _, last => last
  | e :: l, a, _ => let fin := a + 64 + snapBytes p e.2 what dfmt; snapEnd p what dfmt l ((fin + 4095) / 4096 * 4096) fin

/-- Shards a SNAPSHOT writes. -/
def snapShards (p : Plane) (o : Op) : List (Nat × ShardCfg) :=
  (namedShards p o.tenant (dShard o.desc)).filter fun e => (snapRefuses e.2 (dField o.desc 28 1) (dDfmt o.desc)).isNone

/-- Bytes from DST to the end of the last snapshot. -/
def snapLength (p : Plane) (o : Op) : Nat := snapEnd p (dField o.desc 28 1) (dDfmt o.desc) (snapShards p o) 0 0

/-- The ranges of D-space and S-space that a command reads and writes; none for an empty command. -/
def accessesOf (p : Plane) (o : Op) : List Access :=
  let d := o.desc
  let src := fun n => Access.mk (dSrcSpace d) (dSrc d) n false
  let dst := fun n => Access.mk (dDstSpace d) (dDst d) n true
  let cnt := dCount d
  if dEmpty d then [] else
  match dOpcode d with
  | 0x10 => [src cnt, dst cnt]
  | 0x11 => [src (operandBytes (dSfmt d) cnt), dst (operandBytes (dDfmt d) cnt)]
  | 0x12 => [src (operandBytes (dSfmt d) cnt)]
  | 0x13 => [dst (operandBytes (dDfmt d) cnt)]
  | 0x20 => if dSrcSpace d = 3 then [] else [src (operandBytes (dSfmt d) cnt)]
  | 0x21 => []
  | 0x22 => [src (cnt / 4096 * narrowTileBytes (dSfmt d)), dst (cnt / 4096 * narrowTileBytes (dSfmt d))]
  | 0x23 => [src (operandBytes (dSfmt d) cnt)]
  | 0x49 => if dDstSpace d = 0 then [dst cnt] else []
  | 0x50 => [src cnt]
  | 0x51 => [dst cnt]
  | 0x58 => if snapShards p o = [] then [] else [dst (snapLength p o)]
  | 0x59 => [src (operandBytes (dSfmt d) cnt), dst (dField d 56 8)]
  | 0x5A => [src (dField d 56 8), dst (operandBytes (dDfmt d) cnt)]
  | 0x60 => [dst (operandBytes (dDfmt d) cnt)]
  | 0x61 => [src (4 * cnt)]
  | 0x70 => [dst cnt]
  | 0x71 => [src cnt]
  | 0x78 => [src cnt]
  | _ => []

/-- Whether an access lies in the tenant's partition (R587, R588); only the control tenant's COPY, CONVERT and ZERO write a
shared region (R559). -/
def accessBounds (s : State) (o : Op) (x : Access) : Bool :=
  if x.space = 0 then
    match sysAddr s.cfg.live x.addr with
    | .here a =>
      let own := if x.wr || dOpcode o.desc = opMigrate then dOwned s o.tenant a x.len && (!meetsShared s a x.len ||
          (o.tenant = s.cfg.live.control && [opCopy, opConvert, opZero].contains (dOpcode o.desc)))
        else dReadable s o.tenant a x.len
      own || x.len = 0
    | _ => true
  else if x.space = 1 then sOwned s.cfg.live o.tenant x.addr x.len || x.len = 0
  else true

/-- A range whose bytes are all mapped. -/
def accessMapped (s : State) (x : Access) : Bool :=
  x.len = 0 || (if x.space = 0 then
    match sysAddr s.cfg.live x.addr with
    | .here a => dMapped s a x.len
    | .there _ a => decide (a + x.len ≤ 2 ^ 44)
    | .nowhere => false
  else if x.space = 1 then sMapped s.cfg.live x.addr x.len else true)

/-- A start address aligned as R133 states. -/
def accessAligned (x : Access) : Bool :=
  x.len = 0 || (if x.space = 0 then x.addr % 32 = 0 else if x.space = 1 then x.addr % 4 = 0 else true)

/-! ### P-space operands -/

/-- Rows that a transposing copy touches: element positions walk the lanes, banks and channels from the start row (R459). -/
def transposeBanks (a cnt : Nat) : List (Nat × Nat × Nat) :=
  let b0 := a / 2 ^ 15 % 64
  (rangeIncl b0 (b0 + (cnt - 1) / 8192)).map fun b => (a / 2 ^ 27 % 4, a / 2 ^ 21 % 64 + b / 48, b % 48)

/-- The P-space address of a transposing copy. -/
def transposeAddr (d : BitVec 512) : Nat := if dOpcode d = opTransposeIn then dDst d else dSrc d

/-- Whether a transposing copy stays in mapped P-space (R459, R71). -/
def transposeMapped (p : Plane) (d : BitVec 512) : Bool :=
  let a := transposeAddr d
  decide (a < 2 ^ 29) && decide (a / 2 ^ 15 % 64 < 48) && decide (a % 2 ^ 15 + dField d 49 1 ≤ p.dmap.pRows) &&
  (transposeBanks a (dCount d)).all fun x => x.2.1 < 64

/-- Channels that a P-space operand touches; a walk that leaves its stack names no channel past it (R459). -/
def pChannels (d : BitVec 512) : List Nat :=
  if dOpcode d = opZero then [pChannel (dDst d)]
  else if dOpcode d = opPimRun then
    (List.range (dField d 34 1)).map fun k => dField d 32 1 * 64 + dField d 33 1 + k
  else ((transposeBanks (transposeAddr d) (dCount d)).filter fun x => x.2.1 < 64).map fun x => x.1 * 64 + x.2.1

/-- Whether a P-space operand starts at a mapped row; an unmapped one is no channel's (R61, R71). -/
def pStarts (p : Plane) (d : BitVec 512) : Bool :=
  dOpcode d = opPimRun || pMapped p (if dOpcode d = opZero then dDst d else transposeAddr d)

/-- Whether the command has a P-space operand that touches something. -/
def pOperand (d : BitVec 512) : Bool :=
  (dOpcode d = opTransposeIn || dOpcode d = opTransposeOut || (dOpcode d = opZero && dDstSpace d = 2)) && !dEmpty d

/-- Bases, MAXOFFs and used letters of a PIM_RUN (R456, R457). -/
def pimFits (p : Plane) (d : BitVec 512) : Bool :=
  match nmGet? p.pipprogs (dField d 24 4) with
  | none => true
  | some g =>
    let arg := dField d 40 8
    let ok := fun (base maxo : Nat) => maxo = 0 || decide (base + maxo ≤ p.dmap.pRows)
    decide (g.absTop ≤ p.dmap.pRows) && ok (arg % 2 ^ 13) g.maxA && ok (arg / 2 ^ 16 % 2 ^ 13) g.maxB &&
    ok (arg / 2 ^ 32 % 2 ^ 13) g.maxC

/-! ### The checks, by code -/

/-- The fields of RSTREAM (Table 1 of *Random lanes*). -/
def rsMode (r : Nat) : Nat := r / 2 ^ 63
def rsPkg (r : Nat) : Nat := r / 2 ^ 62 % 2
def rsStream (r : Nat) : Nat := r / 2 ^ 39 % 2 ^ 23
def rsOffset (r : Nat) : Nat := r % 2 ^ 39

/-- RSTREAM as R534 and R538 allow it. -/
def rstreamBad (d : BitVec 512) : Bool :=
  let c := dOpcode d
  let r := if c = opConvert then dField d 56 8 else dField d 24 8
  if c = opInitParams then rsMode r ≠ 0 || rsPkg r ≠ 0 || rsStream r ≠ 0
  else if c = opRngFill || c = opDraw || (c = opConvert && dField d 50 1 = 1) then
    (rsPkg r = 1 && rsStream r / 1024 ≠ 0) || (rsMode r = 1 && rsOffset r ≠ 0)
  else false

/-- P0 and P1 as Table 2 of *Random lanes* allows them, presented under R315. -/
def distBad (dist : Nat) (p0 p1 : Word) : Bool :=
  let a := (flush32 p0).w
  let b := (flush32 p1).w
  if dist = 0 then nonFinite32 a || nonFinite32 b || orderKey b ≤ orderKey a || (isZero32 a && isZero32 b)
  else if dist = 1 then nonFinite32 a || nonFinite32 b || (neg32 b && !isZero32 b)
  else if dist = 2 then isNan32 a || (neg32 a && !isZero32 a) || orderKey fpOne < orderKey a
  else true

/-- A WIDTH that R460 does not allow for a format. -/
def widthBad (fmt width : Nat) : Bool :=
  if fmtInt fmt then width = 0 || 64 < width else width ≠ fmtBits fmt

/-- Field values that are undefined, or that the opcode's own rules give ST_BAD_FIELD for. -/
def fieldBad (s : State) (o : Op) : Bool :=
  let p := s.cfg.live
  let d := o.desc
  let wide := fun sp x => (sp = 1 || sp = 2) && decide (2 ^ 32 ≤ x)
  wide (if (allowedSpaces (dOpcode d)).1.isSome then dSrcSpace d else 0) (dSrc d) ||
  wide (if (allowedSpaces (dOpcode d)).2.isSome then dDstSpace d else 0) (dDst d) ||
  rstreamBad d ||
  match dOpcode d with
  | 0x02 => 1 < dField d 28 1 || 16384 ≤ dField d 24 2 ||
      (dBits d 26 15 1 = 1 && dField d 28 1 = 1 && dField d 26 2 % 2 ^ 15 ≠ p.package.toNat)
  | 0x03 => 1 < dField d 26 1 || 16384 ≤ dField d 24 2
  | 0x04 => 1 < dField d 24 1
  | 0x11 => 2 < dField d 50 1 || 1 < dField d 51 1 ||
      ((fmtTl (dSfmt d) || fmtTl (dDfmt d)) && !powerOfTwo32 (BitVec.ofNat 32 (dField d 52 4)))
  | 0x12 => widthBad (dSfmt d) (dField d 49 1) && fmtKnown (dSfmt d) && fmtBlock (dSfmt d) = 0
  | 0x13 => widthBad (dDfmt d) (dField d 49 1) && fmtKnown (dDfmt d) && fmtBlock (dDfmt d) = 0
  | 0x20 =>
    (match sysAddr p (dDst d) with
     | .here a =>
       (match tileRunAt p a with
        | some r => r.tenant ≠ o.tenant ||
          (match accumFirst r a with | some e => r.tiles * 4096 < e + dCount d | none => true)
        | none => true)
     | _ => true) || (dSrcSpace d = 3 && 2 ^ 16 ≤ dSrc d)
  | 0x21 =>
    (match nmGet? p.cplans (dCplan d) with
     | some cp => cp.kind ≠ 1 || (dCount d ≠ 0 && dCount d ≠ cp.tiles * 4096)
     | none => false) || dDst d ≠ dSrc d ||
    (match sysAddr p (dSrc d) with
     | .here a => dCount d ≠ 0 &&
       !(regionAddrs p (dCount d / 4096) a).all fun x =>
         (tileRunAt p x).any fun q => q.tenant = o.tenant && (x - q.base) % accTileBytes q.fmt = 0
     | _ => true)
  | 0x22 =>
    (match nmGet? p.cplans (dCplan d) with
     | some cp => cp.kind ≠ 2 || (dCount d ≠ 0 && dCount d ≠ cp.tiles * 4096)
     | none => false) || farAddr p (dSrc d) || farAddr p (dDst d)
  | 0x23 => dCplan d ≠ allShards && (match nmGet? p.cplans (dCplan d) with | some cp => cp.kind ≠ 3 | none => false)
  | 0x40 => dShard d = allShards || 1 < dField d 28 1
  | 0x41 => dField d 32 2 = p.package.toNat ||
      (match nmGet? p.shards (dShard d) with
       | some c => !c.members.any fun m => m.toNat = dField d 32 2
       | none => false)
  | 0x48 => (dField d 40 8) &&& (2 ^ 64 - 1 - 0x1FFF_1FFF_1FFF) ≠ 0 || 2 ^ 49 ≤ dField d 48 8
  | 0x50 => 1 < dField d 48 1
  | 0x51 => 2 < dField d 48 1
  | 0x58 => 2 < dField d 28 1 || (dShard d ≠ allShards &&
      (match (namedShards p o.tenant (dShard d)).head? with
       | some e => snapRefuses e.2 (dField d 28 1) (dDfmt d) = some stBadField
       | none => false))
  | 0x59 => 1 < dField d 50 1
  | 0x60 => distBad (dField d 48 1) (BitVec.ofNat 32 (dField d 52 4)) (BitVec.ofNat 32 (dField d 56 4))
  | 0x62 => distBad 1 (BitVec.ofNat 32 (dField d 48 4)) (BitVec.ofNat 32 (dField d 52 4))
  | 0x68 => 63 < dField d 24 1
  | 0x69 => 63 < dField d 24 1 || 1 < dField d 25 1
  | _ => false

/-- Regions that MIGRATE may not move (R496). -/
def migrateBadSpace (s : State) (o : Op) : Bool :=
  dOpcode o.desc = opMigrate && dCount o.desc ≠ 0 &&
  (match localAddr s.cfg.live (dSrc o.desc) with
   | some a => meetsStore s a (dCount o.desc) ||
       (tileRuns s.cfg.live).any (fun r => meets a (dCount o.desc) r.base (r.tiles * accTileBytes r.fmt)) ||
       s.cfg.live.dmap.gathers.any (fun g => meets a (dCount o.desc) g.copy0 g.bytes ||
         (match g.copy1 with | some c => meets a (dCount o.desc) c g.bytes | none => false))
   | none => false)

/-- Format codes that the opcode does not allow. -/
def formatBad (s : State) (o : Op) : Bool :=
  let p := s.cfg.live
  let d := o.desc
  match dOpcode d with
  | 0x11 => !fmtKnown (dSfmt d) || !fmtKnown (dDfmt d)
  | 0x12 => !fmtKnown (dSfmt d) || fmtBlock (dSfmt d) ≠ 0
  | 0x13 => !fmtKnown (dDfmt d) || fmtBlock (dDfmt d) ≠ 0
  | 0x20 =>
    match (localAddr p (dDst d)).bind (tileRunAt p) with
    | some r => if r.fmt = 0 then !fmtLong (dSfmt d) else !(dSfmt d = 0x20 || dSfmt d = 0x21)
    | none => !fmtKnown (dSfmt d)
  | 0x21 =>
    match localAddr p (dSrc d) with
    | some a => ((regionAddrs p (max 1 (dCount d / 4096)) a).any fun x => (tileRunAt p x).any fun q => dSfmt d ≠ q.fmt) ||
        ((tileRunAt p a).isNone && !fmtKnown (dSfmt d))
    | none => !fmtKnown (dSfmt d)
  | 0x22 => !fmtFloat (dSfmt d) || dSfmt d = 0
  | 0x23 => !fmtFloat (dSfmt d)
  | 0x58 => dShard d ≠ allShards &&
      (match (namedShards p o.tenant (dShard d)).head? with
       | some e => snapRefuses e.2 (dField d 28 1) (dDfmt d) = some stBadFmt
       | none => dField d 28 1 ≤ 1 && !fmtKnown (dDfmt d))
  | 0x59 => !fmtKnown (dSfmt d) || !fmtKnown (dDfmt d)
  | 0x5A => !fmtKnown (dSfmt d) || !fmtKnown (dDfmt d)
  | 0x60 => !fmtKnown (dDfmt d)
  | _ => false

/-- Zero sizes where a size is required (Table 17). -/
def lenBad (d : BitVec 512) : Bool :=
  (dOpcode d = opTxgBegin && dField d 32 4 = 0) || (dOpcode d = opCfgStage && dCount d = 0)

/-- Queues of a tenant. -/
def tenantQueues (p : Plane) (t : BitVec 4) : List Nat := (p.queues.filter fun e => e.2.en && e.2.tenant = t).map (·.1)

/-- Sync objects of a tenant. -/
def tenantSyncs (p : Plane) (t : BitVec 4) : List Nat := (List.range 16384).filter fun i => planeSyncOwner p i = t

/-- UEs of a tenant. -/
def tenantUes (p : Plane) (t : BitVec 4) : List Nat := (List.range 320).filter fun u => (planeTenant p t.toNat).ueOwn.getLsbD u

/-- Step plans of a tenant. -/
def tenantPlans (p : Plane) (t : BitVec 4) : List Nat := (p.stepplans.filter fun e => e.2.tenant = t).map (·.1)

/-- Round up to 4 KiB. -/
def upto4k (n : Nat) : Nat := (n + 4095) / 4096 * 4096

/-- Context size of a tenant (Table 4 of *Tenants and contexts*). -/
def ctxBytes (p : Plane) (t : BitVec 4) : Nat :=
  upto4k 256 + upto4k (32 * (tenantQueues p t).length) + upto4k (16 * (tenantSyncs p t).length) +
  upto4k (32 * (tenantShards p t).length) + upto4k (16 * (tenantPlans p t).length) +
  ((tenantUes p t).map fun u => 0x80000 + stagingOf p u).sum

/-- Move units of a range that do not already lie in a tier, the moves of earlier commands taken as done (R495, R499: the last command
decides). -/
def unitsToMove (s : State) (a n tier : Nat) : List Nat := (blocksOf 65536 a n).filter fun u => unitTier s u ≠ tier

/-- Frames of a pool that no unit takes, in pool order (R491, R495). -/
def freeFrames (s : State) (tier : Nat) : List Nat :=
  let regions := if tier = 0 then s.cfg.live.dmap.fastPool else s.cfg.live.dmap.capPool
  (regions.flatMap fun r => (List.range 16384).map fun k => r * 2 ^ 30 + k * 65536).filter fun f =>
    !(s.units.tier.placed.any fun e => e.2 = f) && !(s.units.tier.moves.any fun c => c.2.1 = f)

/-- Units of a range that must take a pool frame to move into a tier. -/
def unitsNeedFrame (s : State) (a n tier : Nat) : List Nat :=
  (unitsToMove s a n tier).filter fun u => frameTier (u * 65536) ≠ tier

/-- Sizes, counts and indexes above their limits (R163, Table 17, R457, R496, R543). -/
def limitBad (s : State) (o : Op) : Bool :=
  let p := s.cfg.live
  let d := o.desc
  let noShard := dShard d ≠ allShards && (nmGet? p.shards (dShard d)).isNone
  match dOpcode d with
  | 0x01 => (nmGet? p.stepplans (dField d 24 4)).isNone
  | 0x21 => (nmGet? p.cplans (dCplan d)).isNone
  | 0x22 => (nmGet? p.cplans (dCplan d)).isNone
  | 0x23 => dCplan d ≠ allShards && (nmGet? p.cplans (dCplan d)).isNone
  | 0x30 => noShard
  | 0x31 => noShard
  | 0x32 => noShard
  | 0x33 => noShard
  | 0x40 => noShard
  | 0x41 => noShard || dShard d = allShards
  | 0x58 => noShard
  | 0x62 => noShard
  | 0x48 => (nmGet? p.pipprogs (dField d 24 4)).isNone
  | 0x50 => dCount d ≠ 0 && dCount d < 2 ^ 44 && (match localAddr p (dSrc d) with
      | some a => (freeFrames s (dField d 48 1)).length < (unitsNeedFrame s a (dCount d) (dField d 48 1)).length
      | none => false)
  | 0x51 => dField d 48 1 = 1 && dCount d ≠ 0 && dCount d < 2 ^ 44 && (match localAddr p (dDst d) with
      | some a => (freeFrames s 0).length < (unitsNeedFrame s a (dCount d) 0).length
      | none => false)
  | 0x61 => 65536 < dCount d
  | 0x68 => 2 ^ 22 < dField d 32 4
  | 0x70 => dCount d < ctxBytes p o.tenant
  | 0x78 => 2 ^ 29 < dCount d
  | _ => false

/-- The base die of a queue's module group. -/
def queueDie (p : Plane) (q : Nat) : Nat := (planeQueue p q).group.toNat / 4

/-- Stacks that the part `lo` to `hi` of a 64 KiB unit lies on: each aligned 16 KiB lies on one (R417). -/
def unitStacks (s : State) (lo hi : Nat) : List Nat :=
  (blocksOf 16384 lo (hi - lo)).filterMap fun b => (channelOf s (max lo (b * 16384))).map (· / 64)

/-- Stacks of this package that a local range lies on: 64 KiB units stand for their whole region where a longer range covers them, but
for displaced units, which lie where their frames are (R417, R492). -/
def stacksOf (s : State) (a n : Nat) : List Nat :=
  let fin := a + min n (2 ^ 44)
  let heads := (blocksOf (2 ^ 30) a (fin - a)).flatMap fun r =>
    let lo := max a (r * 2 ^ 30)
    let hi := min fin ((r + 1) * 2 ^ 30)
    ((blocksOf 65536 lo (min (hi - lo) 262144)) ++ blocksOf 65536 (hi - 1) 1).map fun u => (max lo (u * 65536), min hi ((u + 1) * 65536))
  let moved := (s.units.tier.placed.filter fun e => meets a (fin - a) (e.1 * 65536) 65536).map fun e =>
    (max a (e.1 * 65536), min fin ((e.1 + 1) * 65536))
  (heads ++ moved).flatMap fun x => unitStacks s x.1 x.2

/-- Whether a local target lies on a stack other than the queue's own base die (R134; DEDUCED, log 30). The target of an empty command
is the place its address names (Table 17). -/
def otherStack (s : State) (o : Op) (x : Access) : Bool :=
  if x.space = 0 then
    match sysAddr s.cfg.live x.addr with
    | .here a => (stacksOf s a (max 1 x.len)).any fun k => k ≠ queueDie s.cfg.live o.queue
    | _ => false
  else if x.space = 1 then x.addr / 2 ^ 20 < 256 && x.addr / 2 ^ 20 / 64 ≠ queueDie s.cfg.live o.queue
  else if x.space = 2 then x.addr / 2 ^ 27 < 4 && x.addr / 2 ^ 27 ≠ queueDie s.cfg.live o.queue
  else false

/-- The destination of an ACCUM as a range, empty or not. -/
def accumAccess (p : Plane) (o : Op) : List Access :=
  if dOpcode o.desc = opAccum then
    match (localAddr p (dDst o.desc)).bind (tileRunAt p) with
    | some r => [⟨0, dDst o.desc, dCount o.desc * accElemBytes r.fmt, true⟩]
    | none => []
  else []

/-- The targets of a command that R134 judges: what it writes, and what MIGRATE moves; those of an empty command at the addresses it
names. -/
def targetsOf (p : Plane) (o : Op) : List Access :=
  let d := o.desc
  let c := dOpcode d
  let wr := (accessesOf p o).filter fun x => x.wr || c = opMigrate
  if c = opAccum then accumAccess p o
  else if c = opReduce then
    match (localAddr p (dSrc d)).bind (tileRunAt p) with
    | some r => [⟨0, dDst d, dCount d / 4096 * accTileBytes r.fmt, true⟩]
    | none => [⟨0, dDst d, 0, true⟩]
  else if c = opPimRun then [⟨2, dField d 32 1 * 2 ^ 27, 0, true⟩]
  else if c = opTransposeIn || (c = opZero && dDstSpace d = 2) then [⟨2, dDst d, 0, true⟩]
  else if !dEmpty d then wr
  else if c = opMigrate then [⟨0, dSrc d, 0, false⟩]
  else if (allowedSpaces c).2.isSome then [⟨dDstSpace d, dDst d, 0, true⟩]
  else []

/-- The source addresses of a command, empty or not. -/
def sourcesOf (o : Op) : List Access :=
  if (allowedSpaces (dOpcode o.desc)).1.isSome then [⟨dSrcSpace o.desc, dSrc o.desc, 0, false⟩] else []

/-- A SIGNAL with REMOTE whose PKG names no package of the system (R137). -/
def signalNowhere (p : Plane) (d : BitVec 512) : Bool :=
  dOpcode d = opSignal && dBits d 26 15 1 = 1 && decide (p.sysSize ≤ dField d 26 2 % 2 ^ 15)

/-- A SIGNAL to another package of the system; one whose PKG names this package acts as a local SIGNAL (R137). -/
def signalFar (p : Plane) (d : BitVec 512) : Bool :=
  dOpcode d = opSignal && dBits d 26 15 1 = 1 && decide (dField d 26 2 % 2 ^ 15 < p.sysSize) &&
  dField d 26 2 % 2 ^ 15 ≠ p.package.toNat

/-- A scope that is undefined or does not reach the target (R134). -/
def scopeBad (s : State) (o : Op) : Bool :=
  let p := s.cfg.live
  let d := o.desc
  4 < dScope d ||
  (dScope d ≠ 4 && (dOpcode d = opRepair || signalFar p d || (targetsOf p o ++ sourcesOf o).any fun x => x.space = 0 && farAddr p x.addr)) ||
  (dScope d < 2 && (targetsOf p o).any (otherStack s o))

/-- A command reserved to the control tenant (R138). -/
def privBad (p : Plane) (o : Op) : Bool :=
  (dOpcode o.desc = opCfgStage || dOpcode o.desc = opCfgCommit) && o.tenant ≠ p.control

/-- A shard or a step plan of another tenant (Table 14 of *Host port, commands and handles*). -/
def otherTenants (p : Plane) (o : Op) : Bool :=
  if [opSweepSpec, opSweepRedo, opCommit, opAbort, opDigest, opRepair, opSnapshot, opInitParams].contains (dOpcode o.desc) then
    match nmGet? p.shards (dShard o.desc) with | some c => c.tenant ≠ o.tenant | none => false
  else if dOpcode o.desc = opPlanRun then
    match nmGet? p.stepplans (dField o.desc 24 4) with | some g => g.tenant ≠ o.tenant | none => false
  else false

/-- A sync object, shard or step plan of another tenant (R151), or a range outside the tenant's partition (R587, R588, R590). -/
def boundsBad (s : State) (o : Op) : Bool :=
  let p := s.cfg.live
  let d := o.desc
  let mine := fun id => planeSyncOwner p id = o.tenant
  otherTenants p o || (dPreWait d && !mine (dPreSync d)) || (dSig d && !farDst p d && !mine (dSigSync d)) ||
  (dOpcode d = opSignal && !signalFar p d && !signalNowhere p d && dField d 24 2 < 16384 && !mine (dField d 24 2)) ||
  (dOpcode d = opWait && dField d 24 2 < 16384 && !mine (dField d 24 2)) ||
  (accessesOf p o).any (fun x => !accessBounds s o x) ||
  ((pOperand d || dOpcode d = opPimRun) && pStarts p d && (pChannels d).any fun c => c < 256 && !(planeTenant p o.tenant.toNat).pChannels.getLsbD c)

/-- A range on another package that no frame reaches: a source of a command other than COPY and CONVERT, or the range of a
MIGRATE or PIN (DESIGN CHOICE, log 50). -/
def farUnserved (p : Plane) (o : Op) (x : Access) : Bool :=
  x.space = 0 && x.len ≠ 0 && farAddr p x.addr &&
  ((!x.wr && dOpcode o.desc ≠ opCopy && dOpcode o.desc ≠ opConvert) || dOpcode o.desc = opPin)

/-- An unmapped address (R61), or a remote SIGNAL to no package of the system (R137). -/
def rangeBad (s : State) (o : Op) : Bool :=
  let p := s.cfg.live
  let d := o.desc
  (accessesOf p o).any (fun x => !accessMapped s x || farUnserved p o x) ||
  signalNowhere p d ||
  ((dOpcode d = opTransposeIn || dOpcode d = opTransposeOut) && !dEmpty d && !transposeMapped p d) ||
  (dOpcode d = opZero && dDstSpace d = 2 && !dEmpty d &&
    !(decide (dDst d < 2 ^ 29) && decide (dDst d / 2 ^ 15 % 64 < 48) && dDst d % 2 ^ 15 + dCount d / 49152 ≤ p.dmap.pRows)) ||
  (dOpcode d = opPimRun && (3 < dField d 32 1 || 64 < dField d 33 1 + dField d 34 1 || !pimFits p d)) ||
  (dOpcode d = opRepair && dField d 28 4 ≠ allShards &&
    (match nmGet? p.shards (dShard d) with | some c => tileCount c ≤ dField d 28 4 | none => false))

/-- A misaligned operand (R133, R476, R496, R497). -/
def alignBad (s : State) (o : Op) : Bool :=
  let d := o.desc
  let c := dOpcode d
  (accessesOf s.cfg.live o).any (fun x => !accessAligned x) ||
  ((accumAccess s.cfg.live o).any fun x => !accessAligned x) ||
  (c = opMigrate && !dEmpty d && (dSrc d % 65536 ≠ 0 || dCount d % 65536 ≠ 0)) ||
  (c = opPin && !dEmpty d && (let u := if dField d 48 1 = 2 then 128 else 65536; dDst d % u ≠ 0 || dCount d % u ≠ 0)) ||
  (c = opZero && dDstSpace d = 2 && !dEmpty d && (dDst d / 2 ^ 15 % 64 ≠ 0 || dCount d % 49152 ≠ 0))

/-- Source and destination that overlap in one space of this package (R60, R512). -/
def overlapBad (s : State) (o : Op) : Bool :=
  let d := o.desc
  if [opCopy, opConvert, opActStore, opActLoad].contains (dOpcode d) then
    match accessesOf s.cfg.live o with
    | [x, y] =>
      if x.space = 0 && y.space = 0 then
        match sysAddr s.cfg.live x.addr, sysAddr s.cfg.live y.addr with
        | .here a, .here b => meets a x.len b y.len
        | .there q a, .there r b => q = r && meets a x.len b y.len
        | _, _ => false
      else x.space = 1 && y.space = 1 && meets x.addr x.len y.addr y.len
    | _ => false
  else false

/-- The first failed check of R142, in the order of the codes. -/
def firstFailure (s : State) (o : Op) : Option Status :=
  match bodyFields (dOpcode o.desc) with
  | none => some stBadOp
  | some fields =>
    if reservedSet o.desc fields || spaceReserved o.desc || fieldBad s o then some stBadField
    else if spaceBad o.desc || migrateBadSpace s o then some stBadSpace
    else if formatBad s o then some stBadFmt
    else if lenBad o.desc then some stBadLen
    else if limitBad s o then some stLimit
    else if scopeBad s o then some stScope
    else if privBad s.cfg.live o then some stPriv
    else if boundsBad s o then some stBounds
    else if rangeBad s o then some stRange
    else if alignBad s o then some stAlign
    else if overlapBad s o then some stOverlap
    else none

end Sys2Proof.Machine
end

