-- ==== Sys2Proof/Machine/Queues.lean ====
section
/-! DEFINITION. Rings, doorbells, when a descriptor may be fetched, completion and event records (R122 to R128, R142 to R145, R158, R771),
and the commands NOP, WAIT and FENCE. -/

namespace Sys2Proof.Machine

/-! ### Doorbells -/

/-- Counts of a queue. -/
def qOf (s : State) (q : Nat) : QCounts := nmGet qZero s.fe.counts q

/-- SQ_ENTRIES as the doorbell rule sees it: 0 for a queue that is not live (R123). -/
def sqEntries (s : State) (q : Nat) : Nat :=
  let p := planeQueue s.cfg.live q
  if p.en then p.sqEntries.toNat else 0

/-- Multiples of `n` that a count passes when it grows from `p` by `k`. -/
def multiplesPassed (n : Nat) (p : Word) (k : Nat) : Nat := if n = 0 then 0 else (p.toNat % n + k) / n

/-- The lap count after P grows by `k` (R143). -/
def lapAfter (n l : Nat) (p : Word) (k : Nat) : Nat := (l + multiplesPassed n p k) % 4095

/-- A doorbell is ignored: BAD_DB is set and EV_DOORBELL_BAD raised to the queue's tenant (R123, R124). -/
def badDoorbell (s : State) (q : Nat) : State :=
  raiseEventFree (updQ s q fun c => { c with badDb := true }) (planeQueue s.cfg.live q).tenant.toNat evDoorbellBad
    (BitVec.ofNat 64 q) 0

/-- A doorbell of tenant `t` with value `v` (R123, R124): the new state and the status of its transport completion. -/
def doorbell (s : State) (q : Nat) (t : BitVec 4) (v : Word) : State × Status :=
  let c := qOf s q
  let n := sqEntries s q
  if t ≠ (planeQueue s.cfg.live q).tenant then (badDoorbell s q, stBounds)
  else if v = c.p then (s, stOk)
  else if (v - c.h).toNat ≤ n then
    (updQ s q fun c => { c with p := v, l := lapAfter n c.l c.p (v - c.p).toNat }, stOk)
  else (badDoorbell s q, stBadField)

/-! ### Handles and fetch -/

/-- GEN and INDEX of descriptor `p` of a queue whose producer count and lap are `P` and `l` (R143). -/
def handleOf (par : QueueParams) (l : Nat) (P p : Word) : Word :=
  let n := par.sqEntries.toNat
  let lap := (l + 4095 - multiplesPassed n p (P - p).toNat % 4095) % 4095
  BitVec.ofNat 32 (par.tenant.toNat * 2 ^ 28 + (1 + lap) * 2 ^ 16 + (par.hbase.toNat + p.toNat % n) % 2 ^ 16)

/-- Operations Waiting or Running (Table 13). -/
def liveOps (s : State) : List Op := s.fe.ops.filter opLive

/-- A CTX_SAVE or CTX_RESTORE at work holds fetch from every other queue of its tenant (R601). -/
def ctxHolds (s : State) (q : Nat) (t : BitVec 4) : Bool :=
  s.fe.ops.any fun o => o.phase = .running && o.tenant = t && o.queue ≠ q &&
    (dOpcode o.desc = opCtxSave || dOpcode o.desc = opCtxRestore)

/-- A CFG_COMMIT past step 2 holds fetch from the queues of the tenants it affects (R178). -/
def commitHolds (s : State) (t : BitVec 4) : Bool :=
  match s.cfg.wait with | some w => w.tenants.contains t.toNat | none => false

/-- A handle index is free: no operation of the slot is short of Retired. -/
def slotFree (s : State) (q : Nat) (p : Word) : Bool :=
  !s.fe.ops.any fun o => o.queue = q && o.phase ≠ .retired && o.number.toNat % sqEntries s q = p.toNat % sqEntries s q

/-- Fetch is stalled by the 4,096 executing operations or by the tenant's OPS_MAX (R127, R591). -/
def opsStalled (s : State) (t : BitVec 4) : Bool :=
  4096 ≤ (liveOps s).length ||
  (planeTenant s.cfg.live t.toNat).opsMax ≤ ((liveOps s).filter fun o => o.tenant = t).length

/-- Whether a home still holds a host-transport request. -/
def requestHeld (s : State) (r : HostReq) : Bool := s.fe.held.any fun h => match h.who with | .request _ q => q = r | .command _ => false

/-- Writes of a module that a home holds (R81). -/
def heldWrites (s : State) (m : Fin 64) : List HostReq := s.fe.held.filterMap fun h => match h.who with
  | .request ty q => if q.module = m && (ty = 0x02 || ty = 0x04) then some q else none
  | .command _ => none

/-- Whether descriptor H of a queue can be fetched now (R74, R81, R127, R178, R591, R601, R629, R634, R687). -/
def canFetch (s : State) (q : Nat) : Bool :=
  let par := planeQueue s.cfg.live q
  let c := qOf s q
  par.en && c.h ≠ c.p && slotFree s q c.h && !opsStalled s par.tenant && !commitHolds s par.tenant && !ctxHolds s q par.tenant &&
  !s.units.fetchStop && !s.units.acorns.fatal && !s.units.acorns.running && !c.bell.any (requestHeld s) &&
  !readHeld s (par.sqBase.toNat + 64 * (c.h.toNat % par.sqEntries.toNat)) 64

/-- Draws that a command uses (R535). -/
def drawsUsed (d : BitVec 512) : Nat :=
  if dOpcode d = opRngFill || dOpcode d = opDraw || (dOpcode d = opConvert && dField d 50 1 = 1) then dCount d else 0

/-- Whether a command takes its base draw from the cursor (R534). -/
def usesCursor (d : BitVec 512) : Bool :=
  0 < drawsUsed d && rsMode (if dOpcode d = opConvert then dField d 56 8 else dField d 24 8) = 1

/-- The operation of a fetched descriptor, before its checks. -/
def newOp (s : State) (q : Nat) (desc : BitVec 512) : Op :=
  let par := planeQueue s.cfg.live q
  let c := qOf s q
  { handle := handleOf par c.l c.p c.h, queue := q, number := c.h, order := s.fe.fetched, tenant := par.tenant, desc := desc
    phase := .waiting, failed := none, started := false, met := none, status := 0, empty := false, signalled := false
    replayed := false, event := false, res0 := 0, res1 := 0, counts := countsZero, cursor := 0, pieces := [], remote := 0
    pull := false, spoiled := [], stream := 0, last := false, seat := 0, behind := false, collNo := 0 }

/-- Whether a push piece belongs to a fetched ACCUM (R116). -/
def claims (o : Op) (x : PushPiece) : Bool :=
  dOpcode o.desc = opAccum && dSrcSpace o.desc = 3 && x.queue = o.queue && x.pushId.toNat = dSrc o.desc % 2 ^ 16

/-- Add a push piece to an operation unless it has it (R118). -/
def addPiece (l : List (Nat × List Byte)) (off : Nat) (bs : List Byte) : List (Nat × List Byte) :=
  if l.any (fun x => x.1 = off) then l else l ++ [(off, bs)]

/-! ### Push pieces (R115 to R118) -/

/-- QUEUE of a push address (Table 4). -/
def pushQueue (r : HostReq) : Nat := r.addr.toNat / 2 ^ 36

/-- PUSH_ID of a push address. -/
def pushId (r : HostReq) : BitVec 16 := BitVec.ofNat 16 (r.addr.toNat / 2 ^ 20)

/-- OFFSET64 of a push address. -/
def pushOffset (r : HostReq) : BitVec 20 := BitVec.ofNat 20 r.addr.toNat

/-- Base die of a module (R108). -/
def dieOf (r : HostReq) : Nat := r.module.val / 16

/-- Pieces in a base die's push buffer. -/
def pushHeld (s : State) (die : Nat) : Nat := (s.fe.push.filter fun x => queueDie s.cfg.live x.queue = die).length

/-- The fetched ACCUM that a piece belongs to (R116). -/
def pushTarget (s : State) (r : HostReq) : Option Op :=
  s.fe.ops.find? fun o => opLive o && claims o ⟨pushQueue r, pushId r, pushOffset r, r.tenant, []⟩

/-- Accept a push piece (R116 to R118): into its ACCUM, or into the push buffer; a second copy of a piece changes nothing, and a piece that
finds the buffer full waits for room. -/
def pushAccept (s : State) (r : HostReq) : State :=
  match pushTarget s r with
  | some o => respond (updOp s o.handle fun x => { x with pieces := addPiece x.pieces (pushOffset r).toNat (padTo 64 0 (r.data.take 64)) }) r stOk []
  | none =>
    if s.fe.push.any fun x => x.queue = pushQueue r && x.pushId = pushId r && x.offset = pushOffset r then respond s r stOk []
    else if pushHeld s (dieOf r) < 65536 then
      respond { s with fe := { s.fe with push := s.fe.push ++
        [⟨pushQueue r, pushId r, pushOffset r, r.tenant, padTo 64 0 (r.data.take 64)⟩] } } r stOk []
    else { s with fe := { s.fe with pushWait := s.fe.pushWait ++ [r] } }

/-- Room in a push buffer, or a fetched ACCUM, lets waiting pieces in, in the order of their arrival (R117). -/
def admitPush (s : State) : State := s.fe.pushWait.foldl pushAccept { s with fe := { s.fe with pushWait := [] } }

/-! ### Completion records -/

/-- Host address of the completion ring; in the boot configuration queue 0 uses HUB_BOOT_CQ (R737). -/
def cqBase (s : State) (q : Nat) : Nat :=
  if q = 0 && !s.cfg.live.isImage then (regGet s 0x70 0).toNat + (regGet s 0x74 0).toNat % 2 ^ 12 * 2 ^ 32
  else (planeQueue s.cfg.live q).cqBase.toNat

/-- Write an operation's completion record if its ring has room, and retire it (R128, Table 13). -/
def writeRecord (h : Word) (s : State) : State :=
  match findOp s h with
  | none => s
  | some o =>
    if o.phase = .done then
      if cqRoom s o.queue then
        let par := planeQueue s.cfg.live o.queue
        let t := (qOf s o.queue).t
        let s := cplWrite s par.group.toNat (cqBase s o.queue + 32 * (t.toNat % par.cqEntries.toNat)) (recordBytes o)
        updOp (updQ s o.queue fun c => { c with t := c.t + 1 }) h fun x => { x with phase := .retired }
      else stallCheck s o
    else s

/-- COMPLETION_RECORD_WRITE (R128). -/
def execCompletionRecordWrite (handle : Word) (s : State) : Host.Outcome State Fault Refusal := .next (writeRecord handle s)

/-- A new consumed count; a stall ends when the ring has room (R128). -/
def setCqHead (s : State) (q : Nat) (v : Word) : State :=
  let s := updQ s q fun c => { c with c := v }
  if cqRoom s q then updQ s q fun c => { c with cqStall := false } else s

/-! ### Event records -/

/-- Write a pending event record once the ring has room (R158). -/
def writePending (t : Nat) (code : BitVec 16) (s : State) : State :=
  match (ringOf s t).pending.find? fun e => e.code = code with
  | none => s
  | some e =>
    if ringRoom s t then
      writeEvent (setRing s t { ringOf s t with pending := (ringOf s t).pending.filter fun x => x.code ≠ code }) t e
    else s

/-- EVENT_RECORD_WRITE (R158). -/
def execEventRecordWrite (tenant : Fin 16) (code : BitVec 16) (s : State) : Host.Outcome State Fault Refusal :=
  .next (writePending tenant.val code s)

/-- A write of HUB_EVT_HEAD, ignored where it would make more than 256 records unconsumed (R771). -/
def setEvtHead (s : State) (t : Nat) (v : Word) : State :=
  if ((ringOf s t).seq - v).toNat ≤ 256 then setRing s t { ringOf s t with head := v } else s

/-! ### NOP, WAIT and FENCE -/

/-- NOP does nothing of its own. -/
def tryNop (s : State) (_ : Op) : Outcome := .done s resOk

/-- NOP (R135). -/
def execNop (handle : Word) (s : State) : Host.Outcome State Fault Refusal := .next (runCommand opNop tryNop handle s)

/-- WAIT evaluates its condition at once, and again at each change of the object (R153). -/
def tryWait (s : State) (o : Op) : Outcome :=
  let v := syncGet s (dField o.desc 24 2)
  if waitHolds o v then .go (updOp s o.handle fun x => { x with met := some v }) else .go s

/-- WAIT (R153). -/
def execWait (handle : Word) (s : State) : Host.Outcome State Fault Refusal := .next (runCommand opWait tryWait handle s)

/-- The TIMEOUT of a WAIT expires: the condition is evaluated once more (R154). -/
def waitTimeout (h : Word) (s : State) : State :=
  match findOp s h with
  | none => s
  | some o =>
    if dOpcode o.desc = opWait && o.phase = .running && o.started && dField o.desc 28 4 ≠ 0 then
      let v := syncGet s (dField o.desc 24 2)
      if waitHolds o v then settle (updOp s h fun x => { x with met := some v })
      else complete s o { status := stTimeout, res1 := v }
    else s

/-- WAIT_TIMEOUT (R154). -/
def execWaitTimeout (handle : Word) (s : State) : Host.Outcome State Fault Refusal := .next (waitTimeout handle s)

/-- FENCE ends when the commands before it are Done (R146). -/
def tryFence (s : State) (_ : Op) : Outcome := .go s

/-- FENCE (R146). -/
def execFence (handle : Word) (s : State) : Host.Outcome State Fault Refusal := .next (runCommand opFence tryFence handle s)

end Sys2Proof.Machine
end

