-- ==== Sys2Proof/Machine/Fabric.lean ====
section
/-! DEFINITION. The counts by which a FINAL frame lands at its target (*Hazel fabric and memory-side collectives*). -/

namespace Sys2Proof.Machine

/-! ### Stream-and-group counts (R351 to R353) -/

/-- The tenant whose plan step a frame belongs to. -/
def plannedOf (f : Frame) : Option (BitVec 4) := if f.plan = BitVec.allOnes 32 then none else some f.tenant

/-- The open count of a frame's stream and group. -/
def countOf (s : State) (f : Frame) : Option StreamCount :=
  s.hz.counts.find? fun c => c.src = f.src && c.stream = f.stream && c.group = f.group

/-- Whether a new count cannot be opened (R352). -/
def countsFull (s : State) (f : Frame) : Bool :=
  !noGroup f.stream && (countOf s f).isNone && 4096 ≤ s.hz.counts.length

/-- Replace a count, or close it with `none`. -/
def putCount (s : State) (f : Frame) (c : Option StreamCount) : State :=
  let rest := s.hz.counts.filter fun c => !(c.src = f.src && c.stream = f.stream && c.group = f.group)
  { s with hz := { s.hz with counts := match c with | some c => rest ++ [c] | none => rest } }

/-- A FINAL frame lands: its payload is written, and its group signalled (R84, R351). -/
def landFinal (s : State) (f : Frame) : State :=
  let s := dWrite s f.addr.toNat f.payload
  putCount (syncAdd s f.group.toNat (f.sigAdd.setWidth 64)) f none

/-- One more frame of a stream and group has landed; a FINAL frame that waited for it lands too, or waits on where its home holds writes
(R74, R102). -/
def countLanded (s : State) (port : Nat) (f : Frame) : State :=
  if noGroup f.stream then s else
  let c := (countOf s f).getD ⟨f.src, f.stream, f.group, 0, none, false, port, plannedOf f⟩
  let c := { c with landed := c.landed + 1, port := port }
  match c.final with
  | some (prior, _, g) =>
    if prior.toNat ≤ c.landed then
      if c.quiet then putCount s f none
      else if writeHeld s none g.addr.toNat g.payload.length then
        let s := putCount s f (some { c with final := none })
        { s with hz := { s.hz with held := s.hz.held ++ [(c.port, g)] } }
      else landFinal s g
    else putCount s f (some c)
  | none => putCount s f (some c)

/-- A FINAL frame arrives: it lands once the frames before it have landed, and waits otherwise. -/
def finalArrives (s : State) (port : Nat) (f : Frame) : State :=
  let c := (countOf s f).getD ⟨f.src, f.stream, f.group, 0, none, false, port, plannedOf f⟩
  if f.prior.toNat ≤ c.landed then landFinal s f
  else putCount s f (some { c with final := some (f.prior, f.sigAdd, f), port := port })

/-- A discarded FINAL frame counts as landed and signals nothing; its count closes once the frames before it have landed (R351). -/
def finalDiscarded (s : State) (port : Nat) (f : Frame) : State :=
  let c := (countOf s f).getD ⟨f.src, f.stream, f.group, 0, none, false, port, plannedOf f⟩
  if f.prior.toNat ≤ c.landed then putCount s f none
  else putCount s f (some { c with final := some (f.prior, f.sigAdd, f), quiet := true, port := port })

/-- Close a count without its FINAL frame; HZ_STALE of its port counts it (R353). -/
def closeCount (s : State) (c : StreamCount) : State :=
  let s := { s with hz := { s.hz with counts := s.hz.counts.filter fun x => x ≠ c } }
  updPort s c.port fun p => { p with stale := satInc p.stale }

end Sys2Proof.Machine
end

