-- ==== Sys2Proof/Machine/Shards.lean ====
section
/-! DEFINITION. Shards as the transaction directory sees them, their records in D-space beside the state fields, and the undo
area of capacity mode (*Speculative update and the commit sweep*, R276 to R281; *Replica digests*, R567, R568). -/

namespace Sys2Proof.Machine

/-- What the directory keeps of a shard. -/
def shardDyn (s : State) (n : Nat) : ShardDyn := nmGet shardZero s.step.shards n

/-- Change a shard's entry in the directory. -/
def updShard (s : State) (n : Nat) (f : ShardDyn → ShardDyn) : State :=
  { s with step := { s.step with shards := nmSet s.step.shards n (f (shardDyn s n)) } }

/-- Set a shard's state. -/
def setShardState (s : State) (n : Nat) (st : ShardState) : State := updShard s n fun d => { d with st := st }

/-- The slot that a shard's epoch bit selects; a capacity-mode shard has one slot (R216, R275). -/
def committedSlot (s : State) (n : Nat) (c : ShardCfg) : Nat := if !capMode c && (shardDyn s n).epoch then 1 else 0

/-- The slot that is not committed. -/
def inactiveSlot (s : State) (n : Nat) (c : ShardCfg) : Nat := if capMode c then 0 else 1 - committedSlot s n c

/-- Bytes of one slot of a factor record: the row factors, then the column factors (R221). -/
def factorSlotBytes (c : ShardCfg) : Nat := if c.cols = 0 then 0 else 4 * (c.n / c.cols + c.cols)

/-- Address of slot `k` of a factor record. -/
def factorAddr (c : ShardCfg) (k : Nat) : Nat := c.factorBase + k * factorSlotBytes c

/-! ### Digest records (R567, R568) -/

/-- Entries of each level of a digest tree over `n` tiles. -/
def levelCounts : Nat → Nat → List Nat
  | 0, n => [n]
  | f + 1, n => if n ≤ 1 then [n] else n :: levelCounts f ((n + 1) / 2)

/-- Bytes of one slot of a shard's digest record. -/
def digestSlotBytes (c : ShardCfg) : Nat := (64 + 8 * (levelCounts 64 (tileCount c)).sum + 4095) / 4096 * 4096

/-- Address of slot `k` of a digest record. -/
def digestAddr (c : ShardCfg) (k : Nat) : Nat := c.digestBase + k * digestSlotBytes c

/-- Address of level `l` of the tree in slot `k`. -/
def digestLevelAddr (c : ShardCfg) (k l : Nat) : Nat :=
  digestAddr c k + 64 + 8 * ((levelCounts 64 (tileCount c)).take l).sum

/-! ### Tile digests and digest trees (R566 to R568) -/

/-- Covered fields of a shard: W, LO, M and V of its field set, as (field bit, place in the field order). -/
def coveredFields (c : ShardCfg) : List (Nat × Nat) := (List.zipIdx (fieldList c)).filter fun x => x.1 < 4

/-- Bytes of a field block with padding elements as +0 (R212). -/
def padZero (c : ShardCfg) (t : Nat) (bs : List Byte) : List Byte :=
  padTo (blockBytes c) 0 (bs.take (tileElems c t * elemBytes c))

/-- The digest of a tile in a slot, from the stored bits (R566). -/
def tileDigest (s : State) (c : ShardCfg) (k t : Nat) : DWord :=
  crc64 ((coveredFields c).flatMap fun x => padZero c t (dRead s (fieldAddr c k t x.2) (blockBytes c)))

/-- One level of the tree above another (R567). -/
def foldLevel : List DWord → List DWord
  | a :: b :: l => crc64 (leBytes 8 a.toNat ++ leBytes 8 b.toNat) :: foldLevel l
  | [a] => [a]
  | [] => []

/-- The tree over tile digests: level 0 first, the root's level last. -/
def digestTree : Nat → List DWord → List (List DWord)
  | 0, l => [l]
  | f + 1, l => if l.length ≤ 1 then [l] else l :: digestTree f (foldLevel l)

/-- The root of a tree over tile digests. -/
def treeRoot (l : List DWord) : DWord := (((digestTree 64 l).getLast?.getD []).head?).getD 0

/-- The stored tile digests of a digest slot. -/
def storedDigests (s : State) (c : ShardCfg) (k : Nat) : List DWord :=
  (chunks 8 (dRead s (digestLevelAddr c k 0) (8 * tileCount c))).map fun b => BitVec.ofNat 64 (leNat b)

/-- Write a whole digest slot: every level, then the header (R568). -/
def writeDigests (s : State) (c : ShardCfg) (k : Nat) (tiles : List DWord) (stepNo T : Nat) : State :=
  let body := (digestTree 64 tiles).flatMap fun l => l.flatMap fun d => leBytes 8 d.toNat
  let s := dWrite s (digestLevelAddr c k 0) body
  dWrite s (digestAddr c k) (leBytes 8 stepNo ++ leBytes 8 T ++ [1] ++ List.replicate 47 0)

/-- The ancestors of entry `j` of level `l` folded again. -/
def foldUp (c : ShardCfg) (k : Nat) : Nat → Nat → Nat → State → State
  | 0, _, _, s => s
  | f + 1, l, j, s =>
    let n := ((levelCounts 64 (tileCount c))[l]?).getD 0
    if n ≤ 1 then s
    else
      let at_ := fun i => leNat (dRead s (digestLevelAddr c k l + 8 * i) 8)
      let p := j / 2
      let v := if 2 * p + 1 < n then crc64 (leBytes 8 (at_ (2 * p)) ++ leBytes 8 (at_ (2 * p + 1))) else BitVec.ofNat 64 (at_ (2 * p))
      foldUp c k f (l + 1) p (dWrite s (digestLevelAddr c k (l + 1) + 8 * p) (leBytes 8 v.toNat))

/-- Recompute one tile's digest in a digest slot from a state slot, and its ancestors. -/
def recomputeTile (s : State) (c : ShardCfg) (slot k t : Nat) : State :=
  foldUp c k 64 0 t (dWrite s (digestLevelAddr c k 0 + 8 * t) (leBytes 8 (tileDigest s c slot t).toNat))

/-- A slot header's VALID flag (Table 6 of *Update engines and parameter state*). -/
def headerValid (s : State) (c : ShardCfg) (slot : Nat) : Bool := leNat (dRead s (headerAddr c slot + 24) 4) % 2 = 1

/-- T of a slot header; 0 where VALID is 0 (R218). -/
def headerT (s : State) (c : ShardCfg) (slot : Nat) : Nat :=
  if headerValid s c slot then leNat (dRead s (headerAddr c slot) 8) else 0

/-- STEP_NO of a slot header; 0 where VALID is 0. -/
def headerStep (s : State) (c : ShardCfg) (slot : Nat) : Nat :=
  if headerValid s c slot then leNat (dRead s (headerAddr c slot + 32) 8) else 0

/-- The committed digest slot (R568). -/
def committedDigest (s : State) (n : Nat) (c : ShardCfg) : Nat :=
  if capMode c then headerT s c 0 % 2 else committedSlot s n c

/-! ### The undo area of capacity mode (R276 to R281) -/

/-- Undo entries of a shard. -/
def undoEntries (c : ShardCfg) : Nat := match c.mode with | .capacity _ n _ => n | .dual => 0

/-- Base of a shard's undo area. -/
def undoBase (c : ShardCfg) : Nat := match c.mode with | .capacity b _ _ => b | .dual => 0

/-- Whether a capacity-mode shard may be swept ahead of the verdict. -/
def specMode (c : ShardCfg) : Bool := match c.mode with | .capacity _ _ b => b | .dual => true

/-- The undo reserve (R277). -/
def undoReserve (c : ShardCfg) : Nat := undoEntries c - 2 * c.ueSet.length

/-- Address of an undo entry; its COPY holds a tile's fields at the size of their elements, 0x8000 bytes a field for an integer shard (DESIGN
CHOICE: Table 5 gives NF × 0x4000 and R217 speaks of the slots' formula alone; log 143). -/
def undoEntryAddr (c : ShardCfg) (e : Nat) : Nat := undoBase c + 0x1000 + e * (0x1000 + fieldCount c * blockBytes c)

/-- Address of a tile's tag (R275). -/
def tagAddr (c : ShardCfg) (t : Nat) : Nat := c.stateBase + 0x1000 + 8 * t

/-- Whether an undo entry's tile is to be restored: logged (state 1) where recovery asks, or applied (state 2). -/
def undoRestores (s : State) (c : ShardCfg) (logged : Bool) (e : Nat) : Bool :=
  let st := dRead s (undoEntryAddr c e + 4) 1
  st = [2] || (logged && st = [1])

/-- Put a tile back from an undo entry's COPY, with its tag set back to OLD_TAG, and free the entry (R280, R295). -/
def undoRestore (c : ShardCfg) (s : State) (e : Nat) : State :=
  let a := undoEntryAddr c e
  let t := leNat (dRead s a 4)
  let s := dWrite s (fieldAddr c 0 t 0) (dRead s (a + 0x1000) (fieldCount c * blockBytes c))
  let s := dWrite s (tagAddr c t) (dRead s (a + 8) 8)
  dWrite s (a + 4) [0]

/-- Restore every tile of a shard that its undo area holds. -/
def undoRestoreAll (s : State) (c : ShardCfg) (logged : Bool) : State :=
  ((List.range (undoEntries c)).filter (undoRestores s c logged)).foldl (undoRestore c) s

/-- Free every entry of a shard's undo area. -/
def undoFreeAll (s : State) (c : ShardCfg) : State :=
  (List.range (undoEntries c)).foldl (fun s e =>
    if dRead s (undoEntryAddr c e + 4) 1 = [0] then s else dWrite s (undoEntryAddr c e + 4) [0]) s

/-! ### Runs, ABORT and halts -/

/-- The started run that drives a shard. -/
def runOf (s : State) (n : Nat) : Option StepRun :=
  s.step.runs.find? fun r => r.started &&
    (match nmGet? s.cfg.live.stepplans r.plan with | some g => g.shards.contains n | none => false)

/-- A PLAN_RUN that is Running drives the shard, from the moment it enters Running (R139, R775). -/
def drivenByRun (s : State) (n : Nat) : Bool :=
  (s.step.runs.any fun r => (nmGet? s.cfg.live.stepplans r.plan).any fun g => g.shards.contains n) ||
  s.fe.ops.any fun o => o.phase = .running && (opPlan s.cfg.live o).any fun g => g.shards.contains n

/-- Change the run of a handle. -/
def updRun (s : State) (h : Word) (f : StepRun → StepRun) : State :=
  { s with step := { s.step with runs := s.step.runs.map fun r => if r.handle = h then f r else r } }

/-- The running sweep of a shard. -/
def sweepOf (s : State) (n : Nat) : Option SweepRec := s.step.sweeps.find? fun w => w.shard = n

/-- Order a shard's sweep to stop at its next tile boundary (R42). -/
def orderStop (s : State) (n : Nat) : State :=
  { s with step := { s.step with sweeps := s.step.sweeps.map fun w => if w.shard = n then { w with stop := true, again := false } else w } }

/-- A shard holds no sweep and leaves its step: tiles with an undo entry are restored, and it is CLEAN. -/
def shardClean (s : State) (n : Nat) : State :=
  match nmGet? s.cfg.live.shards n with
  | none => s
  | some c =>
    let s := if capMode c && decide ((shardDyn s n).st ≠ .clean) then undoRestoreAll s c false else s
    setShardState s n .clean

/-- What ABORT does to one shard (R272): a running sweep is ordered to stop, and ends CLEAN at its tile boundary; a shard with
no sweep is CLEAN at once. -/
def abortShard (s : State) (n : Nat) : State :=
  if (sweepOf s n).isSome then orderStop s n else shardClean s n

/-- A shard is HELD in the run that drives it (R253). -/
def holdInRun (s : State) (n : Nat) : State :=
  match runOf s n with
  | none => s
  | some r => updRun (setShardState s n .held) r.handle fun r => { r with held := if r.held.contains n then r.held else r.held ++ [n] }

/-- Halt a shard (R558), with its error-log record. -/
def haltShard (s : State) (n : Nat) : State :=
  let tenant := match nmGet? s.cfg.live.shards n with | some c => c.tenant.toNat | none => 0xF
  let s := abortShard s n
  let s := updShard s n fun d => { d with halted := true }
  let s := if (sweepOf s n).isSome then s else holdInRun s n
  logRecordFree s 0x0A 0 0 n tenant

end Sys2Proof.Machine
end

