-- ==== Sys2Proof/Machine/Integrity.lean ====
section
/-! DEFINITION. Poison: what the Rharal does when a home finds a granule uncorrectable, by the region that holds it, and when a
refetch lands (*Replica digests, error correction and error reports*). -/

namespace Sys2Proof.Machine

/-! ### The region of an address (Table 3) -/

/-- The regions of Table 3. -/
inductive Region where
  | shared
  | gatherActive (index : Nat) (offset : Nat)
  | gatherInactive
  | committed (shard tile : Nat)
  | inactive
  | accumulator (tenant : BitVec 4)
  | digestRecord (shard : Nat)
  | other
deriving DecidableEq, Repr

/-- Whether an address lies in a range. -/
def inRange (a base n : Nat) : Bool := decide (base ≤ a) && decide (a < base + n)

/-- Whether a gather buffer's second copy is active. -/
def copy1Active (s : State) (i : Nat) : Bool := nmGet false s.step.copy1 i

/-- The copy of a gather buffer that is active, or not. -/
def gatherCopy (s : State) (i : Nat) (g : GatherBuffer) (active : Bool) : Nat :=
  match g.copy1 with
  | some c => if copy1Active s i = active then c else g.copy0
  | none => g.copy0

/-- The region of a gather buffer copy that an address lies in. -/
def gatherRegion (s : State) (a : Nat) : Option Region :=
  (List.zipIdx s.cfg.live.dmap.gathers).findSome? fun x =>
    let on := gatherCopy s x.2 x.1 true
    let off := gatherCopy s x.2 x.1 false
    if inRange a on x.1.bytes then some (.gatherActive x.2 (a - on))
    else if inRange a off x.1.bytes then some .gatherInactive else none

/-- The region of a shard's own records that an address lies in. -/
def shardRegion (s : State) (a : Nat) (n : Nat) (c : ShardCfg) : Option Region :=
  let k := committedSlot s n c
  let tileBytes := fieldCount c * blockBytes c
  if inRange a c.stateBase (stateBytes c) then
    let off := a - c.stateBase
    if capMode c then
      some (.committed n (if off < 0x1000 then 0 else if off < 0x1000 + tagBytes c then (off - 0x1000) / 8
        else (off - 0x1000 - tagBytes c) / max 1 tileBytes))
    else if off < 0x1000 then some (if off / 64 = k then .committed n 0 else .inactive)
    else
      let t := (off - 0x1000) / max 1 (2 * tileBytes)
      some (if (off - 0x1000) / max 1 tileBytes % 2 = k then .committed n t else .inactive)
  else if inRange a (factorAddr c 0) (2 * factorSlotBytes c) then
    some (if inRange a (factorAddr c k) (factorSlotBytes c) then .committed n 0 else .inactive)
  else if inRange a c.digestBase (2 * digestSlotBytes c) then some (.digestRecord n)
  else none

/-- The region of an address, the row nearer the top of Table 3 first. -/
def regionOf (s : State) (a : Nat) : Region :=
  if (sharedAt s a 1).isSome then .shared
  else match gatherRegion s a with
  | some r => r
  | none =>
    match s.cfg.live.shards.findSome? fun e => shardRegion s a e.1 e.2 with
    | some r => r
    | none => match tileRunAt s.cfg.live a with
      | some r => .accumulator r.tenant
      | none => .other

/-! ### Refetch (R559 to R563) -/

/-- The 64 bytes of a SERVE request: a COPY descriptor from a system address to a local address (log 43). -/
def serveCopy (src dst n : Nat) : List Byte :=
  leBytes 1 opCopy ++ leBytes 1 0 ++ leBytes 1 (4 * 4) ++ List.replicate 21 0 ++ leBytes 8 src ++ leBytes 8 dst ++ leBytes 8 n ++
  List.replicate 16 0

/-- Send a SERVE frame (R354). -/
def sendServe (s : State) (dst : BitVec 13) (tenant : BitVec 4) (stream : Word) (payload : List Byte) : State :=
  sendRouted s { frameBlank s 0x0A dst with tenant := tenant, stream := stream, payload := payload } none

/-- The system address of a local address of a package. -/
def sysOf (pkg : BitVec 13) (a : Nat) : Nat := pkg.toNat * 2 ^ 44 + a

/-- Members of a shard's replica group that no dropout has removed, by position (R572). -/
def liveMembers (s : State) (c : ShardCfg) : List (BitVec 13) := c.members.filter fun m => !s.hz.drop.learned.contains m

/-- The lowest-position member of a shard's replica group other than this package. -/
def firstReplica (s : State) (c : ShardCfg) : Option (BitVec 13) := (liveMembers s c).find? fun m => m ≠ s.cfg.live.package

/-- The shard of this package whose narrow tiles hold a gather offset. -/
def shardAtGather (p : Plane) (i off : Nat) : Option ShardCfg :=
  (p.shards.find? fun e => e.2.gather = i && inRange off e.2.gatherOff (narrowBytes p e.2)).map (·.2)

/-- The package whose active copy a gather granule is refetched from (R562). -/
def gatherSource (s : State) (i off : Nat) : Option (BitVec 13) :=
  match shardAtGather s.cfg.live i off with
  | some c => firstReplica s c
  | none => ((s.cfg.live.dmap.gathers[i]?).bind fun g => g.owners.find? fun o => inRange off o.1 o.2.1).map fun o => o.2.2

/-- Start a refetch of a granule unless one is outstanding (R560, R561, R563). -/
def startRefetch (s : State) (g : Nat) (shared : Bool) (src : Option Nat) (tenant : BitVec 4) : State :=
  if s.units.integ.refetch.any fun r => r.granule = g then s
  else
    let s := { s with units := { s.units with integ := { s.units.integ with
      refetch := s.units.integ.refetch ++ [⟨g, shared, false⟩] } } }
    match src with
    | some a =>
      let (s, stream) := takeStream s false
      sendServe s (BitVec.ofNat 13 (a / 2 ^ 44)) tenant stream (serveCopy a (sysOf s.cfg.live.package (64 * g)) 64)
    | none => s

/-- The tenant that owns an address, if one does. -/
def addrOwner (s : State) (a : Nat) : Option (BitVec 4) := granuleOwner s.cfg.live (a / 2 ^ 26)

/-- EV_UE to the tenant that owns an address. -/
def raiseUe (s : State) (t : Option (BitVec 4)) (a : Nat) : State :=
  match t with
  | some t => raiseEventFree s t.toNat evUe (BitVec.ofNat 64 a) 0
  | none => s

/-- Note that a tile's repair from a replica is due (R557). -/
def dueRepair (s : State) (shard tile : Nat) : State :=
  if s.units.integ.repairs.contains (shard, tile) then s
  else { s with units := { s.units with integ := { s.units.integ with repairs := s.units.integ.repairs ++ [(shard, tile)] } } }

/-- A digest slot recomputed from the committed slot (Table 3). -/
def recomputeSlot (s : State) (n : Nat) (c : ShardCfg) (k : Nat) : State :=
  let slot := committedSlot s n c
  writeDigests s c k ((List.range (tileCount c)).map (tileDigest s c slot)) (headerStep s c slot) (headerT s c slot)

/-- What Table 3 does with a newly poisoned granule of a region. -/
def actOnPoison (s : State) (a : Nat) (r : Region) : State :=
  let p := s.cfg.live
  match r with
  | .shared =>
    match sharedAt s a 1 with
    | some h =>
      let src := h.source.toNat + (a - h.base)
      startRefetch (raiseAll s evSharedUe (BitVec.ofNat 64 a) (BitVec.ofNat 64 src)) (a / 64) true (some src) p.control
    | none => s
  | .gatherActive i off =>
    match p.dmap.gathers[i]? with
    | some g => startRefetch s (a / 64) false ((gatherSource s i off).map fun m => sysOf m (g.base + off)) g.tenant
    | none => s
  | .committed n t =>
    match nmGet? p.shards n with
    | some c => if (firstReplica s c).isSome then dueRepair s n t else raiseUe (haltShard s n) (some c.tenant) a
    | none => s
  | .accumulator t => raiseUe s (some t) a
  | .other => raiseUe s (addrOwner s a) a
  | .gatherInactive => s
  | .inactive => s
  | .digestRecord n =>
    match nmGet? p.shards n with
    | some c => recomputeSlot s n c (if inRange a (digestAddr c 0) (digestSlotBytes c) then 0 else 1)
    | none => s

/-! ### Detection (R548 to R552) -/

/-- Entries of a bridge's poison list (R551). -/
def plistUsed (s : State) (m : Nat) : Nat :=
  (s.mem.poison.filter fun g => bridgeOf s (64 * g) = some m && !s.units.tier.unlisted.contains g).length

/-- Change the granules that are uncorrectable but not listed. -/
def setUnlisted (s : State) (l : List Nat) : State := { s with units := { s.units with tier := { s.units.tier with unlisted := l } } }

/-- A read of a range starts: what the last read of an unlisted granule found is decided afresh (R552). -/
def forgetUnlisted (s : State) (a n : Nat) : State :=
  let l := s.units.tier.unlisted.filter (blocksOf 64 a n).contains
  if l.isEmpty then s
  else
    let s := setUnlisted s (s.units.tier.unlisted.filter fun g => !l.contains g)
    { s with mem := { s.mem with poison := s.mem.poison.filter fun g => !l.contains g } }

/-- Bytes as the array holds them now; a home's cache is not touched. -/
def setArray (s : State) (a : Nat) (bs : List Byte) : State := { s with mem := { s.mem with cells := memWrite s.mem.cells a bs } }

/-- The mark of poison in the array of the fast tier: every sector of the granule holds all-zero data with the check bytes of the mark
(R550). A failed channel takes no write (R431). -/
def markArray (s : State) (g : Nat) : State :=
  if failedAt s (64 * g) then s
  else
    let s := setArray s (64 * g) (List.replicate 64 0)
    { s with mem := { s.mem with flips := mendSectors s (64 * g) 64 } }

/-- A home finds the granule at `a` uncorrectable: the first detection counts it, logs it under a kind of Table 7, poisons it and acts on
it. -/
def poisonGranule (kind : Nat) (s : State) (a : Nat) : State :=
  let g := a / 64
  if s.mem.poison.contains g then s
  else
    let tenant := match addrOwner s a with | some t => t.toNat | none => 0xF
    let mark := fun (s : State) => { s with mem := { s.mem with poison := insertNat g s.mem.poison } }
    match channelOf s a with
    | some c =>
      let s := updChan s c fun x => { x with ue := satInc x.ue }
      let s := logRecordFree s kind (1 + c / 64) (c % 64) (64 * g) tenant
      actOnPoison (mark (markArray s g)) (64 * g) (regionOf s (64 * g))
    | none =>
      let m := (bridgeOf s a).getD 0
      if plistUsed s m < 16384 then
        let s := logRecordFree s kind (5 + m) 0 (64 * g) tenant
        let s := setUnlisted s (s.units.tier.unlisted.filter fun x => x ≠ g)
        actOnPoison (mark s) (64 * g) (regionOf s (64 * g))
      else
        let s := regSet s 0x2008 (regGet s 0x2008 0 ||| BitVec.ofNat 32 (2 ^ m))
        let s := setUnlisted s (insertNat g s.units.tier.unlisted)
        actOnPoison (mark (logRecordFree s 0x0B (5 + m) 0 (64 * g) tenant)) (64 * g) (regionOf s (64 * g))

/-- An array's decoder, or a bridge's link ECC, finds the granule at `a` uncorrectable (R549). -/
def detectUe (s : State) (a : Nat) : State := poisonGranule 0x02 s a

/-! ### Corrected errors (R564, R565) -/

/-- DIE and UNIT of a site's log records: package channel `c`, 256 + a bridge channel, or 320 + a die for its SRAMs. -/
def siteUnit (site : Nat) : Nat × Nat :=
  if site < 256 then (1 + site / 64, site % 64) else if site < 320 then (5 + (site - 256) / 32, (site - 256) % 32) else (site - 320, 0)

/-- Count corrections at a site: the first of a window is logged, and EV_CE_RATE is raised when the count first exceeds the threshold, with
the channel that has the most. -/
def countCorrected (s : State) (site n : Nat) : State :=
  let g := s.units.integ
  let first := nmGet 0 g.ceBy site = 0
  let by_ := nmSet g.ceBy site (nmGet 0 g.ceBy site + n)
  let s := { s with units := { s.units with integ := { g with ceNow := g.ceNow + n, ceBy := by_ } } }
  let s := if first then logRecordFree s 0x01 (siteUnit site).1 (siteUnit site).2 0 0xF else s
  let top := (by_.filter fun e => e.1 < 320).foldl (fun (b : Nat × Nat) e => if b.2 < e.2 then e else b) (0, 0)
  let chan := if top.1 < 256 then top.1 else top.1 - 256
  if s.cfg.live.policy.ceThreshold ≠ 0 && s.cfg.live.policy.ceThreshold < s.units.integ.ceNow && !s.units.integ.ceRaised then
    let s := { s with units := { s.units with integ := { s.units.integ with ceRaised := true } } }
    let (s, w) := takeNat s
    raiseAll s evCeRate (BitVec.ofNat 64 w) (BitVec.ofNat 64 (s.units.integ.ceNow % 2 ^ 32 + chan % 2 ^ 16 * 2 ^ 32))
  else s

/-! ### What an array read finds (R426, R427, R431, R484) -/

/-- A sector that the decoder has corrected is counted for its channel (Table 10 of *Stacks, channels and the hint cache*). -/
def countSector (s : State) (ch : Nat) : State :=
  countCorrected (updChan s ch fun x => { x with ce := satInc x.ce }) ch 1

/-- The stored bits of a place decode as they stand: nothing differs any more. -/
def mendPlace (s : State) (id : Nat) : State := { s with mem := { s.mem with flips := nmErase s.mem.flips id } }

/-- The array read of one stored sector of D-space at `a`: a corrected sector is written back (R427), an uncorrectable one poisons its
granule (R548); the mark of a poisoned granule is neither corrected nor counted (R550). -/
def readStored (s : State) (a : Nat) : State :=
  match (sectorAt s a).bind fun id => (nmGet? s.mem.flips id).map fun e => (id, e) with
  | none => s
  | some (id, e) =>
    if s.mem.poison.contains (a / 64) then s
    else
      let w := flipBytes (rsWord (dRead s a 32)) e
      let put := fun (s : State) (w : List Byte) => if cachedAt s a then s else setArray s a (w.take 32)
      match rsDecode w with
      | .clean => put (mendPlace s id) w
      | .corrected w => put (countSector (mendPlace s id) ((channelOf s a).getD 0)) w
      | .uncorrectable => detectUe s a
      | .poisoned => detectUe s a

/-- The array read of a stored sector that holds nobody's data: `data` is what it was written with, and the decoder's findings are counted. -/
def readIdle (data : List Byte) (ch : Nat) (s : State) (id : Nat) : State :=
  match nmGet? s.mem.flips id with
  | none => s
  | some e =>
    match rsDecode (flipBytes (rsWord data) e) with
    | .clean => mendPlace s id
    | .corrected _ => countSector (mendPlace s id) ch
    | .uncorrectable => updChan s ch fun x => { x with ue := satInc x.ue }
    | .poisoned => s

/-- Mark a P-space row as one with an uncorrectable sector. -/
def markPRow (s : State) (a : Nat) : State := { s with mem := { s.mem with pbad := insertNat a s.mem.pbad } }

/-- The activation of sector `k` of a P-space row: a corrected sector is restored to the array and counted, and a row with an uncorrectable
one is marked (R472). -/
def activateSector (a : Nat) (s : State) (k : Nat) : State :=
  let id := 32 * rowPlace s.cfg.live a + k
  match nmGet? s.mem.flips id with
  | none => s
  | some e =>
    let data := leBytes 32 ((pRow s a).toNat / 2 ^ (256 * k) % 2 ^ 256)
    let w := flipBytes (rsWord data) e
    let put := fun (s : State) (w : List Byte) =>
      let d := leNat (flipBytes data (w.take 32)) * 2 ^ (256 * k)
      if d = 0 then s else { s with mem := { s.mem with prows := nmSet s.mem.prows a (pRow s a ^^^ BitVec.ofNat 8192 d) } }
    match rsDecode w with
    | .clean => put (mendPlace s id) w
    | .corrected w => put (countSector (mendPlace s id) (pChannel a)) w
    | .uncorrectable => markPRow s a
    | .poisoned => markPRow s a

/-- The activation of a P-space row, all its sectors checked (R472). -/
def activateRow (s : State) (a : Nat) : State := if s.mem.flips.isEmpty then s else (List.range 32).foldl (activateSector a) s

/-- Change a bridge channel's counters of link ECC (Table 10 of *Capacity tier and migration*). -/
def updLecc (s : State) (ch : Nat) (f : Nat × Nat × Nat → Nat × Nat × Nat) : State :=
  { s with units := { s.units with tier := { s.units.tier with lecc := nmSet s.units.tier.lecc ch (f (nmGet (0, 0, 0) s.units.tier.lecc ch)) } } }

/-- The read of one burst of a bridge channel: bursts that link ECC corrects are counted, a failing read is reissued up to 4 times, and one
that fails all 5 attempts is uncorrectable for its granule (R484). -/
def readBurst (s : State) (a : Nat) : State :=
  match (burstOf s a).bind fun id => (nmGet? s.units.tier.links id).map fun x => (id, x) with
  | none => s
  | some (id, fails, corr) =>
    let ch := (lpChannelOf s a).getD 0
    let s := { s with units := { s.units with tier := { s.units.tier with links := nmErase s.units.tier.links id } } }
    let s := updLecc s ch fun c => (satTo 0xFFFF (c.1 + corr), satTo 0xFF (c.2.1 + min fails 4), c.2.2)
    let s := if corr = 0 then s else countCorrected s (256 + ch) corr
    if 5 ≤ fails then
      if s.mem.poison.contains (a / 64) then s
      else detectUe (updLecc s ch fun c => (c.1, c.2.1, satTo 0xFF (c.2.2 + 1))) a
    else s

/-- One 32 B of a range as its home reads it: from its cache, or from the array or a bridge channel. -/
def readPlace (s : State) (b : Nat) : State :=
  if cachedAt s (32 * b) then s else readBurst (readStored s (32 * b)) (32 * b)

/-- A read at the homes of a range: what reaches a failed channel is uncorrectable (R431), and the arrays' decoders and the bridges' link
ECC do their part for what no cache holds. -/
def detectRead (s : State) (a n : Nat) : State :=
  let s := forgetUnlisted s a n
  let s := (failedGranules s a n).foldl (fun s g => detectUe s (64 * g)) s
  if s.mem.flips.isEmpty && s.units.tier.links.isEmpty then s else (blocksOf 32 a n).foldl readPlace s

/-- The read that merges a write into the stored sectors that it covers in part (R439, Table 5). -/
def mergeRead (s : State) (a n : Nat) : State :=
  let s := forgetUnlisted s a n
  if s.mem.flips.isEmpty && s.units.tier.links.isEmpty then s
  else ((blocksOf 32 a n).filter fun b => !(wholeSectors a n).contains b).foldl readPlace s

/-- Some ranges are read at their homes, for a command or by an engine of the package: HOLD on their channels ends (Table 7 of *Pips*), and
the decoders of the arrays and the bridges' link ECC do their part, as for every reader (R548). -/
def reach (s : State) (l : List (Nat × Nat)) : State := l.foldl (fun s x => detectRead (releaseHold s x.1 x.2) x.1 x.2) s

/-- The same for those of the ranges that no home holds. -/
def reachFree (s : State) (l : List (Nat × Nat)) : State := reach s (l.filter fun x => !readHeld s x.1 x.2)

end Sys2Proof.Machine
end

