-- ==== Sys2Proof/Machine/Access.lean ====
section
/-! DEFINITION. Reads and writes of D-space as host ports and commands make them: the hint caches and their visitor copies
(R432 to R439), gather ranges (R46), transaction groups (R284), never-written and poisoned granules (R95, R554, R555). -/

namespace Sys2Proof.Machine

/-! ### Home caches (R432 to R437; *The hint cache*) -/

/-- Sets of a home cache: 32,768 of a hint cache, 8,192 of a bridge home cache (R28; log 21). -/
def cacheSet (die line : Nat) : Nat :=
  let x := line % 2 ^ 15 ^^^ line / 2 ^ 15 % 2 ^ 15
  if die < 4 then x else x % 8192

/-- Protected lines a set may hold. -/
def keepCap (s : State) (die : Nat) : Nat :=
  if die < 4 then min 10 ((regGet s (dieBase die + 0x200) 0x48).toNat % 16) else 8

/-- Visitor lines a set may hold. -/
def visitorCap (s : State) (die : Nat) : Nat :=
  if die < 4 then min 4 ((regGet s (dieBase die + 0x200) 0x48).toNat / 16 % 8) else 4

/-- Lines of one set of a die. -/
def setLines (s : State) (die line : Nat) : List CacheLine :=
  s.units.cache.filter fun l => l.die = die && cacheSet die l.line = cacheSet die line

/-- Replace the cached lines. -/
def setCache (s : State) (l : List CacheLine) : State := { s with units := { s.units with cache := l } }

/-- Whether an entry is the line of a die, as home line or as visitor. -/
def isLine (die line : Nat) (visitor : Bool) (l : CacheLine) : Bool :=
  l.die = die && l.line = line && l.visitor.isSome = visitor

/-- A cached line. -/
def findLine (s : State) (die line : Nat) (visitor : Bool) : Option CacheLine := s.units.cache.find? (isLine die line visitor)

/-- Drop a line, without write-back. -/
def dropLine (s : State) (die line : Nat) (visitor : Bool) : State :=
  setCache s (s.units.cache.filter fun l => !isLine die line visitor l)

/-- Evict a line: its dirty sectors are first written back (R432). -/
def evictLine (s : State) (die line : Nat) (visitor : Bool) : State :=
  dropLine (match findLine s die line visitor with | some l => writeBack s l | none => s) die line visitor

/-- Write every dirty sector of some lines back; they stay as Clean (R432). -/
def flushLines (s : State) (p : CacheLine → Bool) : State :=
  let s := (s.units.cache.filter p).foldl writeBack s
  let clean := fun (st : SectorState) => if st = .dirty then SectorState.clean else st
  setCache s (s.units.cache.map fun l => if p l then { l with s0 := clean l.s0, s1 := clean l.s1, under0 := [], under1 := [] } else l)

/-- The line that replacement chooses in a full set (R436), or the oldest visitor where one more would pass the cap. -/
def victim (s : State) (die line : Nat) (visitor : Bool) : Option CacheLine :=
  let set := setLines s die line
  let visitors := set.filter fun l => l.visitor.isSome
  if visitor && visitorCap s die ≤ visitors.length then visitors.head?
  else if set.length < 16 then none
  else if visitors.length < visitorCap s die then
    match set.find? fun l => !l.prot && l.visitor.isNone with
    | some l => some l
    | none => set.find? fun l => !l.prot
  else set.find? fun l => !l.prot

/-- Whether a base die's hint cache is out of service after an internal test (R763). -/
def cacheOut (s : State) (die : Nat) : Bool :=
  s.units.tap.out.any fun c => match c with
    | .hintCache n => decide (n.val = die)
    | .ue _ => false
    | .channel _ => false
    | .other _ _ => false

/-- Put a line at the most recently used end, replacing its former entry or a victim. -/
def putLine (s : State) (l : CacheLine) : State :=
  if cacheOut s l.die then s else
  let had := (findLine s l.die l.line l.visitor.isSome).isSome
  let s := if had then dropLine s l.die l.line l.visitor.isSome
    else match victim s l.die l.line l.visitor.isSome with
      | some v => evictLine s v.die v.line v.visitor.isSome
      | none => s
  setCache s (s.units.cache ++ [l])

/-- Count in a register of a base die's hint cache; a bridge home cache has none. -/
def hcCount (s : State) (die off : Nat) : State := if die < 4 then regCount s (dieBase die + off) 1 else s

/-- Whether a set takes one more protected line (R435). -/
def keepRoom (s : State) (die line : Nat) : Bool :=
  ((setLines s die line).filter fun l => l.prot && l.line ≠ line).length < keepCap s die

/-- Whether an access of a hint protects its line, counting a denial; a line that is protected already stays so (R435, R447). -/
def keepsLine (s : State) (die line hint : Nat) : State × Bool :=
  if hint = 2 then
    if (findLine s die line false).any (·.prot) || keepRoom s die line then (s, true) else (hcCount s die 0x20C, false)
  else (s, false)

/-- An empty line of a die. -/
def lineBlank (die line : Nat) : CacheLine := ⟨die, line, .invalid, .invalid, false, none, [], []⟩

/-- Whether an adder's buffer holds the chunk of an address: the home reads it from there (R438). -/
def inAdder (s : State) (a : Nat) : Bool := s.units.adders.any fun c => c.2.contains (a / 256)

/-- Both sectors of a line fetched, those that it holds as they are. -/
def fillLine (l : CacheLine) : CacheLine :=
  { l with s0 := if l.s0 = .invalid then .clean else l.s0, s1 := if l.s1 = .invalid then .clean else l.s1 }

/-- A read of one 64 B sector, or part of one, at its home (Table 5, R438, R439); `small` marks a part of at most 32 B. -/
def homeReadSector (hint : Nat) (small : Bool) (s : State) (a : Nat) : State :=
  let die := homeDie s a
  let line := a / 128
  let k := a / 64 % 2
  let l := (findLine s die line false).getD (lineBlank die line)
  if inAdder s a then s
  else if sectorOf l k ≠ .invalid then
    let s := hcCount s die 0x204
    if hint = 3 then evictLine s die line false
    else
      let (s, keep) := keepsLine s die line hint
      putLine s { l with prot := l.prot || keep }
  else
    let s := hcCount s die 0x208
    if hint = 3 || hint = 1 then s
    else
      let (s, keep) := keepsLine s die line hint
      if keep then putLine s { (if small then setSector l k .clean else fillLine l) with prot := true }
      else if small then s
      else putLine s (setSector l k .clean)

/-- A write of one 64 B sector, or part of one, at its home (Table 5, R439): a small write that misses goes to the array. -/
def homeWriteSector (hint : Nat) (small : Bool) (s : State) (a : Nat) : State :=
  let die := homeDie s a
  let line := a / 128
  let k := a / 64 % 2
  let l := (findLine s die line false).getD (lineBlank die line)
  if inAdder s a then s
  else if sectorOf l k = .invalid && (hint = 1 || hint = 3 || small) then s
  else
    let (s, keep) := keepsLine s die line hint
    putLine s { dirtySector s l k with prot := l.prot || keep }

/-! ### Gather ranges (R46) -/

/-- The address that an address of a gather range reaches at present; any other address reaches itself. -/
def gatherMap (s : State) (a : Nat) : Nat :=
  match (List.zipIdx s.cfg.live.dmap.gathers).find? fun x => x.1.copy1.isSome && inRange a x.1.base x.1.bytes with
  | some x => gatherCopy s x.2 x.1 true + (a - x.1.base)
  | none => a

/-- The pieces of memory that a range reaches: itself, or its 64 B blocks where it meets a gather range. -/
def pieces (s : State) (a n : Nat) : List (Nat × Nat) :=
  if n = 0 then []
  else if s.cfg.live.dmap.gathers.any fun g => g.copy1.isSome && meets a n g.base g.bytes then
    (blocksOf 64 a n).map fun b => let lo := max a (64 * b); (gatherMap s lo, min (a + n) (64 * b + 64) - lo)
  else [(a, n)]

/-- Bytes of the current values at their homes. -/
def homeBytes (s : State) (a n : Nat) : List Byte := (pieces s a n).flatMap fun x => dRead s x.1 x.2

/-- Whether a read is held at a home. -/
def piecesHeld (s : State) (a n : Nat) : Bool := (pieces s a n).any fun x => readHeld s x.1 x.2

/-- Whether a range meets a poisoned granule. -/
def piecesPoison (s : State) (a n : Nat) : Bool := (pieces s a n).any fun x => poisonIn s x.1 x.2

/-- Never-written 4 KiB granules of a range, each counted once. -/
def piecesFresh (s : State) (a n : Nat) : Nat :=
  (((pieces s a n).flatMap fun x => blocksOf 4096 x.1 x.2).eraseDups.filter fun g => !s.mem.written.contains g).length

/-- Bytes of a range with those of poisoned granules replaced by 0 (Table 2). -/
def zeroPoison (s : State) (a : Nat) (bs : List Byte) : List Byte :=
  if s.mem.poison.isEmpty then bs
  else (List.zipIdx bs).map fun x => if s.mem.poison.contains (gatherMap s (a + x.2) / 64) then 0 else x.1

/-! ### Stale copies (R86 to R88) -/

/-- A visitor copy that may serve a read of a tenant. -/
def visitorFor (s : State) (die : Nat) (t : BitVec 4) (a : Nat) : Option (List Byte) :=
  match findLine s die (a / 128) true with
  | some l =>
    match l.visitor with
    | some v => if sectorOf l (a / 64 % 2) ≠ .invalid && v.tenant = t && v.gen = nmGet 0 s.mem.gens t.toNat then
        some ((v.data.drop (a / 64 % 2 * 64)).take 64) else none
    | none => none
  | none => none

/-- Keep a visitor copy of a far sector in a base die's hint cache. -/
def keepVisitor (s : State) (die : Nat) (t : BitVec 4) (a : Nat) : State :=
  if visitorCap s die = 0 then s
  else
    let line := a / 128
    let k := a / 64 % 2
    let gen := nmGet 0 s.mem.gens t.toNat
    let bytes := homeBytes s (64 * (a / 64)) 64
    let old := match findLine s die line true with
      | some l => match l.visitor with
        | some v => if v.tenant = t && v.gen = gen then some (l, v) else none
        | none => none
      | none => none
    match old with
    | some (l, v) => putLine s { setSector l k .clean with visitor := some { v with
        data := if k = 0 then bytes ++ v.data.drop 64 else v.data.take 64 ++ bytes } }
    | none => putLine s { setSector (lineBlank die line) k .clean with
        visitor := some ⟨t, gen, if k = 0 then bytes ++ List.replicate 64 0 else List.replicate 64 0 ++ bytes⟩ }

/-- Whether the part of the range `a`, `n` that lies in the sector at `b` takes the small-access path: at most 32 B (R439; log 130). -/
def smallPart (a n b : Nat) : Bool := decide (min (a + n) (b + 64) - max a b ≤ 32)

/-- One sector of a read by a requester of base die `die`: a far sector under NORMAL or KEEP may come from a visitor copy, which becomes the
most recently used line of its set, and may leave one, as the bits of a free number choose (R87, R436). `at_` is the address that the
sector's address reaches. -/
def readSector (die : Nat) (t : BitVec 4) (hint : Nat) (a0 n : Nat) (at_ : Nat → Nat) (acc : State × List Byte × Nat) (a : Nat) :
    State × List Byte × Nat :=
  let (s, out, m) := acc
  let s := releaseHold s (at_ a) 64
  let far := homeDie s (at_ a) ≠ die && (hint = 0 || hint = 2)
  let next := m / 4
  match (if far && m % 2 = 1 then visitorFor s die t a else none) with
  | some bytes => (match findLine s die (a / 128) true with | some l => putLine (hcCount s die 0x204) l | none => s, out ++ bytes, next)
  | none =>
    let bytes := dRead s (at_ a) 64
    let s := homeReadSector hint (smallPart a0 n a) s (at_ a)
    (if far && m / 2 % 2 = 1 then keepVisitor s die t a else s, out ++ bytes, next)

/-- A read of a range by a requester of base die `die`, its sectors reached through `at_`: the state after it and the bytes. -/
def readBy (s : State) (die : Nat) (t : BitVec 4) (hint a n : Nat) (at_ : Nat → Nat) : State × List Byte :=
  if n = 0 then (s, [])
  else
    let (s, m) := takeNat s
    let lo := 64 * (a / 64)
    let r := ((blocksOf 64 a n).map (· * 64)).foldl (readSector die t hint a n at_) (s, [], m)
    (r.1, (r.2.1.drop (a - lo)).take n)

/-- A read of a range by a requester of base die `die`, gather ranges mapped as they stand (R46). -/
def readThrough (s : State) (die : Nat) (t : BitVec 4) (hint a n : Nat) : State × List Byte := readBy s die t hint a n (gatherMap s)

/-- A write of bytes at their homes by a requester, keeping the home caches. -/
def writeThrough (s : State) (hint a : Nat) (bs : List Byte) : State :=
  let s := ((blocksOf 64 a bs.length).map (· * 64)).foldl (fun s b => homeWriteSector hint (smallPart a bs.length b) s b) s
  dWrite s a bs

/-! ### Accesses of commands -/

/-- The transaction group that an operation belongs to (R283; of several, the one opened last, log 39). -/
def groupOf (s : State) (o : Op) : Option Nat :=
  ((s.step.txgs.filter fun g => g.queue = o.queue && decide (g.order < o.order) &&
      !(s.fe.ops.any fun e => e.queue = o.queue && dOpcode e.desc = opTxgEnd && dField e.desc 24 1 = g.group &&
        decide (g.order < e.order) && decide (e.order < o.order))).foldl
    (fun (b : Option Txg) g => match b with | some x => if x.order < g.order then some g else b | none => some g) none).map (·.group)

/-- An operation's read of local D-space: the bytes, with a group's own new data over the old (R284). -/
def opRead (s : State) (o : Op) (a n : Nat) : State × List Byte :=
  let s := detectRead s a n
  let (s, bytes) := readThrough s (queueDie s.cfg.live o.queue) o.tenant (dHint o.desc) a n
  match (groupOf s o).bind fun g => s.step.txgs.find? fun x => x.group = g with
  | none => (s, bytes)
  | some g => (s, (List.zipIdx bytes).map fun x =>
      match nmGet? g.lines ((a + x.2) / 128) with
      | some l => l.getD ((a + x.2) % 128) 0
      | none => x.1)

/-- An operation's plain write of local D-space. -/
def opWrite (s : State) (o : Op) (a : Nat) (bs : List Byte) : State := writeThrough s (dHint o.desc) a bs

end Sys2Proof.Machine
end

