-- ==== Sys2Proof/Machine/HostPort.lean ====
section
/-! DEFINITION. Host-transport reads, writes, push writes and doorbells (*Host port, commands and handles*, R111 to R118, R123,
R768, R769), the requests that a home holds, and the fetch of a descriptor (R127). -/

namespace Sys2Proof.Machine

/-- Whether a request's tenant is allowed on the module group that carries it (R113). -/
def reqAllowed (s : State) (r : HostReq) : Bool := (nmGet 0 s.cfg.live.groups (r.module.val / 4)).getLsbD r.tenant.toNat

/-- Why a request is refused before it reaches its home: tenant, alignment (R768; DEDUCED, log 33), partition, mapping. -/
def readRefusal (s : State) (r : HostReq) (n : Nat) : Option Status :=
  let a := r.addr.toNat
  if !reqAllowed s r then some stBounds
  else if a % n ≠ 0 then some stAlign
  else if !dReadable s r.tenant a n then some stBounds
  else if !dMapped s a n then some stRange
  else none

/-- Whether an earlier held request of the same module meets the range (R78). -/
def heldMeets (held : List HeldReq) (r : HostReq) (n : Nat) : Bool :=
  held.any fun h => match h.who with
    | .request _ q => q.module = r.module && meets q.addr.toNat 64 r.addr.toNat n
    | .command _ => false

/-- A home holds a request that reaches `loc`; at channels in processor mode it waits in the order of its arrival (R74). -/
def holdRequest (s : State) (type : Nat) (r : HostReq) (loc n : Nat) : State :=
  { s with fe := { s.fe with held := s.fe.held ++ [⟨.request (BitVec.ofNat 8 type) r, orderChans s [(loc, n)], loc⟩] } }

/-! ### Reads -/

/-- A usable read-ahead entry that holds a whole range. -/
def aheadFor (s : State) (r : HostReq) (n : Nat) : Option (List Byte) :=
  (s.mem.copies.find? fun c => c.module = r.module.val && c.tenant = r.tenant && c.gen = nmGet 0 s.mem.gens r.tenant.toNat &&
    decide (c.addr ≤ r.addr.toNat) && decide (r.addr.toNat + n ≤ c.addr + c.data.length)).map fun c =>
      (c.data.drop (r.addr.toNat - c.addr)).take n

/-- Take read-ahead data after a STREAM read: a run of up to 8 KiB whose length is free (R86; log 47), none of it never-written (R95). -/
def takeAhead (s : State) (r : HostReq) (n : Nat) : State :=
  let (s, k) := takeNat s
  let a := r.addr.toNat + n
  let len := 64 * (k % 129)
  if len ≠ 0 && dReadable s r.tenant a len && dMapped s a len && !piecesHeld s a len && !piecesPoison s a len &&
      piecesFresh s a len = 0 then
    { s with mem := { s.mem with copies := (s.mem.copies.filter fun c => c.module ≠ r.module.val) ++
      [⟨r.module.val, r.tenant, nmGet 0 s.mem.gens r.tenant.toNat, a, homeBytes s a len⟩] } }
  else s

/-- Bytes at `loc` with those of poisoned granules replaced by 0 (Table 2 of *Replica digests, error correction and error reports*). -/
def zeroAt (s : State) (loc : Nat) (bs : List Byte) : List Byte :=
  if s.mem.poison.isEmpty then bs
  else (List.zipIdx bs).map fun x => if s.mem.poison.contains ((loc + x.2) / 64) then 0 else x.1

/-- The answer of a read that its home accepts at `loc`: bytes, poison and never-written granules (R95, R555). A read that its home held
across a write of UNWR_STATUS answers under the new value (R106; DESIGN CHOICE, log 131). -/
def readHome (s : State) (r : HostReq) (n loc : Nat) : State × Status × List Byte :=
  let a := r.addr.toNat
  let fresh := freshIn s loc n
  let poison := poisonIn s loc n
  let (s, bytes) := readBy s (dieOf r) r.tenant r.hint.toNat a n fun x => loc - (a - x)
  let s := countUninit s r.tenant (min fresh 1)
  (s, if poison then stPoison else if 0 < fresh && unwrStatus s r.tenant then stUnwritten else stOk, zeroAt s loc bytes)

/-- A read at its home, which reaches `loc`: held, or served and answered. -/
def serveRead (s : State) (type : Nat) (r : HostReq) (n loc : Nat) : State :=
  let s := detectRead s loc n
  if heldMeets s.fe.held r n || readHeld s loc n || !(orderChans s [(loc, n)]).isEmpty then holdRequest s type r loc n
  else
    let (s, b) := takeBit s
    match (if r.hint = 1 && b then aheadFor s r n else none) with
    | some bytes => respond s r stOk bytes
    | none =>
      let (s, st, bytes) := readHome s r n loc
      let s := if r.hint = 1 then takeAhead s r n else s
      respond s r st bytes

/-- A host-transport read of `n` bytes; its home fixes the copy of a gather range as it accepts it (R46). -/
def hostRead (s : State) (type : Nat) (r : HostReq) (n : Nat) : State :=
  match readRefusal s r n with
  | some st => respond s r st (List.replicate n 0)
  | none => serveRead s type r n (gatherMap s r.addr.toNat)

/-! ### Writes -/

/-- The owner that a discarded write to an engine-owned address, the image store, a shared region or a gather range is
reported to (R52, R166, R559; log 45). -/
def protectedOwner (s : State) (a n : Nat) : Option (BitVec 4) :=
  match engineOwner s a n with
  | some t => some t
  | none =>
    if meetsShared s a n then some s.cfg.live.control
    else (s.cfg.live.dmap.gathers.find? fun g => meets a n g.base g.bytes).map (·.tenant)

/-- A write that R52 discards: counted, and EV_OWNED_WRITE raised to the owner. -/
def ownedWrite (s : State) (r : HostReq) (owner : BitVec 4) : State :=
  respond (raiseEventFree (regCount s 0xA4 1) owner.toNat evOwnedWrite (BitVec.ofNat 64 r.addr.toNat) 0) r stBounds []

/-- Copies that the writing module must not read again drop what the write covers (R78). -/
def dropOwnCopies (s : State) (r : HostReq) (n : Nat) : State :=
  let a := r.addr.toNat
  let s := (blocksOf 128 a n).foldl (fun s l => dropLine s (dieOf r) l true) s
  { s with mem := { s.mem with copies := s.mem.copies.filter fun c =>
      !(c.module = r.module.val && meets c.addr c.data.length a n) } }

/-- A write at its home: held, or landed and answered (R112, R554). -/
def serveWrite (s : State) (type : Nat) (r : HostReq) (n : Nat) : State :=
  let a := r.addr.toNat
  if heldMeets s.fe.held r n || writeHeld s none a n || !(orderChans s [(a, n)]).isEmpty then holdRequest s type r a n
  else if poisonCut s a n then respond s r stPoison []
  else
    let s := dropOwnCopies s r n
    respond (writeThrough s r.hint.toNat a (padTo n 0 (r.data.take n))) r stOk []

/-! ### Held requests -/

/-- Serve one held access again; a command's keeps its place until the command runs. -/
def serveOne (s : State) (h : HeldReq) : State :=
  match h.who with
  | .request type r =>
    if type = 0x01 then serveRead s 0x01 r 64 h.loc
    else if type = 0x03 then serveRead s 0x03 r 32 h.loc
    else if type = 0x02 then serveWrite s 0x02 r 64
    else serveWrite s 0x04 r 32
  | .command c => if (findOp s c).any opLive then { s with fe := { s.fe with held := s.fe.held ++ [h] } } else s

/-- Serve the held requests in the order of their arrival; those that still wait are held again. -/
def serveAll (s : State) : State := s.fe.held.foldl serveOne { s with fe := { s.fe with held := [] } }

/-- The owner that EV_REPAIRED names when a refetch lands: that of an active gather copy. -/
def refetchOwner (s : State) (g : Nat) : Option (BitVec 4) :=
  match regionOf s (64 * g) with
  | .gatherActive i _ => (s.cfg.live.dmap.gathers[i]?).map fun b => b.tenant
  | _ => none

/-- Report a refetch that has landed. -/
def reportRefetch (s : State) (r : Refetch) : State :=
  match refetchOwner s r.granule with
  | some t => raiseEventFree (logRecordFree s 0x03 0 0 (64 * r.granule) t.toNat) t.toNat evRepaired (BitVec.ofNat 64 (64 * r.granule)) 0
  | none => logRecordFree s 0x03 0 0 (64 * r.granule) 0xF

/-- Refetches that are over: they leave the list and are reported. -/
def endRefetches (s : State) (gone : List Refetch) : State :=
  gone.foldl reportRefetch { s with units := { s.units with integ := { s.units.integ with
    refetch := s.units.integ.refetch.filter fun r => !gone.contains r } } }

/-- Something that held requests waited for has changed: they are served (R74, R102, R103). A held write that ends the poison of a
granule ends its refetch (R563), and reads held for that are served after it. -/
def serveHeld (s : State) : State :=
  let t := serveAll s
  let gone := t.units.integ.refetch.filter fun r => s.mem.poison.contains r.granule && !t.mem.poison.contains r.granule
  if gone.isEmpty then t else serveAll (endRefetches t gone)

/-- A write has landed on granules under refetch (R561, R563): the refetch ends, and held reads are served. -/
def refetchLanded (s : State) (a n : Nat) : State :=
  let gone := s.units.integ.refetch.filter fun r => !s.mem.poison.contains r.granule && meets a n (64 * r.granule) 64
  if gone.isEmpty then s
  else serveHeld (endRefetches s gone)

/-! ### Host writes -/

/-- A host-transport write of `n` bytes; one that lands ends the refetch of what it covers (R563). -/
def hostWrite (s : State) (type : Nat) (r : HostReq) (n : Nat) : State :=
  let a := r.addr.toNat
  if !reqAllowed s r then respond s r stBounds []
  else if a % n ≠ 0 then respond s r stAlign []
  else match protectedOwner s a n with
    | some t => ownedWrite s r t
    | none =>
      if !dOwned s r.tenant a n then respond s r stBounds []
      else if !dMapped s a n then respond s r stRange []
      else refetchLanded (serveWrite s type r n) a n

/-! ### The commands -/

/-- MRD64 (R111, R768). -/
def execMrd64 (r : HostReq) (s : State) : Host.Outcome State Fault Refusal := .next (hostRead s 0x01 r 64)

/-- SRD32 (R439). -/
def execSrd32 (r : HostReq) (s : State) : Host.Outcome State Fault Refusal := .next (hostRead s 0x03 r 32)

/-- SWR32 (R439). -/
def execSwr32 (r : HostReq) (s : State) : Host.Outcome State Fault Refusal :=
  .next (hostWrite s 0x04 r 32)

/-- A push write, checked in the order of R115. -/
def pushWrite (s : State) (r : HostReq) : State :=
  if !reqAllowed s r then respond s r stBounds []
  else if !(planeQueue s.cfg.live (pushQueue r)).en then respond s r stBadField []
  else if queueDie s.cfg.live (pushQueue r) ≠ dieOf r then respond s r stBadField []
  else if r.tenant ≠ (planeQueue s.cfg.live (pushQueue r)).tenant then respond s r stBounds []
  else pushAccept s r

/-- PUSH_WRITE (R115, R116). -/
def execPushWrite (r : HostReq) (s : State) : Host.Outcome State Fault Refusal := .next (pushWrite s r)

/-- A piece that the push buffer has held for 1 ms with no matching ACCUM fetched is discarded, and room may let waiting
pieces in (R117). -/
def pushOrphan (q : Nat) (id : BitVec 16) (off : BitVec 20) (s : State) : State :=
  match s.fe.push.find? fun x => x.queue = q && x.pushId = id && x.offset = off with
  | none => s
  | some x =>
    let s := { s with fe := { s.fe with push := s.fe.push.filter fun y => y ≠ x } }
    let s := raiseEventFree s x.tenant.toNat evPushOrphan (BitVec.ofNat 64 q) 0
    admitPush s

/-- PUSH_ORPHAN_TIMEOUT (R117). -/
def execPushOrphanTimeout (queue : Fin 256) (pushId : BitVec 16) (offset : BitVec 20) (s : State) :
    Host.Outcome State Fault Refusal := .next (pushOrphan queue.val pushId offset s)

/-- MWR64 (R112): ATTR 0 a write, ATTR 1 a push write; 2 and 3 are undefined values (DEDUCED, log 34). -/
def execMwr64 (r : HostReq) (s : State) : Host.Outcome State Fault Refusal :=
  .next (if r.attr = 0 then hostWrite s 0x02 r 64
    else if r.attr = 1 then pushWrite s r
    else if !reqAllowed s r then respond s r stBounds [] else respond s r stBadField [])

/-- Offset of a doorbell page (R122). -/
def doorbellPage : Nat := 0x02000000

/-- Whether an offset is an SQ_TAIL field, and of which queue (R769). -/
def sqTailOf (off : Nat) : Option Nat :=
  if doorbellPage ≤ off && decide (off < doorbellPage + 0x100000) && off % 0x1000 = 0 then some ((off - doorbellPage) / 0x1000)
  else none

/-- The writes of the doorbell's module that their homes still hold precede the fetch of what it announces (R81). -/
def noteBell (s : State) (q : Nat) (m : Fin 64) : State :=
  let l := heldWrites s m
  if l.isEmpty then s else updQ s q fun c => { c with bell := (c.bell.filter (requestHeld s)) ++ l }

/-- A DB request (R81, R113, R123, R768, R769). -/
def dbRequest (s : State) (r : HostReq) : State :=
  if !reqAllowed s r then respond s r stBounds []
  else if r.addr.toNat % 4 ≠ 0 then respond s r stAlign []
  else match sqTailOf r.addr.toNat with
    | none => respond s r stBadField []
    | some q =>
      let x := doorbell s q r.tenant (BitVec.ofNat 32 (leNat (r.data.take 4)))
      respond (if x.2 = stOk then noteBell x.1 q r.module else x.1) r x.2 []

/-- DB (R123). -/
def execDb (r : HostReq) (s : State) : Host.Outcome State Fault Refusal := .next (dbRequest s r)

/-- BAD_TYPE_REQUEST (R111); R113 comes first. -/
def execBadTypeRequest (type : BitVec 8) (r : HostReq) (s : State) : Host.Outcome State Fault Refusal :=
  .next (if type.toNat ∈ [0x01, 0x02, 0x03, 0x04, 0x08, 0x09, 0x0A] then s
    else respond s r (if reqAllowed s r then stBadOp else stBounds) [])

/-! ### Descriptor fetch -/

/-- The address of descriptor H of a queue. -/
def fetchAddr (s : State) (q : Nat) : Nat :=
  let par := planeQueue s.cfg.live q
  par.sqBase.toNat + 64 * ((qOf s q).h.toNat % par.sqEntries.toNat)

/-- Fetch descriptor H of a queue, check it, and let it go as far as its gates allow (R127, R142). -/
def fetchDescriptor (q : Nat) (s0 : State) : State :=
  let s := if canFetch s0 q then reach s0 [(fetchAddr s0 q, 64)] else s0
  if canFetch s q then
    let par := planeQueue s.cfg.live q
    let c := qOf s q
    let a := fetchAddr s q
    let o := newOp s q (BitVec.ofNat 512 (leNat (dRead s a 64)))
    let fail := firstFailure s o
    let cur := usesCursor o.desc && fail.isNone
    let o := { o with failed := fail, cursor := if cur then c.cursor.toNat else 0 }
    let o := { o with pieces := (s.fe.push.filter (claims o)).foldl (fun l x => addPiece l x.offset.toNat x.data) [] }
    let ops := s.fe.ops.filter fun x => !(x.queue = q && x.number.toNat % par.sqEntries.toNat = c.h.toNat % par.sqEntries.toNat)
    let s := updQ s q fun c => { c with
      h := c.h + 1, cursor := if cur then c.cursor + BitVec.ofNat 64 (drawsUsed o.desc) else c.cursor }
    settle (admitPush { s with fe := { s.fe with
      ops := ops ++ [o], fetched := s.fe.fetched + 1, push := s.fe.push.filter fun x => !claims o x } })
  else s

/-- DESCRIPTOR_FETCH (R127). -/
def execDescriptorFetch (queue : Fin 256) (s : State) : Host.Outcome State Fault Refusal := .next (fetchDescriptor queue.val s)

end Sys2Proof.Machine
end

