-- ==== Sys2Proof/Machine/Digests.lean ====
section
/-! DEFINITION. Tile digests and digest trees (R566 to R568): reading, recomputing and folding them. -/

namespace Sys2Proof.Machine

/-- Tiles of a shard's committed slot whose covered fields a range meets. -/
def touchedTiles (s : State) (n : Nat) (c : ShardCfg) (a len : Nat) : List Nat :=
  if meets a len c.stateBase (stateBytes c) then
    let k := committedSlot s n c
    (List.range (tileCount c)).filter fun t => (coveredFields c).any fun x => meets a len (fieldAddr c k t x.2) (blockBytes c)
  else []

/-- After a COPY, CONVERT or ZERO has written a range: the digests of the tiles it touches are recomputed (R568). -/
def recomputeTouched (s : State) (a len : Nat) : State :=
  s.cfg.live.shards.foldl (fun s e => (touchedTiles s e.1 e.2 a len).foldl (fun s t =>
    recomputeTile s e.2 (committedSlot s e.1 e.2) (committedDigest s e.1 e.2) t) s) s

end Sys2Proof.Machine
end

