-- ==== Sys2Proof/Machine/DataMove.lean ====
section
/-! DEFINITION. Operands of commands read and written, remote data, and the commands COPY, CONVERT, TRANSPOSE_IN,
TRANSPOSE_OUT, ZERO and SIGNAL. -/

namespace Sys2Proof.Machine

/-! ### Waiting for a group to open, and locks (R282 to R285, R104) -/

/-- A TXG_BEGIN fetched earlier on the queue is not yet Done, so whether the command belongs to its group is still open. -/
def beginPending (s : State) (o : Op) : Bool :=
  s.fe.ops.any fun x => x.queue = o.queue && decide (x.order < o.order) && opLive x && dOpcode x.desc = opTxgBegin

/-- A group. -/
def txgOf (s : State) (g : Nat) : Option Txg := s.step.txgs.find? fun x => x.group = g

/-- Change a group. -/
def updTxg (s : State) (g : Nat) (f : Txg → Txg) : State :=
  { s with step := { s.step with txgs := s.step.txgs.map fun x => if x.group = g then f x else x } }

/-- Bytes of write-set store in use at a home (R284). -/
def storeUsed (s : State) (die : Nat) : Nat :=
  128 * ((s.step.txgs.flatMap fun g => g.lines.map (·.1)).filter fun l => homeDie s (l * 128) = die).length

/-- Whether one more line fits the group's WSET and its home's store (R285). -/
def lineFits (s : State) (g : Txg) (line : Nat) : Bool :=
  decide (128 * (g.lines.length + 1) ≤ g.wset) &&
  decide (storeUsed s (homeDie s (line * 128)) + 128 ≤ if homeDie s (line * 128) < 4 then 2 ^ 24 else 2 ^ 22)

/-- Ask for the lock of a line: taken at once when Idle with no one waiting, else a request waits at the home's mutex (R102,
R104). -/
def askLock (s : State) (g line : Nat) : State :=
  match txgOf s g with
  | none => s
  | some x =>
    if x.lines.any fun l => l.1 = line then s
    else if (lockOf s line).isNone && !(s.step.locks.any fun w => w.line = line && !w.full) then
      updTxg s g fun x => { x with lines := nmSet x.lines line (dRead s (line * 128) 128) }
    else if s.step.locks.any fun w => w.line = line && w.group = g then s
    else { s with step := { s.step with locks := s.step.locks ++ [⟨line, g, 0, false⟩] } }

/-- What a group's write comes to. -/
inductive GroupWrite where
  | wait (s : State)
  | limit (s : State)
  | ok (s : State)

/-- An open group becomes doomed (R285). -/
def doomGroup (s : State) (g : Nat) : State := updTxg s g fun x => { x with state := if x.state = .open_ then .doomed else x.state }

/-- A write of a command of a group: its lines are locked, and the new data is kept in the write set (R284, R285). -/
def groupWrite (s : State) (g : Nat) (a : Nat) (bs : List Byte) : GroupWrite :=
  let lines := blocksOf 128 a bs.length
  match txgOf s g with
  | none => .ok s
  | some x =>
    let fresh := lines.filter fun l => !x.lines.any fun y => y.1 = l
    let fits := (fresh.foldl (fun (acc : State × Bool) l =>
      match txgOf acc.1 g with
      | some y => if lineFits acc.1 y l then (updTxg acc.1 g fun y => { y with lines := nmSet y.lines l [] }, acc.2) else (acc.1, false)
      | none => acc) (s, true)).2
    let full := fun (w : LockWait) => w.full && w.group = g && lines.contains w.line
    if !fits || s.step.locks.any full then
      let s := doomGroup s g
      .limit { s with step := { s.step with locks := s.step.locks.filter fun w => !full w } }
    else
      let s := lines.foldl (fun s l => askLock s g l) s
      match txgOf s g with
      | none => .ok s
      | some x =>
        if lines.all fun l => x.lines.any fun y => y.1 = l then
          .ok (updTxg s g fun x => { x with lines := x.lines.map fun l =>
            (l.1, (List.zipIdx l.2).map fun b =>
              let k := l.1 * 128 + b.2
              if a ≤ k && k < a + bs.length then bs.getD (k - a) 0 else b.1) })
        else .wait s

/-! ### Commands at channels in processor mode (R74) -/

/-- The local D-space ranges that a data command reads, and writes outside a group. -/
def dataRanges (s : State) (o : Op) : List (Nat × Nat) :=
  (accessesOf s.cfg.live o).flatMap fun x =>
    if x.space = 0 && !(x.wr && (groupOf s o).isSome) then
      match localAddr s.cfg.live x.addr with | some a => pieces s a x.len | none => []
    else []

/-- The local D-space ranges that a data command reads. -/
def dataReads (s : State) (o : Op) : List (Nat × Nat) :=
  (accessesOf s.cfg.live o).flatMap fun x =>
    if x.space = 0 && !x.wr then
      match localAddr s.cfg.live x.addr with | some a => pieces s a x.len | none => []
    else []

/-- A command that must wait has read those of its ranges that no home holds: what is found uncorrectable there stays found (R548;
log 151). -/
def sensing (l : State → Op → List (Nat × Nat)) (f : State → Op → Outcome) (s : State) (o : Op) : Outcome :=
  match f s o with
  | .wait => .sensed (reachFree s (l s o))
  | .again t => .sensed (reachFree { s with step := t.step } (l s o))
  | x => x

/-- A held command's own place among the held accesses. -/
def ownPlace (c : Word) (h : HeldReq) : Bool := match h.who with | .command x => x = c | .request _ _ => false

/-- A data command is tried: while its ranges reach a channel in processor mode, or one at which an earlier access still waits, it takes its
place in the order of arrival and waits (R74). Once it can go it gives its place up, and what waited behind it is served. -/
def runData (c : Nat) (f : State → Op → Outcome) (h : Word) (s : State) : State :=
  match findOp s h with
  | none => s
  | some o =>
    if dOpcode o.desc = c && o.phase = .running && !o.started then
      let had := s.fe.held.any (ownPlace h)
      let chans := orderChans { s with fe := { s.fe with held := s.fe.held.takeWhile fun x => !ownPlace h x } } (dataRanges s o)
      if chans.isEmpty then
        if had then settle (serveHeld (runCommand c (sensing dataReads f) h
          { s with fe := { s.fe with held := s.fe.held.filter fun x => !ownPlace h x } }))
        else runCommand c (sensing dataReads f) h s
      else if had then s
      else { s with fe := { s.fe with held := s.fe.held ++ [⟨.command h, chans, 0⟩] } }
    else runCommand c f h s

/-! ### Reading operands -/

/-- A source operand as read: its bytes, whether each byte was poisoned (empty: none was), never-written granules. -/
structure Operand where
  s      : State
  bytes  : List Byte
  bad    : List Bool
  fresh  : Nat

/-- Read a source operand of local D-space or of S-space; none while the read is held. -/
def readOperand (s : State) (o : Op) (space addr n : Nat) : Option Operand :=
  if space = 1 then some ⟨s, sRead s addr n, [], 0⟩
  else
    let a := (localAddr s.cfg.live addr).getD 0
    let s := (pieces s a n).foldl (fun s x => detectRead s x.1 x.2) s
    if piecesHeld s a n then none
    else
      let fresh := piecesFresh s a n
      let bad := if piecesPoison s a n then (List.range n).map fun i => s.mem.poison.contains (gatherMap s (a + i) / 64) else []
      let r := opRead s o a n
      some ⟨countUninit r.1 o.tenant fresh, r.2, bad, fresh⟩

/-- The status of what was read (R95, R555; log 49). -/
def readStatus (s : State) (t : BitVec 4) (x : Operand) : Status :=
  if !x.bad.isEmpty then stPoison else if 0 < x.fresh && unwrStatus s t then stUnwritten else stOk

/-- The bytes with poisoned ones as 0. -/
def cleanBytes (x : Operand) : List Byte := if x.bad.isEmpty then x.bytes else (x.bytes.zip x.bad).map fun b => if b.2 then 0 else b.1

/-- Whether element `i` of an operand has a poisoned source byte: of its own bits or of its block's scale. -/
def elemBad (fmt : Nat) (bad : List Bool) (i : Nat) : Bool :=
  let at_ := fun k => bad.getD k false
  if fmtBlock fmt = 0 then
    let w := fmtBits fmt / 8
    (List.range w).any fun j => at_ (i * w + j)
  else
    let base := i / 4096 * groupBytes fmt
    let k := i % 4096
    let w := fmtBits fmt
    ((rangeIncl (k * w / 8) ((k * w + w - 1) / 8)).any fun j => at_ (base + j)) || at_ (base + 512 * w + k / fmtBlock fmt)

/-- Elements of an operand, those with poisoned bytes as NaN (Table 2 of *Replica digests*). -/
def elemsOf (fmt : Nat) (coarse : Val) (count : Nat) (x : Operand) : List (Val × Nat) :=
  let l := decodeOperand fmt coarse count x.bytes
  if x.bad.isEmpty then l else (List.zipIdx l).map fun e => if elemBad fmt x.bad e.2 then (.nan, 0) else e.1

/-! ### Writing operands -/

/-- Whether a range of local D-space overlaps a state region, factor record or accumulator of a shard that a sweep is writing
or whose outcome is not applied (R236). -/
def shardBusy (s : State) (a n : Nat) : Bool :=
  s.cfg.live.shards.any fun e =>
    ((sweepOf s e.1).isSome || [ShardState.sweeping, .written, .redoing, .ready].contains (shardDyn s e.1).st) &&
    (meets a n e.2.stateBase (stateBytes e.2) || meets a n (factorAddr e.2 0) (2 * factorSlotBytes e.2) ||
     meets a n e.2.accBase (tileCount e.2 * accTileBytes e.2.accFmt))

/-- Commands whose destination R236 guards. -/
def guarded (o : Op) : Bool := [opCopy, opConvert, opZero].contains (dOpcode o.desc)

/-- Write a command's result to its destination, and end the command: in S-space; on another package (R776); in a group's write
set; or at the homes of local D-space, with the digests it touches recomputed (R568). -/
def writeResult (s : State) (o : Op) (space addr : Nat) (bs : List Byte) (r : Res) : Outcome :=
  if space = 1 then .done (sWrite s addr bs) r
  else match sysAddr s.cfg.live addr with
    | .there pkg a =>
      let x := sendData s o pkg a bs r.status
      if x.2 = 0 then .done x.1 { r with signal := false }
      else .go (awaitLanding x.1 o.handle x.2 r)
    | .nowhere => .done s r
    | .here a =>
      if bs.isEmpty then .done s r
      else if guarded o && shardBusy s a bs.length then .done s (resSt stBusy)
      else match groupOf s o with
        | some g =>
          match groupWrite s g a bs with
          | .wait s => .again s
          | .limit s => .done s (resSt stLimit)
          | .ok s => .done s r
        | none =>
          if writeHeld s none a bs.length then .wait
          else
            let s := mergeRead s a bs.length
            let cut := poisonCut s a bs.length
            let s := opWrite s o a bs
            let s := refetchLanded (recomputeTouched s a bs.length) a bs.length
            .done s (if cut then { r with status := stPoison } else r)

/-- A command of a group whose destination is not local D-space (R283). -/
def groupBadSpace (s : State) (o : Op) (space addr : Nat) : Bool :=
  (groupOf s o).isSome && (space ≠ 0 || farAddr s.cfg.live addr)

/-- The command's group has aborted on a lock timeout (R289). -/
def groupConflict (s : State) (o : Op) : Bool :=
  match (groupOf s o).bind (txgOf s) with
  | some g => decide (g.state = .conflict)
  | none => false

/-- The common start of a data command: groups first, then `k`. -/
def joinGroup (s : State) (o : Op) (k : Outcome) : Outcome :=
  if beginPending s o then .wait
  else if groupConflict s o then .done s (resSt stAborted)
  else k

/-- The common start of a data command with a destination (R283). -/
def withGroup (s : State) (o : Op) (space addr : Nat) (k : Outcome) : Outcome :=
  joinGroup s o (if groupBadSpace s o space addr then .done s (resSt stBadSpace) else k)

/-- A write of a command to local D-space: in its group's write set, or at the homes (R283, R284). -/
def groupPut (s : State) (o : Op) (a : Nat) (bs : List Byte) : GroupWrite :=
  match groupOf s o with
  | some g => groupWrite s g a bs
  | none => if writeHeld s none a bs.length then .wait s else .ok (refetchLanded (opWrite s o a bs) a bs.length)

/-- Writes of a command piece by piece. -/
def groupPuts (s : State) (o : Op) : List (Nat × List Byte) → GroupWrite
  | [] => .ok s
  | x :: l => match groupPut s o x.1 x.2 with
    | .ok t => groupPuts t o l
    | y => y

/-! ### COPY -/

/-- Ask the package that holds a far source to serve the command (R354). -/
def askServe (s : State) (o : Op) : Outcome :=
  match sysAddr s.cfg.live (dSrc o.desc) with
  | .there pkg _ =>
    let (s, stream) := takeStream s false
    let s := updOp s o.handle fun x => { x with pull := true, remote := 1, stream := stream.toNat, status := stOk, pieces := [], spoiled := [] }
    .go (sendServe s pkg o.tenant stream (leBytes 64 o.desc.toNat))
  | _ => .wait

/-- Bytes of a COPY's result, with the status of reading them. -/
def copyResult (s : State) (o : Op) (x : Operand) : Outcome :=
  writeResult s o (dDstSpace o.desc) (dDst o.desc) (cleanBytes x)
    { status := readStatus s o.tenant x, res1 := BitVec.ofNat 64 x.bytes.length }

/-- COPY moves bytes unchanged (R58, R317). -/
def tryCopy (s : State) (o : Op) : Outcome :=
  withGroup s o (dDstSpace o.desc) (dDst o.desc) <|
    if dEmpty o.desc then writeResult s o (dDstSpace o.desc) (dDst o.desc) [] { status := stOk, empty := true }
    else if dSrcSpace o.desc = 0 && farAddr s.cfg.live (dSrc o.desc) then askServe s o
    else match readOperand s o (dSrcSpace o.desc) (dSrc o.desc) (dCount o.desc) with
      | none => .wait
      | some x => copyResult x.s o x

/-- Bytes of a range that the poisoned granules of a served source spoil: each reaches to the next multiple of 64 of the source's address. -/
def spoiledBytes (o : Op) (n : Nat) : List Bool :=
  if o.spoiled.isEmpty then []
  else (List.range n).map fun i => o.spoiled.any fun k => decide (k ≤ i) && decide (i < k + 64 - (dSrc o.desc + k) % 64)

/-- The data that a command has pulled from another package and has still to convert or write, as an operand. -/
def pulledOn (s : State) (c : Nat) (h : Word) : Option (Op × Operand) :=
  match findOp s h with
  | none => none
  | some o =>
    if dOpcode o.desc = c && o.phase = .running && o.started && decide (0 < o.remote) && !o.pull then
      match o.pieces with | [] => none | x :: _ => some (o, ⟨s, x.2, spoiledBytes o x.2.length, 0⟩)
    else none

/-- Write or send on what a command has pulled, with the status that the serving package has reported (R354, R776); what cannot be written
yet is kept. -/
def sendOnward (s : State) (o : Op) (bs : List Byte) (n : Counts) : State :=
  match writeResult (updOp s o.handle fun x => { x with pieces := [] }) o (dDstSpace o.desc) (dDst o.desc) bs
      { status := o.status, res1 := BitVec.ofNat 64 bs.length, counts := n } with
  | .wait => s
  | .again t => settle { s with step := t.step }
  | .sensed _ => s
  | .go t => settle t
  | .done t r => endAway t o r

/-- Whether each frame that answers a command's SERVE lands as it comes (R83): a COPY's, to this package, outside a group. -/
def landsDirect (s : State) (o : Op) : Bool :=
  dOpcode o.desc = opCopy && !(dDstSpace o.desc = 0 && farDst s.cfg.live o.desc) && (groupOf s o).isNone

/-- A piece of a pulled COPY lands at its place; none while its home holds the write. A range of a busy shard is not written (R236). -/
def landPiece (s : State) (o : Op) (off : Nat) (bs : List Byte) : Option State :=
  if dDstSpace o.desc = 1 then some (sWrite s (dDst o.desc + off) bs)
  else
    let a := (localAddr s.cfg.live (dDst o.desc)).getD 0 + off
    let mark := fun (s : State) (st : Status) => updOp s o.handle fun x => { x with status := if x.status = stOk then st else x.status }
    if bs.isEmpty then some s
    else if shardBusy s a bs.length then some (mark s stBusy)
    else if writeHeld s none a bs.length then none
    else
      let s := mergeRead s a bs.length
      let cut := poisonCut s a bs.length
      let s := opWrite s o a bs
      let s := refetchLanded (recomputeTouched s a bs.length) a bs.length
      some (if cut then mark s stPoison else s)

/-- COPY (R58). -/
def execCopy (handle : Word) (s : State) : Host.Outcome State Fault Refusal :=
  match pulledOn s opCopy handle with
  | some (o, x) => .next (sendOnward s o (cleanBytes x) countsZero)
  | none => .next (runData opCopy tryCopy handle s)

/-! ### CONVERT -/

/-- The command stream that RSTREAM names (R534). -/
def commandStream (p : Plane) (r : Nat) : Nat :=
  if rsPkg r = 1 then 1024 * p.package.toNat + rsStream r % 1024 else rsStream r

/-- The base draw of an operation (R534). -/
def baseDraw (o : Op) (r : Nat) : Nat := if rsMode r = 1 then o.cursor else rsOffset r

/-- Draws of a command's elements, their numbers modulo 2^64 (R535). -/
def drawsOf (s : State) (o : Op) (r n : Nat) : List Word :=
  let at_ := genAt (planeTenant s.cfg.live o.tenant.toNat).seed (commandStream s.cfg.live r)
  let k := min n (2 ^ 64 - baseDraw o r)
  genDraws k (at_ (baseDraw o r)) ++ genDraws (n - k) (at_ 0)

/-- The random bits of a CONVERT's elements: those of its draws under ROUND 1, else 0. -/
def convertBits (s : State) (o : Op) : List Nat :=
  if dField o.desc 50 1 = 1 then (drawsOf s o (dField o.desc 56 8) (dCount o.desc)).map drawRound
  else List.replicate (dCount o.desc) 0

/-- The converted bytes of a CONVERT, with its counters (R325). -/
def convertBytes (s : State) (o : Op) (x : Operand) : List Byte × Counts :=
  let coarse := exact32 (BitVec.ofNat 32 (dField o.desc 52 4))
  let els := elemsOf (dSfmt o.desc) coarse (dCount o.desc) x
  let enc := encodeOperand (dDfmt o.desc) (roundMode (dField o.desc 50 1)) (dField o.desc 51 1 = 1) coarse
    ((els.map (·.1)).zip (convertBits s o))
  (enc.1, countsAdd enc.2 ⟨0, (els.map (·.2)).sum, 0, 0⟩)

/-- End a CONVERT whose source has been read. -/
def convertResult (s : State) (o : Op) (x : Operand) : Outcome :=
  let c := convertBytes s o x
  writeResult s o (dDstSpace o.desc) (dDst o.desc) c.1
    { status := readStatus s o.tenant x, res1 := BitVec.ofNat 64 c.1.length, counts := c.2 }

/-- CONVERT decodes each element and encodes it with one rounding (R325). -/
def tryConvert (s : State) (o : Op) : Outcome :=
  withGroup s o (dDstSpace o.desc) (dDst o.desc) <|
    if dEmpty o.desc then writeResult s o (dDstSpace o.desc) (dDst o.desc) [] { status := stOk, empty := true }
    else if dSrcSpace o.desc = 0 && farAddr s.cfg.live (dSrc o.desc) then askServe s o
    else match readOperand s o (dSrcSpace o.desc) (dSrc o.desc) (operandBytes (dSfmt o.desc) (dCount o.desc)) with
      | none => .wait
      | some x => convertResult x.s o x

/-- CONVERT (R325). -/
def execConvert (handle : Word) (s : State) : Host.Outcome State Fault Refusal :=
  match pulledOn s opConvert handle with
  | some (o, x) => .next (sendOnward s o (convertBytes s o x).1 (convertBytes s o x).2)
  | none => .next (runData opConvert tryConvert handle s)

/-! ### TRANSPOSE_IN and TRANSPOSE_OUT (R459 to R461) -/

/-- A channel that a P-space operand touches does not serve it, and the command waits: a PIM_RUN is at work there (R477), the channel is in a
retrain or under test (R430, R445), or the arrays sleep (R688). -/
def pimBusy (s : State) (d : BitVec 512) : Bool :=
  (pChannels d).any fun c => (nmGet? s.units.pips.runs c).isSome || (chanOf s c).retrain || s.units.margin.contains c || memAsleep s

/-- A PIM_RUN at work on a channel of a D-space range (R477). -/
def pimOnRange (s : State) (a n : Nat) : Bool :=
  !s.units.pips.runs.isEmpty && (blocksOf 256 a n).any fun b => match channelOf s (b * 256) with
    | some c => (nmGet? s.units.pips.runs c).isSome
    | none => false

/-- The bits that TRANSPOSE_IN lays down for an element: a floating element's pattern, or an integer saturated or sign-extended
to WIDTH bits; with the SAT count (R460). -/
def transposeInBits (fmt width : Nat) (n : Nat) : Nat × Nat :=
  if fmtInt fmt then
    let v := toSigned (fmtBits fmt) n
    if width = 1 then (if v = 0 then 0 else 1, 0)
    else
      let hi : Int := (2 ^ (width - 1) : Nat) - 1
      let lo : Int := -((2 ^ (width - 1) : Nat) : Int)
      let w := if v > hi then hi else if v < lo then lo else v
      ((w % ((2 ^ width : Nat) : Int)).toNat, if w = v then 0 else 1)
  else (n, 0)

/-- The pattern that TRANSPOSE_OUT writes for the bits of an element, with the SAT count (R460). -/
def transposeOutBits (fmt width : Nat) (n : Nat) : Nat × Nat :=
  if fmtInt fmt then
    if width = 1 then (n, 0)
    else
      let v := toSigned width n
      let b := fmtBits fmt
      let hi : Int := (2 ^ (b - 1) : Nat) - 1
      let lo : Int := -((2 ^ (b - 1) : Nat) : Int)
      let w := if v > hi then hi else if v < lo then lo else v
      ((w % ((2 ^ b : Nat) : Int)).toNat, if w = v then 0 else 1)
  else (n, 0)

/-- The P-space row of bit `k` of the `j`-th bank of a walk. -/
def walkRow (a k : Nat) (bank : Nat × Nat × Nat) : Nat := pAddr bank.1 bank.2.1 bank.2.2 (a % 2 ^ 15 + k)

/-- A row with the bits `k` of up to 8,192 elements put into its lanes from `lane`; other lanes keep their value (R461). -/
def layRow (old : BitVec 8192) (els : List Nat) (k : Nat) : BitVec 8192 :=
  let n := els.length
  let bits := (List.zipIdx els).foldl (fun acc e => acc + e.1 / 2 ^ k % 2 * 2 ^ e.2) 0
  BitVec.ofNat 8192 (old.toNat / 2 ^ n * 2 ^ n + bits)

/-- Write the rows of a walk. -/
def layBanks (a width : Nat) : List (Nat × Nat × Nat) → List (List Nat) → State → State
  | b :: bs, e :: es, s =>
    layBanks a width bs es ((List.range width).foldl (fun s k =>
      pWrite s (walkRow a k b) (layRow (pRow s (walkRow a k b)) e k)) s)
  | _, _, s => s

/-- TRANSPOSE_IN. -/
def tryTransposeIn (s : State) (o : Op) : Outcome :=
  withGroup s o 2 0 <|
    if dEmpty o.desc then .done s { status := stOk, empty := true }
    else if pimBusy s o.desc then .wait
    else match readOperand s o (dSrcSpace o.desc) (dSrc o.desc) (operandBytes (dSfmt o.desc) (dCount o.desc)) with
      | none => .wait
      | some x =>
        let w := fmtBits (dSfmt o.desc) / 8
        let raw := ((chunks w x.bytes).map leNat).take (dCount o.desc)
        let raw := if x.bad.isEmpty then raw else (List.zipIdx raw).map fun e =>
          if elemBad (dSfmt o.desc) x.bad e.2 then (nanCode (dSfmt o.desc)).getD 0 else e.1
        let nans := if x.bad.isEmpty then 0 else ((List.range (dCount o.desc)).filter fun i =>
          elemBad (dSfmt o.desc) x.bad i).length
        let els := raw.map (transposeInBits (dSfmt o.desc) (dField o.desc 49 1))
        let banks := transposeBanks (dDst o.desc) (dCount o.desc)
        let s := layBanks (dDst o.desc) (dField o.desc 49 1) banks (chunks 8192 (els.map (·.1))) x.s
        .done s { status := readStatus s o.tenant x, res1 := BitVec.ofNat 64 (1024 * banks.length * dField o.desc 49 1)
                  counts := ⟨(els.map (·.2)).sum, 0, nans, 0⟩ }

/-- TRANSPOSE_IN (R459). -/
def execTransposeIn (handle : Word) (s : State) : Host.Outcome State Fault Refusal :=
  .next (runData opTransposeIn tryTransposeIn handle s)

/-- A row as TRANSPOSE_OUT reads it: one with an uncorrectable sector gives no defined bits (log 80). -/
def readPRow (s : State) (seed a : Nat) : BitVec 8192 := if s.mem.pbad.contains a then Config.undefinedCompute seed a else pRow s a

/-- The element in a lane of a bank of a walk. -/
def gatherElem (s : State) (seed a width : Nat) (bank : Nat × Nat × Nat) (lane : Nat) : Nat :=
  (List.range width).foldl (fun acc k => acc + (readPRow s seed (walkRow a k bank)).toNat / 2 ^ lane % 2 * 2 ^ k) 0

/-- Whether a walk reads a row with an uncorrectable sector. -/
def walkBad (s : State) (a width : Nat) (banks : List (Nat × Nat × Nat)) : Bool :=
  !s.mem.pbad.isEmpty && banks.any fun b => (List.range width).any fun k => s.mem.pbad.contains (walkRow a k b)

/-- TRANSPOSE_OUT. -/
def tryTransposeOut (s : State) (o : Op) : Outcome :=
  withGroup s o (dDstSpace o.desc) (dDst o.desc) <|
    if dEmpty o.desc then writeResult s o (dDstSpace o.desc) (dDst o.desc) [] { status := stOk, empty := true }
    else if pimBusy s o.desc then .wait
    else
      let banks := transposeBanks (dSrc o.desc) (dCount o.desc)
      let s := (banks.flatMap fun b => (List.range (dField o.desc 49 1)).map fun k => walkRow (dSrc o.desc) k b).foldl activateRow s
      let raw := (banks.flatMap fun b => (List.range 8192).map fun l => gatherElem s s.free (dSrc o.desc) (dField o.desc 49 1) b l).take
        (dCount o.desc)
      let els := raw.map (transposeOutBits (dDfmt o.desc) (dField o.desc 49 1))
      let bs := els.flatMap fun e => leBytes (fmtBits (dDfmt o.desc) / 8) e.1
      writeResult { s with free := s.free + 1 } o (dDstSpace o.desc) (dDst o.desc) bs
        { status := if walkBad s (dSrc o.desc) (dField o.desc 49 1) banks then stPoison else stOk, res1 := BitVec.ofNat 64 bs.length, counts := ⟨(els.map (·.2)).sum, 0, 0, 0⟩ }

/-- TRANSPOSE_OUT (R460). -/
def execTransposeOut (handle : Word) (s : State) : Host.Outcome State Fault Refusal :=
  .next (runData opTransposeOut tryTransposeOut handle s)

/-! ### Atom boundaries, and ZERO by row clone (R465 to R468, R474 to R476) -/

/-- Change the Pip sequencers. -/
def updPips (s : State) (f : PipUnits → PipUnits) : State := { s with units := { s.units with pips := f s.units.pips } }

/-- Put a channel in processor mode, or in memory mode. -/
def setProc (s : State) (c : Nat) (on : Bool) : State :=
  { s with units := { s.units with proc := if on then insertNat c s.units.proc else s.units.proc.filter fun x => x ≠ c } }

/-- A refresh round at an atom boundary: every bank that is behind is issued one REF (R466). -/
def refreshRound (s : State) (c : Nat) : State :=
  if (chanOf s c).behind.any fun b => 0 < b.2 then
    regCount (updChan s c fun x => { x with
      behind := (x.behind.map fun b => (b.1, b.2 - 1)).filter fun b => 0 < b.2 }) (dieBase (c / 64) + 0x410) 1
  else s

/-- The most REFs that a bank of a channel is behind. -/
def mostBehind (s : State) (c : Nat) : Nat := (chanOf s c).behind.foldl (fun m b => max m b.2) 0

/-- REFs that fall due while an atom runs, at a spacing of its row operations of R470's range, which a free number picks: 36 ns to 288 ns
(R467). -/
def dueInAtom (hot : Bool) (times w : Nat) : Nat :=
  let t := if hot then 1950 else 3900
  (times * (36 + w % 253) + t - 1) / t

/-- The boundary before an atom of some row-operation times: rounds of REFs until no bank falls more than 4 behind during it, each counted as
a round. It comes before the first atom of a run and between its atoms, as the worked cases have it (R466, R467; DEDUCED, log 79). -/
def boundaryRefs (s : State) (c times : Nat) : State :=
  let n := mostBehind s c
  if n = 0 then s
  else
    let (s, w) := takeNat s
    (List.range (max 1 (n + dueInAtom (chanOf s c).hot times w - 4))).foldl (fun s _ => refreshRound s c) s

/-- ZERO's clones of `k` rows on a channel: it cuts its atoms at 48 clones, or at 24 while the channel is hot, and the channel ends in memory
mode (R462, R468, Table 7). -/
def cloneAtoms (s : State) (x : Nat × Nat) : State :=
  let c := x.1
  if (chanOf s c).failed || x.2 = 0 then s
  else
    let per := if (chanOf s c).hot then 24 else 48
    let s := regCount (boundaryRefs s c (min x.2 per)) (dieBase (c / 64) + 0x408) ((x.2 + per - 1) / per)
    if s.units.pips.held.contains c then catchUp (setProc (updPips s fun p => { p with held := p.held.filter fun k => k ≠ c }) c false) c else s

/-- Whether one bank of a channel row, 1 KiB, lies wholly in a D-space range: its four blocks of 256 B do. -/
def bankInRange (s : State) (a n ch row bank : Nat) : Bool :=
  (List.range 4).all fun k => ((sectorAddr s.cfg.live ch row bank (8 * k)).bind (residentAt s)).any fun x =>
    decide (a ≤ x) && decide (x + 256 ≤ a + n)

/-- The channel rows of a D-space range that ZERO clears by a broadcast CLONE, each as its channel and row: those of which a bank lies wholly
in the range (R474). -/
def cloneRows (s : State) (a n : Nat) : List (Nat × Nat) :=
  ((blocksOf 256 a n).filterMap fun b => (channelOf s (256 * b)).bind fun c =>
    let o := chanOffset s.cfg.live (frameOf s (256 * b))
    if o % 1024 < 256 && bankInRange s a n c (o / 1024 / 48) (o / 1024 % 48) then some (c, o / 1024 / 48) else none).eraseDups

/-- ZERO clears D-space ranges by row clone where it can: its atoms are counted (R474, Table 14; log 152). -/
def countClones (s : State) (l : List (Nat × Nat)) : State :=
  let rows := (l.flatMap fun x => cloneRows s x.1 x.2).eraseDups
  ((rows.map (·.1)).eraseDups.map fun c => (c, (rows.filter fun r => r.1 = c).length)).foldl cloneAtoms s

/-! ### ZERO (R474 to R476, R773) -/

/-- Tiles of a run that a range covers whole. -/
def coveredTiles (r : TileRun) (a n : Nat) : List Nat :=
  ((List.range r.tiles).map fun t => r.base + t * accTileBytes r.fmt).filter fun x =>
    decide (a ≤ x) && decide (x + accTileBytes r.fmt ≤ a + n)

/-- What a command has in hand goes with it when it ends early: contributions that tiles hold of it, its collective, its trees, its moves,
and the frames of its stream that no port has sent (R145, R353). -/
def dropWork (s : State) (o : Op) : State :=
  let norm := fun (t : TreeRun) => match t.use with
    | .norm h => h = o.handle
    | .step _ => false
    | .between _ => false
    | .recovery => false
  let own := fun (f : Frame) => decide (0 < o.remote) && !o.pull && [0x01, 0x0A].contains f.type.toNat && f.src = s.cfg.live.package && f.stream.toNat = o.stream
  { s with
    step := { s.step with
      tiles := s.step.tiles.map fun e => (e.1, { e.2 with held := e.2.held.filter fun c => c.src ≠ .accum o.handle })
      colls := s.step.colls.filter fun c => c.handle ≠ o.handle
      trees := s.step.trees.filter fun t => !norm t }
    units := { s.units with tier := { s.units.tier with moves := s.units.tier.moves.filter fun m => m.2.2 ≠ o.handle } }
    hz := { s.hz with ports := s.hz.ports.map fun e => (e.1, { e.2 with sendq := e.2.sendq.filter fun f => !own f }) } }

/-- A PLAN_RUN that the plan player has not begun ends with ST_DROPPED or ST_ABORTED: its plan's sync object is signalled (R48). -/
def signalPlan (s : State) (o : Op) : State := match opPlan s.cfg.live o with | some g => syncAdd s g.sync.toNat 1 | none => s

/-- A command is ended before its work is: it keeps the counts that it has made (R148). -/
def stopOp (s : State) (o : Op) (st : Status) : State :=
  finishOp (signalPlan (dropWork s o) o) o { failRes o st with counts := o.counts }

/-- An ACCUM that is at work ends with a status, and nothing that the tiles still hold of it is applied. -/
def endAccum (s : State) (h : Word) (st : Status) : State :=
  match findOp s h with
  | some o => if o.phase = .running then stopOp s o st else s
  | none => s

/-- The commands whose contributions a tile's zeroing ends with ST_ABORTED (R773). -/
def zeroedOps (s : State) (tile : Nat) : List Word :=
  let d := nmGet tileZero s.step.tiles tile
  d.held.filterMap fun c => match c.src with | .accum h => some h | .plan _ _ => none

/-- Restart a tile's ticket sequence. -/
def zeroTile (s : State) (tile : Nat) : State :=
  let s := (zeroedOps s tile).foldl (fun s h => endAccum s h stAborted) s
  { s with step := { s.step with tiles := nmErase s.step.tiles tile } }

/-- Restart the sequences of the tiles that a zeroed range covers (R773). -/
def zeroCovered (s : State) (a n : Nat) : State := ((tileRuns s.cfg.live).flatMap fun r => coveredTiles r a n).foldl zeroTile s

/-- The end of a ZERO of a group: the sequences restart when it completes (R773, R283). -/
def zeroOfGroup (a n : Nat) (x : Outcome) : Outcome :=
  match x with
  | .done s r => if r.status = stOk then .done (zeroCovered s a n) r else .done s r
  | .wait => .wait
  | .again s => .again s
  | .sensed s => .sensed s
  | .go s => .go s

/-- Drop the home-cache sectors and visitor copies that a range covers without write-back, and the adder buffer slots of the range
(R475). A dirty sector over a failed channel leaves what the array holds. -/
def dropRange (s : State) (a n : Nat) : State :=
  let covers := fun (l : CacheLine) (k : Nat) => decide (a ≤ l.line * 128 + 64 * k) && decide (l.line * 128 + 64 * k + 64 ≤ a + n)
  let drop := fun (l : CacheLine) (k : Nat) => if covers l k then setUnder (setSector l k .invalid) k [] else l
  let s := (s.units.cache.filter fun l => l.visitor.isNone).foldl
    (fun s l => ([0, 1].filter (covers l)).foldl (writeBackSector l) s) s
  let s := setCache s ((s.units.cache.map fun l => drop (drop l 0) 1).filter fun l => l.s0 ≠ .invalid || l.s1 ≠ .invalid)
  { s with units := { s.units with adders := s.units.adders.map fun c => (c.1, c.2.filter fun k => !meets (256 * k) 256 a n) } }

/-- ZERO of a D-space range. -/
def zeroRange (s : State) (a n : Nat) : Outcome :=
  if shardBusy s a n then .done s (resSt stBusy)
  else if writeHeld s none a n || pimOnRange s a n then .wait
  else
    let s := countClones (dropRange s a n) [(a, n)]
    let cut := poisonCut s a n
    let s := dWrite s a (List.replicate n 0)
    let s := zeroCovered s a n
    let s := refetchLanded (recomputeTouched s a n) a n
    .done s (resSt (if cut then stPoison else stOk))

/-- ZERO. -/
def tryZero (s : State) (o : Op) : Outcome :=
  withGroup s o (dDstSpace o.desc) (dDst o.desc) <|
    if dEmpty o.desc then writeResult s o (dDstSpace o.desc) (dDst o.desc) [] { status := stOk, empty := true }
    else if dDstSpace o.desc = 2 then
      if pimBusy s o.desc then .wait
      else
        let a := dDst o.desc
        let rows := (List.range (dCount o.desc / 49152)).flatMap fun k => (List.range 48).map fun b =>
          pAddr (a / 2 ^ 27) (a / 2 ^ 21 % 64) b (a % 2 ^ 15 + k)
        .done (rows.foldl (fun s r => pWrite s r 0) (cloneAtoms s (pChannel a, dCount o.desc / 49152))) resOk
    else match sysAddr s.cfg.live (dDst o.desc) with
      | .here a =>
        if (groupOf s o).isSome then zeroOfGroup a (dCount o.desc) (writeResult s o 0 (dDst o.desc) (List.replicate (dCount o.desc) 0) resOk)
        else zeroRange s a (dCount o.desc)
      | _ => writeResult s o 0 (dDst o.desc) (List.replicate (dCount o.desc) 0) resOk

/-- ZERO (R474). -/
def execZero (handle : Word) (s : State) : Host.Outcome State Fault Refusal := .next (runData opZero tryZero handle s)

/-! ### SIGNAL (R137, R152) -/

/-- SIGNAL: an addition or a set of a local object, or a zero-length FINAL frame to another package. A VALUE that SIG_ADD cannot
hold leaves the amount open (DESIGN CHOICE, log 35). -/
def trySignal (s : State) (o : Op) : Outcome :=
  let id := dField o.desc 24 2
  let v := dField o.desc 32 8
  if signalFar s.cfg.live o.desc then
    let (s, k) := if v < 2 ^ 32 then (s, v) else takeNat s
    let (s, stream) := takeStream s true
    let f := { frameBlank s 0x01 (BitVec.ofNat 13 (dField o.desc 26 2)) with
      flags := 1, tenant := o.tenant, stream := stream, group := BitVec.ofNat 14 id, sigAdd := BitVec.ofNat 32 k }
    .go (awaitLanding (sendRouted (updOp s o.handle fun x => { x with stream := stream.toNat }) f none) o.handle 1 resOk)
  else if dField o.desc 28 1 = 1 then .done (syncSet s id (BitVec.ofNat 64 v)) resOk
  else .done (syncAdd s id (BitVec.ofNat 64 v)) resOk

end Sys2Proof.Machine
end

