-- ==== Sys2Proof/Machine/Random.lean ====
section
/-! DEFINITION. RNG_FILL and DRAW (*Random lanes*). -/

namespace Sys2Proof.Machine

/-- A parameter word of RNG_FILL or INIT_PARAMS as R314 and R315 present it, with its flush. -/
def presentParam (w : Word) : Fl := flush32 w

/-- The values of an RNG_FILL before they are encoded, with their flushes (Table 2 of *Random lanes*). -/
def fillValues (s : State) (o : Op) : List Fl :=
  let p0 := presentParam (BitVec.ofNat 32 (dField o.desc 52 4))
  let p1 := presentParam (BitVec.ofNat 32 (dField o.desc 56 4))
  (drawsOf s o (dField o.desc 24 8) (dCount o.desc)).map (fillValue (dField o.desc 48 1) p0.w p1.w)

/-- The bytes of an RNG_FILL and its counters: rounded to nearest even, E4M3 saturating, coarse scale +1.0 (R541). -/
def fillBytes (s : State) (o : Op) : List Byte × Counts :=
  let vs := fillValues s o
  let ps := (presentParam (BitVec.ofNat 32 (dField o.desc 52 4))).fl + (presentParam (BitVec.ofNat 32 (dField o.desc 56 4))).fl
  let enc := encodeOperand (dDfmt o.desc) (fun _ => .even) true (exact32 fpOne) (vs.map fun v => (exact32 v.w, 0))
  (enc.1, countsAdd enc.2 ⟨0, ps + (vs.map (·.fl)).sum, 0, 0⟩)

/-- RNG_FILL. -/
def tryRngFill (s : State) (o : Op) : Outcome :=
  withGroup s o (dDstSpace o.desc) (dDst o.desc) <|
    if dEmpty o.desc then writeResult s o (dDstSpace o.desc) (dDst o.desc) [] { status := stOk, empty := true }
    else
      let c := fillBytes s o
      writeResult s o (dDstSpace o.desc) (dDst o.desc) c.1 { status := stOk, counts := c.2 }

/-- RNG_FILL (R541). -/
def execRngFill (handle : Word) (s : State) : Host.Outcome State Fault Refusal := .next (runData opRngFill tryRngFill handle s)

/-- The scores of a DRAW; those with poisoned bytes are NaN. -/
def drawScores (o : Op) (x : Operand) : List Word :=
  let ws := ((chunks 4 x.bytes).map fun b => BitVec.ofNat 32 (leNat b)).take (dCount o.desc)
  if x.bad.isEmpty then ws else (List.zipIdx ws).map fun w => if elemBad 0 x.bad w.2 then fpNan else w.1

/-- The keys of a DRAW (R543). -/
def drawKeys (s : State) (o : Op) (scores : List Word) : List Fl :=
  (scores.zip (drawsOf s o (dField o.desc 24 8) (dCount o.desc))).map fun x => drawKey x.1 x.2

/-- DRAW. -/
def tryDraw (s : State) (o : Op) : Outcome :=
  joinGroup s o <|
  if dEmpty o.desc then .done s { status := stOk, empty := true, res0 := BitVec.allOnes 32 }
  else match readOperand s o (dSrcSpace o.desc) (dSrc o.desc) (4 * dCount o.desc) with
    | none => .wait
    | some x =>
      let scores := drawScores o x
      let keys := drawKeys x.s o scores
      .done x.s { status := readStatus x.s o.tenant x
                  res0 := BitVec.ofNat 32 (bestKey ((List.zipIdx keys).map fun k => (k.2, k.1.w)) none)
                  counts := ⟨0, (keys.map (·.fl)).sum, (scores.filter isNan32).length, 0⟩ }

/-- DRAW (R543). -/
def execDraw (handle : Word) (s : State) : Host.Outcome State Fault Refusal := .next (runData opDraw tryDraw handle s)

end Sys2Proof.Machine
end

