-- ==== Sys2Proof/Machine/Tiles.lean ====
section
/-! DEFINITION. Accumulator and relay tiles: the roles a collective plan gives a tile on this package, its ticket sequence, and
its way through RS and SETGATHER phases (R240 to R250, R358 to R368). -/

namespace Sys2Proof.Machine

/-! ### Roles in a phase (R359, R363, R365, R384) -/

/-- A tile's role in a phase: its distance along the chain from the tile's owner, the members, and the direction it travels. -/
structure Role where
  k    : Nat
  n    : Nat
  plus : Bool
deriving DecidableEq, Repr

/-- The position of the dropped package on the ring of a phase, while a FALLBACK case is live (log 52). -/
def droppedPos (s : State) (ph : CPhase) : Option Nat :=
  match s.hz.drop.cas with
  | none => none
  | some y =>
    let p := s.cfg.live
    let me := p.package.toNat
    if (List.range 3).all fun d => d = ph.dim || coordOf p me d = coordOf p y.toNat d then
      let n := dimSize p ph.dim
      let pos := (ph.pos + coordOf p y.toNat ph.dim + n - coordOf p me ph.dim) % n
      if pos < ph.span then some pos else none
    else none

/-- The role of tile `i` in a phase, none where the phase's part does not hold it. -/
def roleIn (ph : CPhase) (absent : Option Nat) (i : Nat) : Option Role :=
  if ph.first ≤ i ∧ i < ph.first + ph.count ∧ 0 < ph.span then
    let t := i - ph.first
    let lo := fun j => j * ph.count / ph.span
    match (List.range ph.span).find? fun j => decide (lo j ≤ t) && decide (t < lo (j + 1)) with
    | none => none
    | some j =>
      let plus := decide (2 * (t - lo j) < lo (j + 1) - lo j)
      let present := (List.range ph.span).filter fun x => some x ≠ absent
      let owner := if some j = absent then (j + 1) % ph.span else j
      let n := present.length
      let r := fun x => present.idxOf x
      some ⟨(if plus then r ph.pos + n - r owner else r owner + n - r ph.pos) % n, n, plus⟩
  else none

/-- The absent member that counts in phase `x` of a plan: in the first RS phase and in the last NARROWGATHER phase of a part
(log 52). -/
def absentIn (s : State) (phases : List CPhase) (x : Nat) (ph : CPhase) (i : Nat) : Option Nat :=
  let holds := fun (q : CPhase) => q.op = ph.op && decide (q.first ≤ i) && decide (i < q.first + q.count) && q.standin.isNone
  if ph.standin.isSome then none
  else if ph.op = 1 && (phases.take x).any holds then none
  else if ph.op = 2 then none
  else if ph.op = 3 && (phases.drop (x + 1)).any holds then none
  else droppedPos s ph

/-- The phases of a plan that hold tile `i`, with its roles. -/
def tilePhases (s : State) (cp : CPlan) (i : Nat) : List (CPhase × Role) :=
  (List.zipIdx cp.phases).filterMap fun x =>
    (roleIn x.1 (absentIn s cp.phases x.2 x.1 i) i).map fun r => (x.1, r)

/-- Plan tickets that a phase brings to a tile here. -/
def phaseTickets (x : CPhase × Role) : Nat :=
  if x.1.op = 1 then (if x.2.n ≤ 1 || x.2.k = 1 then 0 else 1)
  else if x.1.op = 2 then (if x.2.k = 0 || x.1.standin.isSome then 0 else 1)
  else 0

/-- The position after this one in a direction, among the members present. -/
def nextPos (ph : CPhase) (absent : Option Nat) (plus : Bool) : Nat :=
  let present := (List.range ph.span).filter fun x => some x ≠ absent
  present.getD ((present.idxOf ph.pos + (if plus then 1 else present.length - 1)) % max 1 present.length) 0

/-- Plan tickets that some phases bring to tile `i` at the next member along dimension `d`: where they run along `d`, by its own place;
elsewhere as here, but for phases that only this member takes the tile through, after an RS phase along `d` has ended it here. -/
def peerGo (s : State) (cp : CPlan) (i d : Nat) (plus : Bool) : List (CPhase × Nat) → Bool → Nat
  | [], _ => 0
  | y :: l, apart =>
    let ab := absentIn s cp.phases y.2 y.1 i
    let ph := if y.1.dim = d then { y.1 with pos := nextPos y.1 ab plus, standin := none } else y.1
    match roleIn ph ab i with
    | none => peerGo s cp i d plus l apart
    | some r =>
      if y.1.dim = d then phaseTickets (ph, r) + peerGo s cp i d plus l (decide (y.1.op = 1))
      else (if apart then 0 else phaseTickets (ph, r)) + peerGo s cp i d plus l apart

/-- The plan ticket that a phase's frame of tile `i` has at the member it goes to: tickets are numbered consecutively across the
phases at each tile (R362, R365). -/
def peerTicket (s : State) (cp : CPlan) (i : Nat) (x : CPhase × Role) : Nat :=
  peerGo s cp i x.1.dim x.2.plus ((List.zipIdx cp.phases).takeWhile fun y => y.1 ≠ x.1) false + 1

/-- Whether a phase sends the tile on from here; a stand-in forwards the SET frames of a SETGATHER as they come (R384). -/
def phaseSends (x : CPhase × Role) : Bool :=
  if x.1.op = 1 then decide (x.2.k ≠ 0)
  else if x.1.op = 2 && x.1.standin.isSome && x.2.k ≠ 0 then false
  else decide (x.2.k + 1 < x.2.n)

/-! ### Sending data frames of a phase (R358, R359) -/

/-- Ring pairs that carry a phase in a direction: those of RINGS in service, or where none is, those of its ring set (R357). -/
def phasePairs (s : State) (ph : CPhase) (plus : Bool) : List Nat :=
  let l := (ringSet s.cfg.live ph.dim).filter fun n => (portOf s (portFor n plus)).up
  let r := l.filter fun n => ph.rings.getLsbD n
  if r.isEmpty then l else r

/-- Send a frame of a phase to its neighbour, on the given channel or routed (R358, R359; log 54); a package that has dropped out
sends no plan frame (R379). -/
def sendPhase (s : State) (ph : CPhase) (plus : Bool) (tile vc : Nat) (f : Frame) : State :=
  let dst := if plus then ph.plus else ph.minus
  let f := { f with dst := dst }
  if s.hz.drop.dropped then s
  else if (if plus then ph.plusRtd else ph.minusRtd) then sendRouted s { f with vc := 2 } none
  else
    let f := { f with vc := BitVec.ofNat 4 vc }
    let up := phasePairs s ph plus
    let pairs := if up.isEmpty then (ringSet s.cfg.live ph.dim).take 1 else up
    match pairs[tile % max 1 pairs.length]? with
    | some n => sendOn s (portFor n plus) f
    | none => s

/-- The pieces of a run of bytes for frames of `k` bytes, with their offsets. -/
def framePieces (k : Nat) (bs : List Byte) : List (Nat × List Byte) :=
  (List.zipIdx (chunks (max 1 k) bs)).map fun x => (x.2 * max 1 k, x.1)

/-! ### Which plan a tile is under -/

/-- The use of a reduce plan that a tile is under. -/
structure PlanUse where
  cplan   : Nat
  plan    : CPlan
  tile    : Nat            -- its index in the region
  base    : Nat
  tenant  : BitVec 4
  step    : Word
  attempt : Nat
  cmd     : Option Word    -- the REDUCE command, none for a step plan
  stream  : Word           -- the stream of the command that sends its frames
deriving DecidableEq, Repr

/-- ATTEMPT of a run (R368). -/
def runAttempt (r : StepRun) : Nat :=
  (2 * r.replays + (match r.verdict with | some v => if v.outcome = 1 then 1 else 0 | none => 0)) % 256

/-- The stream of an operation's frames, by which a STATUS frame finds it (R350). -/
def opStream (s : State) (h : Word) : Word := (findOp s h).elim 0x80000000 fun o => BitVec.ofNat 32 o.stream

/-- The REDUCE command at work whose region holds a tile. -/
def collUse (s : State) (tile : Nat) : Option PlanUse :=
  s.step.colls.findSome? fun c =>
    match nmGet? s.cfg.live.cplans c.plan with
    | none => none
    | some cp =>
      if cp.kind ≠ 1 || !c.begun then none
      else
        let l := regionAddrs s.cfg.live cp.tiles c.src
        if l.contains tile then
          some ⟨c.plan, cp, l.idxOf tile, c.src, c.tenant, BitVec.ofNat 32 c.number, 0, some c.handle, opStream s c.handle⟩ else none

/-- The reduce plan of a running step that holds a tile. -/
def stepUse (s : State) (tile : Nat) : Option PlanUse :=
  s.step.runs.findSome? fun r =>
    if !r.started || r.zeroed then none
    else match nmGet? s.cfg.live.stepplans r.plan with
      | none => none
      | some g => g.layers.findSome? fun l =>
        match l.reduce.bind (fun x => (nmGet? s.cfg.live.cplans x).map fun cp => (x, cp)) with
        | none => none
        | some x =>
          let a := regionAddrs s.cfg.live x.2.tiles x.2.base
          if a.contains tile then
            some ⟨x.1, x.2, a.idxOf tile, x.2.base, r.tenant, r.stepNo.setWidth 32, runAttempt r, none, opStream s r.handle⟩ else none

/-- The plan that a tile is under. -/
def planUse (s : State) (tile : Nat) : Option PlanUse :=
  match collUse s tile with
  | some u => some u
  | none => stepUse s tile

/-! ### The ticket sequence -/

/-- A tile's sequence. -/
def tileDyn (s : State) (tile : Nat) : TileDyn := nmGet tileZero s.step.tiles tile

/-- Change a tile's sequence. -/
def updTile (s : State) (tile : Nat) (f : TileDyn → TileDyn) : State :=
  { s with step := { s.step with tiles := nmSet s.step.tiles tile (f (tileDyn s tile)) } }

/-- Whether a tile's FINAL has been applied. -/
def hostDone (d : TileDyn) : Bool := match d.final with | some f => decide (f < d.next) | none => false

/-- Plan tickets applied. -/
def planApplied (d : TileDyn) : Nat := match d.final with | some f => d.next - (f + 1) | none => 0

/-- Whether a tile is reduced (R244): its FINAL and every plan ticket have been applied, and it has passed its phases. -/
def tileReduced (s : State) (tile : Nat) : Bool :=
  let d := tileDyn s tile
  hostDone d && (match planUse s tile with
    | some u => decide ((tilePhases s u.plan u.tile).length ≤ d.sent)
    | none => true)

/-- The format of the accumulator run that holds a tile. -/
def tileFmt (s : State) (tile : Nat) : Nat := (tileRunAt s.cfg.live tile).elim 0 fun r => r.fmt

/-- What an accumulator element of a poisoned granule reads as: canonical NaN, or 0 in an integer tile (Table 2 of *Replica digests, error
correction and error reports*). -/
def poisonedElem (fmt : Nat) : Nat := if fmt = 0 then fpNan.toNat else 0

/-- An accumulator tile's bytes, elements of poisoned granules as an adder loads them. -/
def tileBytes (s : State) (tile : Nat) : List Byte :=
  let fmt := tileFmt s tile
  let eb := accElemBytes fmt
  let bs := dRead s tile (accTileBytes fmt)
  if s.mem.poison.isEmpty then bs
  else (List.zipIdx (chunks eb bs)).flatMap fun x =>
    if s.mem.poison.contains ((tile + eb * x.2) / 64) then leBytes eb (poisonedElem fmt) else x.1

/-- An adder reads the chunks of a range that its buffer does not hold (R441, R548). -/
def readChunks (s : State) (a n : Nat) : State :=
  reach s (((blocksOf 256 a n).filter fun k => !inAdder s (256 * k)).map fun k => (256 * k, 256))

/-- The whole of an accumulator tile is read. -/
def readTile (s : State) (tile : Nat) : State := readChunks s tile (accTileBytes (tileFmt s tile))

/-- Send a tile on in a phase. -/
def sendTile (s0 : State) (u : PlanUse) (tile ticket : Nat) (x : CPhase × Role) : State :=
  let s := readTile s0 tile
  (framePieces u.plan.frame (tileBytes s tile)).foldl (fun s pc =>
    sendPhase s x.1 x.2.plus u.tile 0 { frameBlank s (if x.1.op = 1 then 0x02 else 0x03) 0 with
      flags := if u.cmd.isSome then 0x10 else 0, plan := BitVec.ofNat 32 u.cplan, step := u.step
      attempt := BitVec.ofNat 8 u.attempt, tenant := u.tenant, stream := u.stream, pticket := BitVec.ofNat 32 ticket
      addr := BitVec.ofNat 44 ((if u.cmd.isSome then tile - u.base else tile) + pc.1), payload := pc.2 }) s

/-- Whether a tile's turn to be sent in a phase has come: tiles that go the same way are sent in ascending order (R359). -/
def inTurn (s : State) (u : PlanUse) (x : CPhase × Role) : Bool :=
  match u.tile with
  | 0 => true
  | k + 1 =>
    let l := tilePhases s u.plan k
    match l.findIdx? fun y => decide (y.1 = x.1) && decide (y.2 = x.2) with
    | none => true
    | some j => decide (j < (tileDyn s ((regionAddrs s.cfg.live u.plan.tiles u.base).getD k 0)).sent)

/-- Let a tile pass the phases it has come to: `t` counts the tickets of the phases before. -/
def advanceGo (u : PlanUse) (tile : Nat) : List (CPhase × Role) → Nat → Nat → State → State
  | [], _, _, s => s
  | x :: xs, i, t, s =>
    let d := tileDyn s tile
    let t' := t + phaseTickets x
    if i < d.sent then advanceGo u tile xs (i + 1) t' s
    else if planApplied d < t' || (phaseSends x && !inTurn s u x) then s
    else
      let s := if phaseSends x then sendTile s u tile (peerTicket s u.plan u.tile x) x else s
      advanceGo u tile xs (i + 1) t' (updTile s tile fun d => { d with sent := i + 1 })

/-- The shard and tile number of an accumulator tile. -/
def shardOfTile (s : State) (tile : Nat) : Option (Nat × ShardCfg × Nat) :=
  s.cfg.live.shards.findSome? fun e =>
    if inRange tile e.2.accBase (tileCount e.2 * accTileBytes e.2.accFmt) then
      some (e.1, e.2, (tile - e.2.accBase) / accTileBytes e.2.accFmt) else none

/-- The magnitude of a presented value, none where it is not finite. A value with more bits than FP32 holds is rounded to nearest even
(DESIGN CHOICE, log 137). -/
def magWord (v : Val) : Option Word :=
  match (present v).1 with
  | .fin _ m e => some (toFp32 (.fin false m e)).1
  | .nan => none
  | .inf _ => none

/-- The norm triple of a list of values (R247, R772): presented, aligned sums of 16 added in index order, the largest finite magnitude
and the non-finite flag; with what the sum flushes and its terms that overflow (R333). -/
def partTriple (vs : List Val) : Triple × Counts :=
  let sum := groupedSum (vs.map squareTerm)
  let mags := vs.map magWord
  (⟨sum.w, (mags.filterMap id).foldl (fun m w => if m.toNat < w.toNat then w else m) 0, mags.any (·.isNone)⟩,
    ⟨0, sum.fl, 0, sum.inf⟩)

/-- A triple that is a result, with the counts of its sum of squares as a value written (R333). -/
def tripleOf (ws : List Word) : Triple × Counts :=
  let r := partTriple (ws.map exact32)
  (r.1, countsAdd r.2 (writtenCounts r.1.sumsq))

/-- Combine two triples (R248, R369). -/
def tripleAdd (a b : Triple) : Triple :=
  ⟨(fAdd a.sumsq b.sumsq).w, if isNan32 a.maxm || isNan32 b.maxm then fpNan else if a.maxm.toNat < b.maxm.toNat then b.maxm else a.maxm,
    a.nf || b.nf⟩

/-- Add counts to the operation of a handle. -/
def addOpCounts (s : State) (h : Word) (c : Counts) : State := updOp s h fun o => { o with counts := countsAdd o.counts c }

/-- The PLAN_RUN that drives a tile's step. -/
def tileRunOf (s : State) (tile : Nat) : Option Word :=
  match shardOfTile s tile with
  | some x => (runOf s x.1).map (·.handle)
  | none => none

/-- Form a tile's norm triple when it is reduced: for a tile of a shard with an FP32 accumulator (R247, R249, R361). -/
def formTriple (s0 : State) (tile : Nat) : State :=
  match shardOfTile s0 tile with
  | none => s0
  | some (_, c, t) =>
    if c.accFmt ≠ 0 then s0
    else
      let s := readTile s0 tile
      let ws := ((chunks 4 (tileBytes s tile)).map fun b => BitVec.ofNat 32 (leNat b)).take (tileElems c t)
      let x := tripleOf ws
      let s := match tileRunOf s tile with | some h => addOpCounts s h x.2 | none => s
      updTile s tile fun d => { d with triple := some x.1 }

/-- Whether every tile of a plan's region has passed its phases here. -/
def regionDone (s : State) (u : PlanUse) : Bool :=
  (List.zipIdx (regionAddrs s.cfg.live u.plan.tiles u.base)).all fun x =>
    decide ((tilePhases s u.plan x.2).length ≤ (tileDyn s x.1).sent) && hostDone (tileDyn s x.1)

/-- A plan is complete on this package: its GROUP is signalled (Table 5), and a REDUCE command ends. -/
def finishRegion (s : State) (u : PlanUse) : State :=
  let s := syncAdd s u.plan.group.toNat 1
  match u.cmd with
  | none => s
  | some h =>
    let s := { s with step := { s.step with colls := s.step.colls.filter fun c => c.handle ≠ h } }
    match findOp s h with
    | some o => finishOp s o { status := o.status, counts := o.counts }
    | none => s

/-- A tile of a plan's region passes the phases that it has come to, and forms its triple once it is reduced. -/
def advanceOne (u : PlanUse) (s : State) (x : Nat × Nat) : State :=
  if hostDone (tileDyn s x.1) then
    let u := { u with tile := x.2 }
    let s := advanceGo u x.1 (tilePhases s u.plan u.tile) 0 0 s
    if tileReduced s x.1 && (tileDyn s x.1).triple.isNone then formTriple s x.1 else s
  else s

/-- Whether a step plan reduces a tile. -/
def planReduces (p : Plane) (g : StepPlan) (tile : Nat) : Bool :=
  g.layers.any fun l => (l.reduce.bind (nmGet? p.cplans)).any fun cp => (regionAddrs p cp.tiles cp.base).contains tile

/-- Move a tile on after its sequence has advanced, and the tiles of its region whose turn this brings. A tile that a step plan reduces
waits for its run (R244, R402). -/
def advanceTile (s : State) (tile : Nat) : State :=
  if !hostDone (tileDyn s tile) then s
  else match planUse s tile with
    | none => if (tileDyn s tile).triple.isNone && !(s.cfg.live.stepplans.any fun g => planReduces s.cfg.live g.2 tile) then formTriple s tile else s
    | some u =>
      let was := regionDone s u
      let s := ((List.zipIdx (regionAddrs s.cfg.live u.plan.tiles u.base)).drop u.tile).foldl (advanceOne u) s
      if !was && regionDone s u then finishRegion s u else s

end Sys2Proof.Machine
end

