-- ==== Sys2Proof/Machine/Accum.lean ====
section
/-! DEFINITION. ACCUM and TICKET_APPLY: contributions accepted by the adders, and the tickets applied in order (R240 to R246, R773,
R331, R332, R441 to R443). -/

namespace Sys2Proof.Machine

/-! ### A contribution's elements -/

/-- The source of an ACCUM, once it can be read: bytes of its push pieces (R116), those of a lost piece as poisoned (R556), or a plain
operand; none while it waits. -/
def accumOperand (s : State) (o : Op) : Option Operand :=
  let n := operandBytes (dSfmt o.desc) (dCount o.desc)
  if dSrcSpace o.desc = 3 then
    let k := (n + 63) / 64
    let piece := fun (i : Nat) => ((o.pieces.find? fun x => x.1 = i).map (·.2)).getD []
    if (List.range k).all fun i => o.pieces.any fun x => x.1 = i then
      let lost := (List.range k).flatMap fun i => List.replicate 64 (piece i).isEmpty
      some ⟨s, ((List.range k).flatMap fun i => padTo 64 0 (piece i)).take n, if lost.contains true then lost.take n else [], 0⟩
    else none
  else readOperand s o (dSrcSpace o.desc) (dSrc o.desc) n

/-- A contribution's elements in the accumulator's number form: FP32 bits, or integers as 64-bit two's complement; with the flushes of the
conversion among its first `k` elements, since those beyond lie on padding and are ignored (R140, R212, R331, R332, R770). Poisoned
source elements come as NaN, or as 0 (DEDUCED, log 55). -/
def accumElems (fmt : Nat) (o : Op) (k : Nat) (x : Operand) : List Nat × Nat :=
  if fmt = 0 then
    let els := elemsOf (dSfmt o.desc) (exact32 fpOne) (dCount o.desc) x
    (els.map fun e => (toFp32 e.1).1.toNat, ((els.take k).map (·.2)).sum)
  else
    let w := fmtBits (dSfmt o.desc) / 8
    ((List.zipIdx ((chunks w x.bytes).take (dCount o.desc))).map fun e =>
      if elemBad (dSfmt o.desc) x.bad e.2 then 0
      else (toSigned (8 * w) (leNat e.1) % ((2 ^ 64 : Nat) : Int)).toNat, 0)

/-- The tiles that elements `e` to `e + n − 1` of a run touch: each tile's address and the part of the list that falls in it, as
(tile, first element in it, elements). An empty contribution touches the tile of its first element. -/
def tileSplit (r : TileRun) (e : Nat) (els : List Nat) : List (Nat × List (Nat × Nat)) :=
  let last := if els.isEmpty then e / 4096 else (e + els.length - 1) / 4096
  (rangeIncl (e / 4096) last).map fun t =>
    (r.base + t * accTileBytes r.fmt,
     ((List.zipIdx els).filter fun x => (e + x.2) / 4096 = t && decide (e + x.2 < r.elems)).map fun x => ((e + x.2) % 4096, x.1))

/-! ### Acceptance -/

/-- Whether a step plan holds a tile: in a reduce region of a layer, as a shard's accumulator, or as a relay tile. -/
def planHolds (s : State) (g : StepPlan) (tile : Nat) : Bool :=
  (match shardOfTile s tile with | some x => g.shards.contains x.1 | none => false) ||
  (g.relays.any fun i => match s.cfg.live.dmap.relays[i]? with
    | some q => inRange tile q.base (q.tiles * accTileBytes q.fmt)
    | none => false) || planReduces s.cfg.live g tile

/-- Whether a PLAN_RUN that is Running drives a tile's step and has not zeroed its accumulators. -/
def stepTile (s : State) (tile : Nat) : Bool :=
  (s.step.runs.any fun r => !r.zeroed && (nmGet? s.cfg.live.stepplans r.plan).any fun g => planHolds s g tile) ||
  s.fe.ops.any fun o => o.phase = .running && !(s.step.runs.any fun r => r.handle = o.handle) &&
    (opPlan s.cfg.live o).any fun g => planHolds s g tile

/-- What a tile answers to a ticket. -/
inductive TicketCheck where
  | fine
  | wait
  | bad (st : Status)
deriving DecidableEq, Repr

/-- The check of one tile (R44, R141, R242, R243, R245, R773). Which ACCUMs belong to the next step no field of the command says: within a
step, every one that comes once the tile's FINAL has been applied is held until the zeroing (DESIGN CHOICE, log 133). -/
def ticketCheck (s : State) (tile k : Nat) (fin : Bool) : TicketCheck :=
  let d := tileDyn s tile
  if hostDone d then (if stepTile s tile then .wait else .bad stBadField)
  else if k < d.next || d.held.any fun c => c.ticket = k then .bad stTicket
  else match d.final with
    | some f => if f < k || fin then .bad stBadField else .fine
    | none => if d.next + 64 ≤ k then .wait else .fine

/-- The check of a whole contribution: the first tile that refuses it decides, and any tile that waits holds it. -/
def ticketChecks (s : State) (tiles : List Nat) (k : Nat) (fin : Bool) : TicketCheck :=
  let l := tiles.map fun t => ticketCheck s t k fin
  match l.find? fun c => c ≠ .fine && c ≠ .wait with
  | some c => c
  | none => if l.contains .wait then .wait else .fine

/-- Base die whose reorder store holds a tile's chunk at an address. -/
def chunkDie (s : State) (a : Nat) : Nat := (channelOf s a).elim 0 (· / 64)

/-- Bytes that a base die's reorder store holds out of ticket order (R442). -/
def reorderUsed (s : State) (die : Nat) : Nat :=
  (s.step.tiles.map fun e => (e.2.held.map fun c =>
    if c.ticket = e.2.next then 0
    else
      let eb := accElemBytes ((tileRunAt s.cfg.live e.1).elim 0 fun r => r.fmt)
      eb * (c.elems.filter fun x => chunkDie s (e.1 + eb * x.1) = die).length).sum).sum

/-- Whether the reorder stores have room for a contribution that no tile needs next (R442). -/
def reorderRoom (s : State) (k : Nat) (parts : List (Nat × List (Nat × Nat))) : Bool :=
  (List.range 4).all fun die =>
    let need := (parts.map fun p =>
      if (tileDyn s p.1).next = k then 0
      else
        let eb := accElemBytes ((tileRunAt s.cfg.live p.1).elim 0 fun r => r.fmt)
        eb * (p.2.filter fun x => chunkDie s (p.1 + eb * x.1) = die).length).sum
    need = 0 || reorderUsed s die + need ≤ 2 ^ 23

/-- Whether any tile still holds a contribution of an ACCUM. -/
def accumHeld (s : State) (h : Word) : Bool := s.step.tiles.any fun e => e.2.held.any fun c => c.src = .accum h

/-- Held tickets above a FINAL ticket that has been accepted end with ST_BAD_FIELD (R245). -/
def finalTaken (s : State) (tile f : Nat) : State :=
  let gone := (tileDyn s tile).held.filterMap fun c => match c.src with
    | .accum h => if f < c.ticket then some h else none
    | .plan _ _ => none
  gone.foldl (fun s h => endAccum s h stBadField) s

/-- One tile accepts a contribution. -/
def acceptTile (c : Contribution) (s : State) (tile : Nat) : State :=
  let s := updTile s tile fun d => { d with
    held := d.held ++ [c], final := if c.final then some c.ticket else d.final }
  if c.final then finalTaken s tile c.ticket else s

/-- Whether a contribution is the lowest unapplied ticket of some tile it touches, or its stores have room. -/
def accumRoom (s : State) (k : Nat) (parts : List (Nat × List (Nat × Nat))) : Bool :=
  reorderRoom s k parts

/-- The contribution's parts enter the adders of its tiles. -/
def acceptAccum (o : Op) (fin sat : Bool) (parts : List (Nat × List (Nat × Nat))) (s : State) : State :=
  parts.foldl (fun s p => acceptTile
    { ticket := dTicket o.desc, src := .accum o.handle, set := false, sat := sat, final := fin, elems := p.2 } s p.1) s

/-- ACCUM: the checks of R240 to R245 tile by tile, then acceptance; the command is Done once every tile has applied it. -/
def tryAccum (s : State) (o : Op) : Outcome :=
  withGroup s o 0 (dDst o.desc) <|
  match (localAddr s.cfg.live (dDst o.desc)).bind fun a => (tileRunAt s.cfg.live a).bind fun r => (accumFirst r a).map fun e => (r, e) with
  | none => .done s (resSt stBadField)
  | some (r, e) =>
    let k := dTicket o.desc
    let fin := dBits o.desc 38 0 1 = 1
    let sat := dBits o.desc 38 1 1 = 1
    let tiles := (tileSplit r e (List.replicate (dCount o.desc) 0)).map (·.1)
    match ticketChecks s tiles k fin with
    | .bad st => .done s (resSt st)
    | .wait => .wait
    | .fine =>
      if dEmpty o.desc then
        .go (acceptAccum o fin sat [(r.base + e / 4096 * accTileBytes r.fmt, [])]
          (updOp s o.handle fun x => { x with empty := true }))
      else match accumOperand s o with
        | none => .wait
        | some x =>
          let els := accumElems r.fmt o (r.elems - e) x
          let parts := tileSplit r e els.1
          if accumRoom x.s k parts then
            .go (acceptAccum o fin sat parts (updOp x.s o.handle fun y => { y with
              status := readStatus x.s o.tenant x, counts := countsAdd y.counts ⟨0, els.2, 0, 0⟩ }))
          else .wait

/-- ACCUM (R240). -/
def execAccum (handle : Word) (s : State) : Host.Outcome State Fault Refusal := .next (runData opAccum tryAccum handle s)

/-! ### Applying a ticket -/

/-- An accumulator element as an adder loads it, with a group's own new data where it works for one: an element of a poisoned granule is
NaN, or 0 in an integer tile (Table 2 of *Replica digests, error correction and error reports*). -/
def loadElem (s : State) (grp : Option Nat) (tile fmt i : Nat) : Nat :=
  let eb := accElemBytes fmt
  let a := tile + eb * i
  if s.mem.poison.contains (a / 64) then poisonedElem fmt else leNat (groupRead s grp a eb)

/-- One element after a contribution's element is applied to it (R331, R332), with its counts. -/
def addElem (fmt : Nat) (set sat : Bool) (acc x : Nat) : Nat × Counts :=
  if fmt = 0 then
    if set then (x, writtenCounts (BitVec.ofNat 32 x))
    else let r := fAdd (BitVec.ofNat 32 acc) (BitVec.ofNat 32 x); (r.w.toNat, flCounts r)
  else
    let w := 8 * accElemBytes fmt
    if set then (x % 2 ^ w, countsZero)
    else
      let r := intAccum w sat (toSigned w acc) (toSigned 64 x)
      ((r.1 % ((2 ^ w : Nat) : Int)).toNat, ⟨r.2, 0, 0, 0⟩)

/-- The elements of a tile that a contribution's 256 B chunks hold: the first, and the one past the last. -/
def chunkSpan (fmt : Nat) (c : Contribution) : Nat × Nat :=
  match c.elems with
  | [] => (0, 0)
  | (i0, _) :: _ =>
    let per := 256 / accElemBytes fmt
    (i0 / per * per, (i0 + c.elems.length + per - 1) / per * per)

/-- The range of memory that a contribution to a tile reaches, in whole chunks. -/
def contribRange (tile fmt : Nat) (c : Contribution) : Nat × Nat :=
  let x := chunkSpan fmt c
  (tile + accElemBytes fmt * x.1, accElemBytes fmt * (x.2 - x.1))

/-- The bytes of a contribution's chunks once it has been added to in element order, with its counts. -/
def contribBytes (s : State) (grp : Option Nat) (tile fmt : Nat) (c : Contribution) : List Byte × Counts :=
  match c.elems with
  | [] => ([], countsZero)
  | (i0, _) :: _ =>
    let x := chunkSpan fmt c
    let load := loadElem s grp tile fmt
    let head := (List.range (i0 - x.1)).map fun j => load (x.1 + j)
    let mid := (List.zipIdx c.elems).map fun y => addElem fmt c.set c.sat (load (i0 + y.2)) y.1.2
    let tail := (List.range (x.2 - (i0 + c.elems.length))).map fun j => load (i0 + c.elems.length + j)
    ((head ++ mid.map (·.1) ++ tail).flatMap (leBytes (accElemBytes fmt)), mid.foldl (fun a x => countsAdd a x.2) countsZero)

/-- The chunks of a range are the most recently used of their channels' adders; of 1,024 slots the least recently used is written back
(R441). -/
def useAdder (s : State) (a n : Nat) : State :=
  let put := fun (m : NMap (List Nat)) (k : Nat) => match channelOf s (256 * k) with
    | some c => let l := (nmGet [] m c).filter (· ≠ k) ++ [k]; nmSet m c (l.drop (l.length - 1024))
    | none => m
  { s with units := { s.units with adders := (blocksOf 256 a n).foldl put s.units.adders } }

/-- A tile's last ticket has been applied: its chunks leave the adders (R441). -/
def freeAdder (s : State) (tile n : Nat) : State :=
  { s with units := { s.units with adders := s.units.adders.map fun c => (c.1, c.2.filter fun k => !meets (256 * k) 256 tile n) } }

/-- Whether a contribution is of a CMD frame. -/
def ofCommand (c : Contribution) : Bool := match c.src with | .plan _ f => f.flags.getLsbD 4 | .accum _ => false

/-- Frames of the next plan ticket, once they cover the whole tile; `cmd` tells those of a REDUCE command from those of a step plan, which
are never matched with each other (R777). -/
def planReady (cmd : Bool) (d : TileDyn) : Option (List Contribution) :=
  let l := d.plan.filter fun c => c.ticket = planApplied d + 1 && ofCommand c = cmd
  if 4096 ≤ (l.map fun c => c.elems.length).sum then some l else none

/-- Return the credits of a plan frame that its adder has accepted, when it came over a port. -/
def planAccepted (s : State) (c : Contribution) : State :=
  match c.src with
  | .plan port f => creditBack s port f
  | .accum _ => s

/-- The ticket a tile applies next: the lowest host ticket, or the next plan ticket once FINAL has been applied (R241, R362). -/
def nextContribution (cmd : Bool) (d : TileDyn) : Option (List Contribution) :=
  if hostDone d then planReady cmd d else (d.held.find? fun c => c.ticket = d.next).map fun c => [c]

/-- Add a contribution's counts to the command it belongs to (R333; log 53). -/
def countTicket (s : State) (tile : Nat) (c : Contribution) (k : Counts) : State :=
  match c.src with
  | .accum h => addOpCounts s h k
  | .plan _ _ => match planUse s tile with
    | some u => match u.cmd with
      | some h => addOpCounts s h k
      | none => match s.step.runs.find? fun r => r.started && r.tenant = u.tenant with
        | some r => addOpCounts s r.handle k
        | none => s
    | none => s

/-- An ACCUM whose last tile has applied it is Done. -/
def accumApplied (s : State) (c : Contribution) : State :=
  match c.src with
  | .plan _ _ => s
  | .accum h =>
    if accumHeld s h then s
    else match findOp s h with
      | some o => if o.phase = .running then finishOp s o { status := o.status, counts := o.counts, empty := o.empty } else s
      | none => s

/-- The transaction group that a contribution's command belongs to (R283). -/
def contribGroup (s : State) (tile : Nat) (c : Contribution) : Option Nat :=
  (match c.src with
   | .accum h => findOp s h
   | .plan _ _ => ((planUse s tile).bind fun u => u.cmd).bind (findOp s)).bind (groupOf s)

/-- Apply one contribution, with its counts, credits and its command's end: in the adder, or in the write set of its command's group
(R284). -/
def applyOne (tile fmt : Nat) (s : State) (c : Contribution) : State :=
  let g := contribGroup s tile c
  let x := contribRange tile fmt c
  let r := contribBytes s g tile fmt c
  let s := match g with
    | none => useAdder (dWrite s x.1 r.1) x.1 r.1.length
    | some g => (match groupWrite s g x.1 r.1 with | .ok s => s | .wait s => s | .limit s => s)
  accumApplied (planAccepted (countTicket s tile c r.2) c) c

/-- What lets a ticket be applied. -/
inductive TicketGate where
  | open_
  | shut (s : State)
  | full (s : State) (h : Word)

/-- Whether a contribution can be written: its homes hold no write, and a group's lines are locked for it (R284, R285). -/
def ticketGate (s : State) (tile fmt : Nat) (c : Contribution) : TicketGate :=
  let x := contribRange tile fmt c
  match contribGroup s tile c with
  | none => if writeHeld s none x.1 x.2 then .shut s else .open_
  | some g =>
    if accessHeld s x.1 x.2 then .shut s
    else match groupWrite s g x.1 (groupRead s (some g) x.1 x.2) with
      | .ok _ => .open_
      | .wait t => .shut { s with step := t.step }
      | .limit t => (match c.src with
        | .accum h => .full { s with step := t.step } h
        | .plan _ _ => .shut { s with step := t.step })

/-- The adders read what some contributions reach; those of a group read its write set. -/
def readParts (s : State) (tile fmt : Nat) (l : List Contribution) : State :=
  (l.filter fun c => (contribGroup s tile c).isNone).foldl (fun s c => let x := contribRange tile fmt c; readChunks s x.1 x.2) s

/-- The first gate of some contributions that is not open. -/
def ticketGates (s : State) (tile fmt : Nat) : List Contribution → TicketGate
  | [] => .open_
  | c :: l => match ticketGate s tile fmt c with
    | .open_ => ticketGates s tile fmt l
    | x => x

/-- The next ticket of a tile is applied (R241), and the tile moves on through its plan. A contribution whose homes hold writes waits; one
that does not fit its group's write set ends with ST_LIMIT. A package that has dropped out applies no plan ticket (R379). -/
def applyTicket (tile : Nat) (s : State) : State :=
  match tileRunAt s.cfg.live tile with
  | none => s
  | some r =>
    if (tile - r.base) % accTileBytes r.fmt ≠ 0 then s
    else if hostDone (tileDyn s tile) && s.hz.drop.dropped then s
    else match nextContribution ((planUse s tile).any fun u => u.cmd.isSome) (tileDyn s tile) with
      | none => s
      | some l =>
        match ticketGates s tile r.fmt l with
        | .shut s => s
        | .full s h => settle (serveHeld (endAccum s h stLimit))
        | .open_ =>
          let s := readParts s tile r.fmt l
          let s := updTile s tile fun d => { d with
            next := d.next + 1, held := d.held.filter fun c => !l.contains c, plan := d.plan.filter fun c => !l.contains c }
          let s := advanceTile (l.foldl (applyOne tile r.fmt) s) tile
          settle (if tileReduced s tile then freeAdder s tile (accTileBytes r.fmt) else s)

/-- TICKET_APPLY (R241). -/
def execTicketApply (tile : BitVec 44) (s : State) : Host.Outcome State Fault Refusal := .next (applyTicket tile.toNat s)

end Sys2Proof.Machine
end

