-- ==== Sys2Proof/Machine/Programs.lean ====
section
/-! DEFINITION. Update programs: stage words, operands, one element through a pass, shard scalars and reductions (R206 to R211,
R223 to R227; Tables 2, 3, 4 and 7 of *Update engines and parameter state*). -/

namespace Sys2Proof.Machine

/-! ### Stages -/

/-- A stage word (Table 3). -/
structure Stage where
  op   : Nat
  a    : Nat
  b    : Nat
  c    : Nat
  negA : Bool
  negB : Bool
  negC : Bool
  out  : Nat
  cond : Nat
  pass : Nat
deriving DecidableEq, Repr

/-- Read a stage word. -/
def stageOf (w : DWord) : Stage :=
  let f := fun l n => w.toNat / 2 ^ l % 2 ^ n
  ⟨f 56 8, f 48 8, f 40 8, f 32 8, w.getLsbD 31, w.getLsbD 30, w.getLsbD 29, f 24 5, f 20 4, f 18 2⟩

/-- What a pass takes from the shard: program constants, scalars, T, the EMA interval, integer kind and its mode. -/
structure PassEnv where
  ks   : List Word
  ss   : List Word
  t    : Nat
  kEma : Nat
  intK : Bool
  sat  : Bool
deriving DecidableEq, Repr

/-- What an element brings: FP32 bits, or 64-bit two's complement for an integer shard. -/
structure ElemIn where
  g  : Nat
  w  : Nat
  lo : Nat
  m  : Nat
  v  : Nat
  e  : Nat
  mi : Nat
  vi : Nat
  rowf : Nat
  colf : Nat
deriving DecidableEq, Repr

/-- Whether the step is an EMA step (R209). -/
def emaStep (e : PassEnv) : Bool := (e.t + 1) % max 1 e.kEma = 0

/-- Whether a stage is on (R209). -/
def stageOn (e : PassEnv) (s : Stage) : Bool :=
  match s.cond with
  | 0 => true
  | 1 => emaStep e
  | 2 => e.t = 0
  | 3 => 0 < e.t
  | 4 => 0 < e.t && emaStep e
  | _ => true

/-- An operand (Table 4). -/
def operandOf (e : PassEnv) (x : ElemIn) (res : List Nat) (k : Nat) : Nat :=
  if k < 0x40 then res.getD k (Config.unnamedStage k)
  else if 0x50 ≤ k && k ≤ 0x5F then ((e.ks[k - 0x50]?).getD 0).toNat
  else if 0x60 ≤ k && k ≤ 0x6F then ((e.ss[k - 0x60]?).getD 0).toNat
  else match k with
    | 0x40 => x.g
    | 0x41 => x.w
    | 0x42 => x.lo
    | 0x43 => x.m
    | 0x44 => x.v
    | 0x45 => x.e
    | 0x46 => x.mi
    | 0x47 => x.vi
    | 0x48 => x.rowf
    | 0x49 => x.colf
    | 0x70 => 0
    | 0x71 => if e.intK then 1 else fpOne.toNat
    | 0x72 => if e.intK then 2 ^ 64 - 1 else 0xBF800000
    | k => Config.unnamedStage k

/-- Negation of an operand, exact. -/
def negOperand (e : PassEnv) (neg : Bool) (n : Nat) : Nat :=
  if !neg then n else if e.intK then (2 ^ 64 - n % 2 ^ 64) % 2 ^ 64 else (fpNeg (BitVec.ofNat 32 n)).toNat

/-- An FP32 operation of Table 2; a reduction passes its operand on. -/
def stageFp (op : Nat) (a b c : Word) : Fl :=
  match op with
  | 0x01 => fAdd a b
  | 0x02 => fSub a b
  | 0x03 => fMul a b
  | 0x04 => fFma a b c
  | 0x05 => fMin a b
  | 0x06 => fMax a b
  | 0x07 => fAbs a
  | 0x08 => fSign a
  | 0x09 => fSel a b c
  | 0x0A => fMov a
  | 0x10 => fSqrt a
  | 0x11 => fRecip a
  | 0x12 => fRsqrt a
  | 0x13 => fExp2 a
  | 0x14 => fLog2 a
  | 0x20 => ⟨a, 0⟩
  | 0x21 => ⟨a, 0⟩
  | 0x22 => ⟨a, 0⟩
  | 0x23 => ⟨a, 0⟩
  | 0x24 => ⟨a, 0⟩
  | k => ⟨BitVec.ofNat 32 (Config.unnamedStage k), 0⟩

/-- One stage on one element: its result, with what it flushes and clamps. An off stage yields the operand that PASS selects as it
would have entered the operation (R209). -/
def runStage (e : PassEnv) (x : ElemIn) (res : List Nat) (s : Stage) : Nat × Counts :=
  let a := negOperand e s.negA (operandOf e x res s.a)
  let b := negOperand e s.negB (operandOf e x res s.b)
  let c := negOperand e s.negC (operandOf e x res s.c)
  if e.intK then
    if !stageOn e s then (if s.pass = 0 then a else if s.pass = 1 then b else c, countsZero)
    else if s.op = 0x30 then
      let r := intAccum 64 e.sat (toSigned 64 (a % 2 ^ 64)) (toSigned 64 (b % 2 ^ 64))
      ((r.1 % ((2 ^ 64 : Nat) : Int)).toNat, ⟨r.2, 0, 0, 0⟩)
    else (Config.unnamedStage s.op, countsZero)
  else
    let r := if !stageOn e s then flush32 (BitVec.ofNat 32 (if s.pass = 0 then a else if s.pass = 1 then b else c))
      else stageFp s.op (BitVec.ofNat 32 a) (BitVec.ofNat 32 b) (BitVec.ofNat 32 c)
    (r.w.toNat, ⟨0, r.fl, 0, 0⟩)

/-- Every stage of a pass on one element: the results in stage order, with their counts. -/
def runStages (e : PassEnv) (x : ElemIn) : List Stage → List Nat × Counts → List Nat × Counts
  | [], acc => acc
  | s :: ss, acc =>
    let r := runStage e x acc.1 s
    runStages e x ss (acc.1 ++ [r.1], countsAdd acc.2 r.2)

/-- One element through a pass. -/
def runElement (e : PassEnv) (stages : List Stage) (x : ElemIn) : List Nat × Counts := runStages e x stages ([], countsZero)

/-- The stage with a given OUT. -/
def outStage (stages : List Stage) (out : Nat) : Option Nat :=
  if stages.any fun s => s.out = out then some (stages.findIdx fun s => s.out = out) else none

/-! ### Shard scalars (Table 7) -/

/-- What a slot header says (Table 6, R218). -/
structure Header where
  t      : Nat
  p1     : Word
  p2     : Word
  wmax   : Word
  coarse : Word
  nonfin : Bool
  prog   : Nat
  stepNo : Nat
  clip   : Word
  phi    : Word
deriving DecidableEq, Repr

/-- The scalars of a shard, with the flushes of their operations; `lrArg` is ARG0 where a PLAN_RUN drives the sweep. -/
def shardScalars (g : UeProgram) (h : Header) (c : Word) (lrArg : Option Word) (phi invS : Word) (pass1 trust : Bool) :
    List Word × Nat :=
  let k := fun i => (g.ks[i]?).getD 0
  let lr := match (if g.lrSrc then lrArg else none) with | some a => fMul a (k 7) | none => ⟨k 6, 0⟩
  let p1 := fMul h.p1 (k 0)
  let p2 := fMul h.p2 (k 1)
  let d1 := fSub fpOne p1.w
  let d2 := fSub fpOne p2.w
  let b1 := fRecip d1.w
  let b2 := fRecip d2.w
  let a1 := fMul lr.w b1.w
  let kd := fFma (fpNeg lr.w) (k 3) fpOne
  let lp := if pass1 && trust then fMul lr.w phi else ⟨0, 0⟩
  ([c, lr.w, p1.w, p2.w, b1.w, b2.w, a1.w, kd.w, lp.w, if pass1 && !trust then invS else 0] ++ List.replicate 6 0,
   lr.fl + p1.fl + p2.fl + d1.fl + d2.fl + b1.fl + b2.fl + a1.fl + kd.fl + lp.fl)

/-! ### Reductions (R210) -/

/-- Reduction stages of a pass, by index. -/
def reductionsOf (stages : List Stage) : List (Nat × Nat) :=
  (List.zipIdx stages).filterMap fun s => if 0x20 ≤ s.1.op && s.1.op ≤ 0x24 then some (s.2, s.1.op) else none

/-- Whether a program keeps a factor record (R221). -/
def factored (g : UeProgram) : Bool := g.pass0.any fun w => (stageOf w).op = 0x23 || (stageOf w).op = 0x24

/-- Whether a program has two passes. -/
def twoPass (g : UeProgram) : Bool := !g.pass1.isEmpty

/-- A shard reduction over per-tile lists of operands: the tile partials by the pairwise tree (R210). -/
def reduceTiles (op : Nat) (tiles : List (List Word)) : AlignedResult :=
  if op = 0x22 then
    let all := tiles.flatten
    let m := all.foldl (fun m w => let a := (fAbs w).w; if m.toNat < a.toNat then a else m) 0#32
    ⟨if all.any isNan32 then fpNan else m, (all.map fun w => (fAbs w).fl).sum, 0⟩
  else
    let term := fun w => if op = 0x21 then squareTerm (exact32 w) else plainTerm (exact32 w)
    (pairTree addResults (tiles.map fun l => groupedSum (l.map term))).getD ⟨0, 0, 0⟩

/-- Rows of `n` columns. -/
def rowsOf (cols : Nat) (ws : List Word) : List (List Word) := chunks (max 1 cols) ws

/-- Column `j` of a list of rows. -/
def columnOf (rows : List (List Word)) (j : Nat) : List Word := rows.filterMap fun r => r[j]?

/-- Row and column sums of a factored shard (R210 rules 4 and 5). -/
def rowSums (cols : Nat) (ws : List Word) : List AlignedResult :=
  (rowsOf cols ws).map fun r => groupedSum (r.map fun w => plainTerm (exact32 w))

/-- Column sums over the shard's rows. -/
def colSums (cols : Nat) (ws : List Word) : List AlignedResult :=
  let rows := rowsOf cols ws
  (List.range cols).map fun j => groupedSum ((columnOf rows j).map fun w => plainTerm (exact32 w))

/-- The sum of a list of FP32 words by aligned sums of 16 in order (DEDUCED, log 58). -/
def wordSum (ws : List Word) : AlignedResult := groupedSum (ws.map fun w => plainTerm (exact32 w))

/-- ρ′ or κ′ of one factor: fma(K11, sum − f, f). -/
def factorStep (k11 sum f : Word) : Fl :=
  let d := fSub sum f
  let r := fFma k11 d.w f
  ⟨r.w, d.fl + r.fl⟩

/-- φ of a trust program from Sw and Su. -/
def trustRatio (sw su k5 : Word) : Fl :=
  if isZero32 sw || isZero32 su then ⟨fpOne, 0⟩
  else
    let a := fSqrt sw
    let b := fSqrt su
    let r := fRecip b.w
    let p := fMul a.w r.w
    let q := fMin p.w k5
    ⟨q.w, a.fl + b.fl + r.fl + p.fl + q.fl⟩

end Sys2Proof.Machine
end

