-- ==== Sys2Proof/Machine/Narrow.lean ====
section
/-! DEFINITION. The narrow all-gather: the plan of a layer, the tiles that are present in the inactive copy here, and their way on
(R45, R359, R365, R367, R368). -/

namespace Sys2Proof.Machine

/-- The gather plan of a layer of a step plan. -/
def gatherPlanOf (s : State) (l : StepLayer) : Option (Nat × CPlan) :=
  l.gather.bind fun x => (nmGet? s.cfg.live.cplans x).map fun cp => (x, cp)

/-- The copy of a gather buffer that a layer's all-gather writes: the inactive one, or the only one. -/
def inactiveCopy (s : State) (i : Nat) : Nat :=
  match s.cfg.live.dmap.gathers[i]? with
  | some g => gatherCopy s i g false
  | none => 0

/-- The active copy of a gather buffer. -/
def activeCopy (s : State) (i : Nat) : Nat :=
  match s.cfg.live.dmap.gathers[i]? with
  | some g => gatherCopy s i g true
  | none => 0

/-- Send tile `i` of a layer's all-gather on, in every phase in which this package passes it on (R365, R367; log 51). -/
def narrowSend (s : State) (r : StepRun) (l : StepLayer) (x : Nat × CPlan) (i : Nat) : State :=
  match x.2.narrowOffs[i]? with
  | none => s
  | some (off, n) =>
    let bytes := dRead s (inactiveCopy s l.buffer + off) n
    ((tilePhases s x.2 i).filter phaseSends).foldl (fun s ph =>
      (framePieces x.2.frame bytes).foldl (fun s pc =>
        sendPhase s ph.1 ph.2.plus i 0 { frameBlank s 0x04 0 with
          flags := 0x06, plan := BitVec.ofNat 32 x.1, step := r.stepNo.setWidth 32, attempt := BitVec.ofNat 8 (runAttempt r)
          tenant := r.tenant, stream := opStream s r.handle, addr := BitVec.ofNat 44 (x.2.base + off + pc.1), payload := pc.2 }) s) s

/-- Tile `i` of a layer has become present in the inactive copy here: note it, and send it on. The last one completes the plan on this
package, and signals its GROUP (Table 5). -/
def narrowPresent (s : State) (h : Word) (k : Nat) (l : StepLayer) (x : Nat × CPlan) (i : Nat) : State :=
  match s.step.runs.find? fun r => r.handle = h with
  | none => s
  | some r =>
    if r.narrow.contains (k, i) then s
    else
      let s := narrowSend (updRun s h fun r => { r with narrow := r.narrow ++ [(k, i)] }) r l x i
      if (List.range x.2.narrowOffs.length).all fun j => j = i || r.narrow.contains (k, j) then syncAdd s x.2.group.toNat 1 else s

/-- Tiles of a layer's all-gather that lie in a range of the gather buffer. -/
def narrowIn (x : Nat × CPlan) (off n : Nat) : List Nat :=
  ((List.zipIdx x.2.narrowOffs).filter fun e => decide (off ≤ e.1.1) && decide (e.1.1 + e.1.2 ≤ off + n)).map (·.2)

/-- The narrow tiles of a shard are in place in the inactive copy: every tile of its layer's all-gather that they make up is
present. -/
def narrowShard (s : State) (n : Nat) : State :=
  match runOf s n, nmGet? s.cfg.live.shards n with
  | some r, some c =>
    match nmGet? s.cfg.live.stepplans r.plan with
    | none => s
    | some g => (List.zipIdx g.layers).foldl (fun s l =>
        if l.1.buffer = c.gather && l.1.shards.contains n then
          match gatherPlanOf s l.1 with
          | some x => (narrowIn x c.gatherOff (narrowBytes s.cfg.live c)).foldl (fun s i => narrowPresent s r.handle l.2 l.1 x i) s
          | none => s
        else s) s
  | _, _ => s

/-- A layer's all-gather is complete on this package. -/
def gatherDone (s : State) (r : StepRun) (k : Nat) (l : StepLayer) : Bool :=
  match gatherPlanOf s l with
  | none => true
  | some x => (List.range x.2.narrowOffs.length).all fun i => r.narrow.contains (k, i)

/-! ### Windowed gather (R405 to R408) -/

/-- Whether this package owns tile `i` of a gather plan: it starts the chain in every phase that holds the tile. -/
def gatherOwns (s : State) (cp : CPlan) (i : Nat) : Bool := (tilePhases s cp i).all fun x => x.2.k = 0

/-- The plan of a gather into a slot. -/
def slotPlan (s : State) (q : SlotGather) : Option CPlan := nmGet? s.cfg.live.cplans q.plan

/-- Address of a slot. -/
def slotAddr (s : State) (q : SlotGather) : Nat := activeCopy s q.slot

/-- Uses begun of a slot. -/
def slotUse (s : State) (q : SlotGather) : Nat := nmGet 0 s.step.slotUses q.slot

/-- The gate of a gather into a slot: the release object has reached the count of the slot's previous use, one for each use (R407;
log 142). -/
def slotGate (s : State) (q : SlotGather) : Bool := decide (slotUse s q ≤ (syncGet s q.release.toNat).toNat)

/-- Send tile `t` of a slot on, in every phase in which this package passes it on: neither INACTIVE nor SPEC (R405). -/
def slotSend (s : State) (r : StepRun) (q : SlotGather) (cp : CPlan) (t : Nat) : State :=
  match cp.narrowOffs[t]? with
  | none => s
  | some (off, n) =>
    ((tilePhases s cp t).filter phaseSends).foldl (fun s ph =>
      (framePieces cp.frame (dRead s (slotAddr s q + off) n)).foldl (fun s pc =>
        sendPhase s ph.1 ph.2.plus t 0 { frameBlank s 0x04 0 with
          plan := BitVec.ofNat 32 q.plan, step := r.stepNo.setWidth 32, attempt := BitVec.ofNat 8 (runAttempt r), tenant := r.tenant
          stream := opStream s r.handle, addr := BitVec.ofNat 44 (cp.base + off + pc.1), payload := pc.2 }) s) s

/-- Whether every tile of gather `i` of a step is in its slot. -/
def slotWhole (cp : CPlan) (r : StepRun) (i : Nat) : Bool := (List.range cp.narrowOffs.length).all fun t => r.slotGot.contains (i, t)

/-- Tile `t` of gather `i` of a step is in its slot: it goes on its way, and the last one signals the slot's sync object (R405). -/
def slotPresent (s : State) (h : Word) (i : Nat) (q : SlotGather) (cp : CPlan) (t : Nat) : State :=
  match s.step.runs.find? fun r => r.handle = h with
  | none => s
  | some r =>
    if r.slotGot.contains (i, t) then s
    else
      let r' := { r with slotGot := r.slotGot ++ [(i, t)] }
      let s := slotSend (updRun s h fun _ => r') r' q cp t
      if slotWhole cp r' i then syncAdd s cp.group.toNat 1 else s

/-- Where this package's own narrow weights of a slot's layer lie: in its active copy (R405, R408). -/
def slotSource (s : State) (q : SlotGather) (off : Nat) : Nat := activeCopy s q.own + (off - q.ownOff)

/-- An own tile is copied from the active copy into the slot. -/
def slotCopy (h : Word) (i : Nat) (q : SlotGather) (cp : CPlan) (s : State) (t : Nat) : State :=
  match cp.narrowOffs[t]? with
  | none => s
  | some (off, n) => slotPresent (dWrite s (slotAddr s q + off) (dRead s (slotSource s q off) n)) h i q cp t

/-- Whether the homes hold what a gather into a slot copies. -/
def slotHeld (s : State) (q : SlotGather) (cp : CPlan) (t : Nat) : Bool :=
  match cp.narrowOffs[t]? with
  | none => false
  | some (off, n) => writeHeld s none (slotAddr s q + off) n || readHeld s (slotSource s q off) n

/-- The gathers of a step into its slots begin in the plan's order, each once its gate is open. -/
def beginSlots (h : Word) : Nat → State → State
  | 0, s => s
  | f + 1, s =>
    match s.step.runs.find? fun r => r.handle = h && r.started with
    | none => s
    | some r =>
      match (nmGet? s.cfg.live.stepplans r.plan).bind fun g => g.slots[r.slots]? with
      | none => s
      | some q =>
        match slotPlan s q with
        | none => s
        | some cp =>
          let own := (List.range cp.narrowOffs.length).filter (gatherOwns s cp)
          let ranges := own.filterMap fun t => (cp.narrowOffs[t]?).map fun e => (slotSource s q e.1, e.2)
          let s := if slotGate s q && !s.hz.drop.dropped then reachFree s ranges else s
          if !slotGate s q || s.hz.drop.dropped || own.any (slotHeld s q cp) then s
          else
            let s := updRun s h fun r => { r with slots := r.slots + 1 }
            let s := { s with step := { s.step with slotUses := nmSet s.step.slotUses q.slot (slotUse s q + 1) } }
            beginSlots h f (own.foldl (slotCopy h r.slots q cp) s)

/-- The plan player looks at the gates of the gather windows: at PLAN_RUN_START, SIGNAL, PHASE_DISPATCH and NARROW frames (DESIGN CHOICE,
log 142). -/
def slotGathers (s : State) : State :=
  s.step.runs.foldl (fun s r => beginSlots r.handle (((nmGet? s.cfg.live.stepplans r.plan).elim 0 fun g => g.slots.length) + 1) s) s

/-- The gather into a slot that a NARROW frame belongs to, with its run, its plan and the tile that the frame ends or goes into: the first
of its plan that lacks the tile. -/
def slotOf (s : State) (t : BitVec 4) (plan a n : Nat) : Option (StepRun × Nat × SlotGather × CPlan × Nat) :=
  s.step.runs.findSome? fun r =>
    if !r.started || r.tenant ≠ t then none
    else (nmGet? s.cfg.live.stepplans r.plan).bind fun g => (List.zipIdx g.slots).findSome? fun x =>
      if x.1.plan ≠ plan then none
      else (slotPlan s x.1).bind fun cp => (List.zipIdx cp.narrowOffs).findSome? fun e =>
        if cp.base + e.1.1 ≤ a && a + n ≤ cp.base + e.1.1 + e.1.2 && !r.slotGot.contains (x.2, e.2) then some (r, x.2, x.1, cp, e.2) else none

/-- SIGNAL (R152); it may open the gate of a gather window (R407). -/
def execSignal (handle : Word) (s : State) : Host.Outcome State Fault Refusal := .next (settle (slotGathers (runCommand opSignal trySignal handle s)))

end Sys2Proof.Machine
end

