-- ==== Sys2Proof/Machine/Sweep.lean ====
section
/-! DEFINITION. A sweep: the tiles it reads and writes, the header, narrow weights and digests that end it, its two passes, and the
undo log of capacity mode (*Update engines and parameter state*; R254, R266, R278 to R281, R568). -/

namespace Sys2Proof.Machine

/-! ### Headers (Table 6, R218) -/

/-- A shard's FORMATS entry. -/
def formatOf (p : Plane) (c : ShardCfg) : FormatEntry := nmGet ⟨0x1A, 0, false, fpOne⟩ p.formats c.fmtIndex

/-- A shard's program. -/
def programOf (p : Plane) (c : ShardCfg) : UeProgram := nmGet ⟨0, false, false, 1, none, [], [], []⟩ p.ueprogs c.prog

/-- A slot header as R218 reads it. -/
def readHeader (s : State) (c : ShardCfg) (slot : Nat) : Header :=
  let a := headerAddr c slot
  let f := fun o n => leNat (dRead s (a + o) n)
  if headerValid s c slot then
    ⟨f 0 8, BitVec.ofNat 32 (f 8 4), BitVec.ofNat 32 (f 12 4), BitVec.ofNat 32 (f 16 4), BitVec.ofNat 32 (f 20 4), f 24 4 / 2 % 2 = 1,
      f 28 2, f 32 8, BitVec.ofNat 32 (f 40 4), BitVec.ofNat 32 (f 44 4)⟩
  else ⟨0, fpOne, fpOne, 0, (formatOf s.cfg.live c).initCoarse, false, 0, 0, 0, 0⟩

/-- The 64 bytes of a valid header. -/
def headerBytes (h : Header) : List Byte :=
  leBytes 8 h.t ++ leBytes 4 h.p1.toNat ++ leBytes 4 h.p2.toNat ++ leBytes 4 h.wmax.toNat ++ leBytes 4 h.coarse.toNat ++
  leBytes 4 (if h.nonfin then 3 else 1) ++ leBytes 2 h.prog ++ leBytes 2 0 ++ leBytes 8 h.stepNo ++ leBytes 4 h.clip.toNat ++
  leBytes 4 h.phi.toNat ++ List.replicate 16 0

/-! ### Reading a tile -/

/-- The place of a field in a shard's set. -/
def fieldPlace (c : ShardCfg) (bit : Nat) : Option Nat :=
  if (fieldList c).contains bit then some ((fieldList c).idxOf bit) else none

/-- The first elements of a field of a tile; an absent field reads as zeros. -/
def fieldElems (s : State) (c : ShardCfg) (slot t bit : Nat) : List Nat :=
  let n := tileElems c t
  match fieldPlace c bit with
  | some j => (chunks (elemBytes c) (dRead s (fieldAddr c slot t j) (n * elemBytes c))).map leNat
  | none => List.replicate n 0

/-- The accumulator elements of a tile as a sweep reads them. -/
def accElems (s : State) (c : ShardCfg) (t : Nat) : List Nat :=
  (List.range (tileElems c t)).map fun i =>
    let v := loadElem s none (accAddr c t) c.accFmt i
    if c.accFmt = 0 then v else (toSigned (8 * accElemBytes c.accFmt) v % ((2 ^ 64 : Nat) : Int)).toNat

/-- A word of a slot of a factor record: row factors first (R221). -/
def factorWord (s : State) (c : ShardCfg) (slot i : Nat) : Word := BitVec.ofNat 32 (leNat (dRead s (factorAddr c slot + 4 * i) 4))

/-- Rows of a factored shard. -/
def shardRows (c : ShardCfg) : Nat := c.n / max 1 c.cols

/-- The slot of the factor record that a sweep writes (log 64). -/
def factorInto (s : State) (n : Nat) (c : ShardCfg) : Nat := if capMode c then 1 else inactiveSlot s n c

/-- What the elements of a tile bring to a pass. The factors are those of the record, and the products of a factored program with them are
stages of its pass 1 (DESIGN CHOICE: R224 says once a row, Table 10 counts the stage, Table 4 names the factor; log 134). -/
def tileElemsIn (s : State) (c : ShardCfg) (from_ into fac t : Nat) (pass1 : Bool) : List ElemIn :=
  let f := fun slot bit => fieldElems s c slot t bit
  let g := accElems s c t
  let w := f from_ 0
  let lo := f from_ 1
  let m := f from_ 2
  let v := f from_ 3
  let e := f from_ 4
  let mi := if pass1 then f into 2 else []
  let vi := if pass1 then f into 3 else []
  (List.range (tileElems c t)).map fun i =>
    let k := 4096 * t + i
    { g := g.getD i 0, w := w.getD i 0, lo := lo.getD i 0, m := m.getD i 0, v := v.getD i 0, e := e.getD i 0
      mi := mi.getD i 0, vi := vi.getD i 0
      rowf := if pass1 && c.cols ≠ 0 then (factorWord s c fac (k / c.cols)).toNat else 0
      colf := if pass1 && c.cols ≠ 0 then (factorWord s c fac (shardRows c + k % c.cols)).toNat else 0 }

/-! ### A pass over a tile -/

/-- What a pass makes of a tile. -/
structure TileOut where
  fields : List (Nat × List Nat)   -- field bit and its elements
  emit   : Option (List Nat)
  red    : List (Nat × List Word)  -- reduction op and its operands
  counts : Counts
deriving DecidableEq, Repr

/-- The slot that a sweep writes. -/
def sweepInto (s : State) (n : Nat) (c : ShardCfg) : Nat := inactiveSlot s n c

/-- Whether a program is a trust program: two passes with reductions and no factor record. -/
def trustProgram (g : UeProgram) : Bool := twoPass g && !factored g && !(reductionsOf (g.pass0.map stageOf)).isEmpty

/-- What the between-pass values give: φ and invS, with flushes. -/
def betweenScalars (g : UeProgram) (v : List Word) : Word × Word × Nat :=
  if factored g then let r := fRecip (v.getLast?.getD 0); (0, r.w, r.fl)
  else if trustProgram g then
    let r := trustRatio (v.getD 0 0) (v.getD 1 0) ((g.ks[5]?).getD 0)
    (r.w, 0, r.fl)
  else (0, 0, 0)

/-- The environment of a pass of a sweep, with the flushes of its scalars. -/
def passEnv (s : State) (w : SweepRec) (c : ShardCfg) (pass1 : Bool) : PassEnv × Nat :=
  let g := programOf s.cfg.live c
  let h := readHeader s c (committedSlot s w.shard c)
  let b := if pass1 then betweenScalars g (w.between.getD []) else (0, 0, 0)
  let sc := shardScalars g h w.c w.lrArg b.1 b.2.1 pass1 (trustProgram g)
  (⟨g.ks, sc.1, h.t, g.kEma, g.intKind || c.intKind, c.accSat⟩, if g.intKind || c.intKind then 0 else sc.2 + b.2.2)

/-- The stages of a pass. -/
def passStages (g : UeProgram) (pass1 : Bool) : List Stage := (if pass1 then g.pass1 else g.pass0).map stageOf

/-- The stage whose results a program emits, and whether it stands in pass 1: its OUT 6 stage, or its OUT 1 stage where it has none (R206). -/
def emissionStage (g : UeProgram) : Option (Bool × Nat) :=
  let at_ := fun (pass1 : Bool) (out : Nat) => (outStage (passStages g pass1) out).map fun i => (pass1, i)
  match at_ true 6 with
  | some x => some x
  | none => match at_ false 6 with
    | some x => some x
    | none => match at_ true 1 with
      | some x => some x
      | none => at_ false 1

/-- The stages of a pass on the elements of a tile. A reduction stage that COND switches off passes its operand on, and the reduction takes
that operand as it takes any other (DESIGN CHOICE: R209 names the stage's result only; log 135). -/
def passOn (c : ShardCfg) (env : PassEnv) (g : UeProgram) (pass1 : Bool) (xs : List ElemIn) : TileOut :=
  let stages := passStages g pass1
  let rs := xs.map (runElement env stages)
  let col := fun i => rs.map fun r => r.1.getD i 0
  let fields := (List.range 5).filterMap fun b => (outStage stages (b + 1)).map fun i => (b, col i)
  let written := if env.intK then countsZero else
    (fields.flatMap fun f => f.2.map fun v => writtenCounts (BitVec.ofNat 32 v)).foldl countsAdd countsZero
  { fields := fields
    emit := if c.intKind then none else
      match emissionStage g with | some (p, i) => if p = pass1 then some (col i) else none | none => none
    red := (reductionsOf stages).map fun r => (r.2, (col r.1).map (BitVec.ofNat 32))
    counts := (rs.map (·.2)).foldl countsAdd written }

/-- A field of a pass's result. -/
def outField (o : TileOut) (bit : Nat) : Option (List Nat) := (o.fields.find? fun f => f.1 = bit).map (·.2)

/-- A pass over one tile. In capacity mode pass 0 writes no field in place: pass 1 forms its fields again, and its tile takes both passes'
fields under one undo entry (DESIGN CHOICE, log 136). -/
def tilePass (s : State) (w : SweepRec) (c : ShardCfg) (env : PassEnv) (pass1 : Bool) (t : Nat) : TileOut :=
  let g := programOf s.cfg.live c
  let elems := tileElemsIn s c (committedSlot s w.shard c) (sweepInto s w.shard c) (factorInto s w.shard c) t
  if capMode c && twoPass g then
    let first := passOn c (passEnv s w c false).1 g false (elems false)
    if pass1 then
      let m := outField first 2
      let v := outField first 3
      let xs := (List.zipIdx (elems true)).map fun x => { x.1 with
        mi := (m.map fun l => l.getD x.2 0).getD x.1.mi, vi := (v.map fun l => l.getD x.2 0).getD x.1.vi }
      let o := passOn c env g true xs
      { o with fields := first.fields.filter (fun f => (outField o f.1).isNone) ++ o.fields }
    else { first with fields := [] }
  else passOn c env g pass1 (elems pass1)

/-- Write the fields of a tile into a slot, padding as +0 (R212). -/
def writeFields (s : State) (c : ShardCfg) (slot t : Nat) (fields : List (Nat × List Nat)) : State :=
  fields.foldl (fun s f => match fieldPlace c f.1 with
    | some j => dWrite s (fieldAddr c slot t j) (padTo (blockBytes c) 0 (f.2.flatMap (leBytes (elemBytes c))))
    | none => s) s

/-! ### Narrow emission (R229 to R234) -/

/-- The coarse scale of an emission from a WMAX: +1.0 for a format without one (log 57). -/
def coarseFor (f : FormatEntry) (wmax : Word) : Word := if fmtTl f.nfmt then coarseOf f.nfmt wmax f.initCoarse else fpOne

/-- The random bits of a tile's emission at a committed T (R232, R537). -/
def emissionBits (s : State) (c : ShardCfg) (f : FormatEntry) (t T : Nat) : List Nat :=
  if f.round = 1 then
    (genDraws (tileElems c t) (genAt (planeTenant s.cfg.live c.tenant.toNat).seed (shardStream c.group) (emissionDraw T + 4096 * t))).map
      drawRound
  else List.replicate (tileElems c t) 0

/-- A tile's narrow bytes, with their counts; padding is emitted as +0. -/
def narrowTile (s : State) (c : ShardCfg) (f : FormatEntry) (coarse : Word) (t T : Nat) (src : List Nat) : List Byte × Counts :=
  let vals := src.map fun w => exact32 (BitVec.ofNat 32 w)
  let r := encodeOperand f.nfmt (roundMode f.round) f.sat (exact32 coarse) (vals.zip (emissionBits s c f t T))
  (padTo (narrowTileBytes f.nfmt) 0 r.1, r.2)

/-- Address of a shard's narrow bytes in a copy of its gather buffer. -/
def narrowAddr (c : ShardCfg) (copy : Nat) : Nat := copy + c.gatherOff

/-- Write a tile's narrow bytes. -/
def emitTile (s : State) (c : ShardCfg) (copy : Nat) (coarse : Word) (t T : Nat) (src : List Nat) : State × Counts :=
  let f := formatOf s.cfg.live c
  let r := narrowTile s c f coarse t T src
  (dWrite s (narrowAddr c copy + 64 + t * narrowTileBytes f.nfmt) r.1, r.2)

/-- Write a shard's narrow header (R222). -/
def narrowHeader (s : State) (c : ShardCfg) (copy : Nat) (coarse : Word) (T : Nat) : State :=
  dWrite s (narrowAddr c copy) (leBytes 4 coarse.toNat ++ leBytes 1 (formatOf s.cfg.live c).nfmt ++ List.replicate 3 0 ++ leBytes 8 T ++
    List.replicate 48 0)

/-! ### Writing a pass -/

/-- The counts of a sweep go to its command or run, and those of a sweep for neither to its tenant's totals (R333, R334). -/
def addSweepCounts (s : State) (w : SweepRec) (c : ShardCfg) (n : Counts) : State :=
  match w.by_ with
  | .run h => addOpCounts s h n
  | .command h => addOpCounts s h n
  | .repair => addTotals s c.tenant n

/-- The first free undo entry. -/
def freeEntry (s : State) (c : ShardCfg) : Option Nat :=
  (List.range (undoEntries c)).find? fun e => dRead s (undoEntryAddr c e + 4) 1 = [0]

/-- Whether a tile has an undo entry in state 2. -/
def undoApplied (s : State) (c : ShardCfg) (t : Nat) : Bool :=
  (List.range (undoEntries c)).any fun e => dRead s (undoEntryAddr c e + 4) 1 = [2] && leNat (dRead s (undoEntryAddr c e) 4) = t

/-- Whether a tile's old state already lies in an undo entry. -/
def undoHeld (s : State) (c : ShardCfg) (t : Nat) : Bool :=
  (List.range (undoEntries c)).any fun e => dRead s (undoEntryAddr c e + 4) 1 ≠ [0] && leNat (dRead s (undoEntryAddr c e) 4) = t

/-- Log a tile's old state in a free undo entry (R278 step 2), and give the entry. -/
def undoLog (s : State) (n : Nat) (c : ShardCfg) (t stepNo : Nat) : State × Option Nat :=
  if undoHeld s c t then (s, (List.range (undoEntries c)).find? fun e =>
    dRead s (undoEntryAddr c e + 4) 1 ≠ [0] && leNat (dRead s (undoEntryAddr c e) 4) = t)
  else match freeEntry s c with
    | none => (s, none)
    | some e =>
      let a := undoEntryAddr c e
      let s := dWrite s (undoBase c) (leBytes 4 n ++ leBytes 4 (undoEntries c) ++ leBytes 8 stepNo)
      let s := dWrite s (a + 0x1000) (dRead s (fieldAddr c 0 t 0) (fieldCount c * blockBytes c))
      let s := dWrite s a (leBytes 4 t)
      let s := dWrite s (a + 8) (dRead s (tagAddr c t) 8)
      (dWrite s (a + 4) [1], some e)

/-- Write a tile's fields: into the inactive slot, or in place under the undo log (R278). -/
def sweepTile (s : State) (w : SweepRec) (c : ShardCfg) (o : TileOut) (last : Bool) (t : Nat) : State :=
  if capMode c && o.fields.isEmpty && !last then s
  else if capMode c then
    let (s, e) := undoLog s w.shard c t w.stepNo.toNat
    let s := writeFields s c 0 t o.fields
    if last then
      let s := dWrite s (tagAddr c t) (leBytes 8 w.stepNo.toNat)
      match e with
      | some e => dWrite s (undoEntryAddr c e + 4) [if w.ahead then 2 else 0]
      | none => s
    else s
  else writeFields s c (sweepInto s w.shard c) t o.fields

/-- The coarse scale that a sweep emits under: from the committed header's WMAX (R231). -/
def sweepCoarse (s : State) (w : SweepRec) (c : ShardCfg) : Word :=
  if c.intKind then fpOne else coarseFor (formatOf s.cfg.live c) (readHeader s c (committedSlot s w.shard c)).wmax

/-- Die of a UE, 0 to 3 base dies, 4 and 5 bridges (R68). -/
def ueDie (u : Nat) : Nat := if u < 256 then u / 64 else 4 + (u - 256) / 32

/-- The UEs that may work on a shard: its set, and the lowest UE in service of the die where the whole set is out (R213, R214). -/
def workUes (s : State) (c : ShardCfg) : List Nat :=
  if c.ueSet.any s.units.ues.avail.getLsbD then c.ueSet
  else c.ueSet ++ ((List.range 320).find? fun u => s.units.ues.avail.getLsbD u && c.ueSet.any fun k => ueDie k = ueDie u).toList

/-- The UE that sweeps a tile: its entry of the list, or the next entry in service, or the lowest UE in service of the die (R213, R214). -/
def tileUe (s : State) (c : ShardCfg) (t : Nat) : Option Nat :=
  let n := c.ueSet.length
  let k := t % max 1 n
  match (c.ueSet.drop k ++ c.ueSet.take k).find? s.units.ues.avail.getLsbD with
  | some u => some u
  | none => (workUes s c).find? s.units.ues.avail.getLsbD

/-- The tiles of a list that its UEs have come to, where each has swept so many of its own, in ascending order (R213). -/
def tilesDone (s : State) (c : ShardCfg) (todo : List Nat) (swept : List (Nat × Nat)) : List Nat :=
  todo.filter fun t => match tileUe s c t with
    | some u => decide ((todo.filter fun x => x < t && tileUe s c x = some u).length < ((swept.find? fun x => x.1 = u).map (·.2)).getD 0)
    | none => false

/-- The scalars of a sweep are computed once, and what they flush counts once (R223, R333). -/
def countScalars (s : State) (w : SweepRec) (c : ShardCfg) : State :=
  addSweepCounts s w c ⟨0, (passEnv s w c (w.pass1 && w.between.isSome)).2, 0, 0⟩

/-- A pass writes the tiles of a list, in order; the counts go to its command or run. Its UEs' S-space is open (log 66). -/
def sweepTiles (s : State) (w : SweepRec) (c : ShardCfg) (pass1 : Bool) (ts : List Nat) : State :=
  let g := programOf s.cfg.live c
  let env := passEnv s w c pass1
  let h := readHeader s c (committedSlot s w.shard c)
  let coarse := sweepCoarse s w c
  let copy := inactiveCopy s c.gather
  let last := pass1 || !twoPass g
  let r := ts.foldl (fun (acc : State × Counts) t =>
    let o := tilePass acc.1 w c env.1 pass1 t
    let s := sweepTile acc.1 w c o last t
    match o.emit with
    | some src => let x := emitTile s c copy coarse t h.t src; (x.1, countsAdd acc.2 (countsAdd o.counts x.2))
    | none => (s, countsAdd acc.2 o.counts)) (s, countsZero)
  addSweepCounts (openUes r.1 (workUes s c)) w c r.2

/-! ### Between the passes -/

/-- The operands of pass 0's reductions over every tile of a shard, by reduction stage. -/
def pass0Operands (s : State) (w : SweepRec) (c : ShardCfg) : List (Nat × List (List Word)) :=
  let g := programOf s.cfg.live c
  let env := passEnv s w c false
  let outs := (List.range (tileCount c)).map (tilePass s w c env.1 false)
  (List.zipIdx (reductionsOf (passStages g false))).map fun r => (r.1.2, outs.map fun o => ((o.red[r.2]?).map (·.2)).getD [])

/-- A shard's own row sums, from its RROW stage. -/
def ownRowSums (s : State) (w : SweepRec) (c : ShardCfg) : List AlignedResult :=
  match (pass0Operands s w c).find? fun r => r.1 = 0x23 with
  | some r => rowSums c.cols r.2.flatten
  | none => []

/-- The updated row factors of a shard. -/
def newRows (s : State) (w : SweepRec) (c : ShardCfg) : List Fl :=
  let g := programOf s.cfg.live c
  (List.zipIdx (ownRowSums s w c)).map fun r =>
    factorStep ((g.ks[11]?).getD 0) r.1.w (factorWord s c (committedSlot s w.shard c) r.2)

/-- A shard's own between-pass vector: column sums and the sum of its row factors, or its reductions in stage order (log 59). -/
def ownVector (s : State) (w : SweepRec) (c : ShardCfg) : List Word :=
  let g := programOf s.cfg.live c
  let ops := pass0Operands s w c
  if factored g then
    let cols := match ops.find? fun r => r.1 = 0x24 with
      | some r => (colSums c.cols r.2.flatten).map (·.w)
      | none => List.replicate c.cols 0
    cols ++ [(wordSum ((newRows s w c).map (·.w))).w]
  else ops.map fun r => (reduceTiles r.1 r.2).w

/-- What the reductions of pass 0 flush, and their terms that overflow (R333; log 123). -/
def reductionCounts (s : State) (w : SweepRec) (c : ShardCfg) : Counts :=
  let ops := pass0Operands s w c
  let l := if factored (programOf s.cfg.live c) then
      ownRowSums s w c ++ (match ops.find? fun r => r.1 = 0x24 with | some r => colSums c.cols r.2.flatten | none => []) ++
        [wordSum ((newRows s w c).map (·.w))]
    else ops.map fun r => reduceTiles r.1 r.2
  l.foldl (fun n r => countsAdd n ⟨0, r.fl, 0, r.inf⟩) countsZero

/-- Pass 0 ends: its reductions are counted, and the updated row factors are written to the inactive factor slot. -/
def writeRows (s : State) (w : SweepRec) (c : ShardCfg) : State :=
  let s := addSweepCounts s w c (reductionCounts s w c)
  if factored (programOf s.cfg.live c) then
    let rows := newRows s w c
    let s := addSweepCounts s w c ((rows.map flCounts).foldl countsAdd countsZero)
    dWrite s (factorAddr c (factorInto s w.shard c)) (rows.flatMap fun r => leBytes 4 r.w.toNat)
  else s

/-- The combined column sums give the updated column factors. -/
def writeCols (s : State) (w : SweepRec) (c : ShardCfg) (v : List Word) : State :=
  let g := programOf s.cfg.live c
  if factored g then
    let from_ := committedSlot s w.shard c
    let cols := (List.zipIdx (v.take c.cols)).map fun x =>
      factorStep ((g.ks[11]?).getD 0) x.1 (factorWord s c from_ (shardRows c + x.2))
    let s := addSweepCounts s w c ((cols.map flCounts).foldl countsAdd countsZero)
    dWrite s (factorAddr c (factorInto s w.shard c) + 4 * shardRows c) (cols.flatMap fun r => leBytes 4 r.w.toNat)
  else s

/-- Change a shard's sweep. -/
def updSweep (s : State) (n : Nat) (f : SweepRec → SweepRec) : State :=
  { s with step := { s.step with sweeps := s.step.sweeps.map fun w => if w.shard = n then f w else w } }

/-- The shards on this package that a between-pass reduction of a shard covers. -/
def tensorShards (p : Plane) (n : Nat) (c : ShardCfg) : List (Nat × ShardCfg) :=
  match c.trustGroup with
  | some g => p.shards.filter fun e => e.2.tenant = c.tenant && e.2.trustGroup = some g
  | none => [(n, c)]

/-- Whether a shard takes part in the between-pass reduction of the others of its tensor: a sweep of it runs, or its run is still to
sweep it. -/
def inTensor (s : State) (n : Nat) : Bool :=
  (sweepOf s n).isSome ||
  (match runOf s n with | some r => !r.held.contains n && decide ((shardDyn s n).st = .clean) | none => false)

/-- Combine two between-pass vectors element by element (R369). -/
def vecAdd (a b : List Word) : List Word := (a.zip b).map fun x => (fAdd x.1 x.2).w

/-- What combining two vectors flushes. -/
def vecFlush (a b : List Word) : Nat := ((a.zip b).map fun x => (fAdd x.1 x.2).fl).sum

/-- Combine two vectors, each with what has been flushed on the way to it. -/
def vecJoin (a b : List Word × Nat) : List Word × Nat := (vecAdd a.1 b.1, a.2 + b.2 + vecFlush a.1 b.1)

/-- The vector of this package's shards of a tensor, once pass 0 is complete on each, with what combining it flushes (R227; log 59). -/
def tensorVector (s : State) (n : Nat) (c : ShardCfg) : Option (List Word × Nat) :=
  let l := (tensorShards s.cfg.live n c).filter fun e => inTensor s e.1
  if l.all fun e => match sweepOf s e.1 with | some w => w.pass1 && w.between.isNone | none => false then
    pairTree vecJoin (l.filterMap fun e => (sweepOf s e.1).map fun w => (w.own, 0))
  else none

/-- The combined vector reaches the sweeps of a tensor. -/
def deliverBetween (s : State) (n : Nat) (v : List Word) : State :=
  match nmGet? s.cfg.live.shards n with
  | none => s
  | some c => (tensorShards s.cfg.live n c).foldl (fun s e =>
      match sweepOf s e.1 with
      | some w => if w.pass1 && w.between.isNone then updSweep (writeCols s w e.2 v) e.1 fun w => { w with between := some v } else s
      | none => s) s

/-! ### Starting, ending and stopping a sweep -/

/-- Whether a tile of a capacity-mode shard holds the result of a step: its tag is the STEP_NO (R275, R295). -/
def tagged (s : State) (c : ShardCfg) (stepNo : DWord) (t : Nat) : Bool := capMode c && leNat (dRead s (tagAddr c t) 8) = stepNo.toNat

/-- A granule of the committed master that holds an element below N is never-written: of W, and of LO, the low word of a compensated master
(R98, Table 5 of *Update engines and parameter state*; DEDUCED, log 150). -/
def masterFresh (s : State) (n : Nat) (c : ShardCfg) : Bool :=
  (List.range (tileCount c)).any fun t => [0, 1].any fun bit =>
    match fieldPlace c bit with
    | some j => 0 < freshIn s (fieldAddr c (committedSlot s n c) t j) (tileElems c t * elemBytes c)
    | none => false

/-- A sweep starts on a shard; from now on its tiles stream through its UEs' S-space (R204). -/
def startSweep (s : State) (w : SweepRec) (st : ShardState) : State :=
  let s := updShard s w.shard fun d => { d with st := st, between := w.between }
  let s := match nmGet? s.cfg.live.shards w.shard with | some c => openUes s (workUes s c) | none => s
  { s with step := { s.step with sweeps := s.step.sweeps.filter (fun x => x.shard ≠ w.shard) ++ [w] } }

/-- Magnitude of an FP32 word, for WMAX: NaN wins (log 57). -/
def wmaxOf (ws : List Word) : Word :=
  if ws.any isNan32 then fpNan else ws.foldl (fun m w => let a := w &&& 0x7FFFFFFF#32; if m.toNat < a.toNat then a else m) 0

/-- The master of a slot. -/
def masterWords (s : State) (c : ShardCfg) (slot : Nat) : List Word :=
  (List.range (tileCount c)).flatMap fun t => (fieldElems s c slot t 0).map (BitVec.ofNat 32)

/-- Whether W, LO, M or V of a slot holds a NaN or an infinity (R234). -/
def slotNonfinite (s : State) (c : ShardCfg) (slot : Nat) : Bool :=
  (List.range (tileCount c)).any fun t => (List.range 4).any fun b => (fieldElems s c slot t b).any fun v => nonFinite32 (BitVec.ofNat 32 v)

/-- The header that a sweep writes (R218; log 57 for an integer shard). -/
def sweepHeader (s : State) (w : SweepRec) (c : ShardCfg) : Header :=
  let g := programOf s.cfg.live c
  let h := readHeader s c (committedSlot s w.shard c)
  let into := sweepInto s w.shard c
  let b := betweenScalars g (w.between.getD [])
  let t := (h.t + 1) % 2 ^ 64
  if c.intKind then ⟨t, h.p1, h.p2, 0, fpOne, false, c.prog, w.stepNo.toNat, w.c, 0⟩
  else
    let ss := (passEnv s w c (twoPass g)).1.ss
    ⟨t, ss.getD 2 0, ss.getD 3 0, wmaxOf (masterWords s c into), sweepCoarse s w c, slotNonfinite s c into, c.prog, w.stepNo.toNat, w.c,
      if trustProgram g then b.1 else 0⟩

/-- The digest slot that becomes committed with a sweep's result (R568). -/
def sweepDigestSlot (s : State) (n : Nat) (c : ShardCfg) : Nat :=
  if capMode c then (headerT s c 0 + 1) % 2 else inactiveSlot s n c

/-- A sweep is complete on every tile: the header of the inactive slot (a capacity-mode header waits for the commit), the narrow header
and the digest record are written, and the shard is WRITTEN or READY (R218, R222, R251, R279, R568). -/
def endSweep (s : State) (w : SweepRec) (c : ShardCfg) (st : ShardState) : State :=
  let h := sweepHeader s w c
  let into := sweepInto s w.shard c
  let s := if capMode c then s else dWrite s (headerAddr c into) (headerBytes h)
  let s := if c.intKind then s else narrowHeader s c (inactiveCopy s c.gather) h.coarse h.t
  let s := writeDigests s c (sweepDigestSlot s w.shard c) ((List.range (tileCount c)).map (tileDigest s c into)) w.stepNo.toNat h.t
  let s := { s with step := { s.step with sweeps := s.step.sweeps.filter fun x => x.shard ≠ w.shard } }
  updShard s w.shard fun d => { d with st := st, header := if capMode c then headerBytes h else d.header, between := w.between }

/-- The ranges that a sweep writes for a tile: its fields, its narrow bytes, and in capacity mode its tag and the undo area. -/
def tileWrites (s : State) (w : SweepRec) (c : ShardCfg) (t : Nat) : List (Nat × Nat) :=
  let nb := narrowTileBytes (narrowFmt s.cfg.live c)
  (fieldAddr c (sweepInto s w.shard c) t 0, fieldCount c * blockBytes c) ::
  (if c.intKind then [] else [(narrowAddr c (inactiveCopy s c.gather) + 64 + t * nb, nb)]) ++
  (if capMode c then [(tagAddr c t, 8), (undoBase c, 0x1000 + undoEntries c * (0x1000 + fieldCount c * blockBytes c))] else [])

/-- The ranges that a sweep writes at its end: headers, factors and digests. -/
def endWrites (s : State) (w : SweepRec) (c : ShardCfg) : List (Nat × Nat) :=
  (if capMode c then [] else [(headerAddr c (sweepInto s w.shard c), 64)]) ++
  (if c.intKind then [] else [(narrowAddr c (inactiveCopy s c.gather), 64)]) ++
  [(factorAddr c (factorInto s w.shard c), factorSlotBytes c), (digestAddr c (sweepDigestSlot s w.shard c), digestSlotBytes c)]

/-- A sweep cannot go on over some tiles: what it reads or writes is held by a lock, a repair, a refetch, a channel or the copy of a unit
(R55, R102, R504, R557, R576), or no UE is in service for it (R214). -/
def tilesHeld (s : State) (w : SweepRec) (c : ShardCfg) (ts : List Nat) : Bool :=
  let k := committedSlot s w.shard c
  !(workUes s c).any s.units.ues.avail.getLsbD ||
  ts.any fun t =>
    readHeld s (fieldAddr c k t 0) (fieldCount c * blockBytes c) || copyHeld s (fieldAddr c k t 0) (fieldCount c * blockBytes c) ||
    readHeld s (factorAddr c k) (factorSlotBytes c) || copyHeld s (factorAddr c k) (factorSlotBytes c) ||
    accessHeld s (accAddr c t) (accTileBytes c.accFmt) ||
    (tileWrites s w c t).any fun x => writeHeld s none x.1 x.2

/-- What a sweep reads of some tiles: the committed header, factors and fields, and the accumulator where no adder's buffer holds it (R438). -/
def sweepReads (s : State) (w : SweepRec) (c : ShardCfg) (ts : List Nat) : List (Nat × Nat) :=
  let k := committedSlot s w.shard c
  (if ts.isEmpty then [] else [(headerAddr c k, 64), (factorAddr c k, factorSlotBytes c)]) ++
  ts.flatMap fun t => (fieldAddr c k t 0, fieldCount c * blockBytes c) ::
    (((blocksOf 256 (accAddr c t) (accTileBytes c.accFmt)).filter fun b => !inAdder s (256 * b)).map fun b => (256 * b, 256))

/-- A sweep cannot run to its end. -/
def sweepHeld (s : State) (w : SweepRec) (c : ShardCfg) : Bool :=
  tilesHeld s w c (List.range (tileCount c)) || (endWrites s w c).any fun x => writeHeld s none x.1 x.2

/-! ### Commits of a shard -/

/-- The commit of one shard: the epoch bit flips, or the header of a capacity-mode shard is written and its undo entries are freed; it
leaves CLEAN (R252, R264, R279, R280; log 64). -/
def flipShard (s : State) (n : Nat) : State :=
  match nmGet? s.cfg.live.shards n with
  | none => s
  | some c =>
    if capMode c then
      let s := if factorSlotBytes c = 0 then s else dWrite s (factorAddr c 0) (dRead s (factorAddr c 1) (factorSlotBytes c))
      let s := dWrite s (headerAddr c 0) (shardDyn s n).header
      updShard (undoFreeAll s c) n fun d => { d with st := .clean, header := [], between := none }
    else updShard s n fun d => { d with epoch := !d.epoch, st := .clean }

end Sys2Proof.Machine
end

