-- ==== Sys2Proof/Machine/PlanPlayer.lean ====
section
/-! DEFINITION. The plan player and the transaction directory: the verdict rule, what each outcome does to the shards of a step, and
the starts, stops and ends of sweeps that follow from it (R253 to R271, R775). -/

namespace Sys2Proof.Machine

/-! ### The verdict rule (R258 to R261) -/

/-- `a > b` for FP32 words. -/
def fpGt (a b : Word) : Bool :=
  !isNan32 a && !isNan32 b && !(isZero32 a && isZero32 b) && decide (orderKey b < orderKey a)

/-- The hint of an outcome, with the run count after it (R260). -/
def hintOf (g : StepPlan) (count : Nat) (skip : Bool) : BitVec 8 × Nat :=
  if skip then (0xFF#8, 0)
  else if g.lsGrow ≠ 0 && count + 1 = g.lsGrow then (1#8, 0)
  else (0#8, count + 1)

/-- The outcome and the clipping factor of a combined triple (Table 2). -/
def verdictRule (g : StepPlan) (t : Triple) : Nat × Word :=
  let n := (fSqrt t.sumsq).w
  let c := (fMul g.theta (fRecip n).w).w
  if t.nf then (2, fpOne)
  else if nonFinite32 t.sumsq then (2, fpOne)
  else if pos32 g.gamma && fpGt t.maxm g.gamma then (2, fpOne)
  else if pos32 g.theta && fpGt n g.theta && c ≠ fpOne then (1, c)
  else (0, fpOne)

/-- The verdict record of a combined triple (Table 3). -/
def verdictOf (g : StepPlan) (count : Nat) (stepNo : DWord) (t : Triple) : Verdict :=
  let r := verdictRule g t
  { stepNo := stepNo, outcome := r.1, clip := r.2, norm := (fSqrt t.sumsq).w, sumsq := t.sumsq, maxg := t.maxm, nf := t.nf
    hint := (hintOf g count (decide (r.1 = 2))).1 }

/-! ### Runs -/

/-- The step plan of a run. -/
def runPlan (s : State) (r : StepRun) : Option StepPlan := nmGet? s.cfg.live.stepplans r.plan

/-- A run by its handle. -/
def runBy (s : State) (h : Word) : Option StepRun := s.step.runs.find? fun r => r.handle = h

/-- The outcome of a run, 3 while none is decided. -/
def runOutcome (r : StepRun) : Nat := match r.verdict with | some v => v.outcome | none => 3

/-- Close the counts of a tenant's plan step that has moved on (R353). -/
def closePlanned (s : State) (t : BitVec 4) : State := (s.hz.counts.filter fun c => c.planned = some t).foldl closeCount s

/-- Set the current step and attempt of a run's tenant (R368). -/
def setMark (s : State) (r : StepRun) : State :=
  let m := (r.stepNo.setWidth 32, runAttempt r)
  let s := if nmGet? s.step.marks r.tenant.toNat = some m then s else closePlanned s r.tenant
  { s with step := { s.step with marks := nmSet s.step.marks r.tenant.toNat m } }

/-- Note how many shards the tenant's step holds back (Table 9). -/
def noteHeld (s : State) (r : StepRun) : State :=
  { s with step := { s.step with heldCount := nmSet s.step.heldCount r.tenant.toNat (satTo 0xFFFF r.held.length) } }

/-- Hold a shard back in its run, with the count that HUB_STEP_STATE shows (R253). -/
def holdShard (s : State) (n : Nat) : State :=
  let s := holdInRun s n
  match runOf s n with | some r => noteHeld s r | none => s

/-- Signal a run's sync object once (R48). -/
def signalRun (s : State) (h : Word) : State :=
  match runBy s h with
  | none => s
  | some r =>
    if r.signalled then s
    else match runPlan s r with
      | none => s
      | some g => syncAdd (updRun s h fun r => { r with signalled := true }) g.sync.toNat 1

/-- Shards of a step whose periodic digest comparison is due (R569). -/
def dueCompares (s : State) (r : StepRun) (g : StepPlan) : List Nat :=
  let k := s.cfg.live.system.digestK
  if k = 0 || r.stepNo.toNat % k ≠ 0 then []
  else g.shards.filter fun n => match nmGet? s.cfg.live.shards n with | some c => !c.members.isEmpty | none => false

/-- Every gather flip or discard of a run has taken place: its sync object is signalled, and the comparison of a K-th step is due. -/
def gathersOver (s : State) (h : Word) : State :=
  match runBy s h with
  | none => s
  | some r =>
    match runPlan s r with
    | none => s
    | some g =>
      if r.signalled then s
      else
        let s := { s with step := { s.step with compares := (dueCompares s r g).foldl (fun l n => insertNat n l) s.step.compares } }
        signalRun s h

/-- Whether every layer of a run has flipped. -/
def allGathered (r : StepRun) (g : StepPlan) : Bool := (List.range g.layers.length).all fun k => r.gathered.contains k

/-! ### Outcomes -/

/-- Whether a shard's sweeps follow the floating-point rules of the outcomes. -/
def fpShard (s : State) (n : Nat) : Bool := match nmGet? s.cfg.live.shards n with | some c => !c.intKind | none => false

/-- Whether a shard is WRITTEN, READY or HELD (R262). -/
def settledShard (s : State) (n : Nat) : Bool :=
  (sweepOf s n).isNone && [ShardState.written, .ready, .held].contains (shardDyn s n).st

/-- Whether every tile of a shard is reduced. -/
def shardReduced (s : State) (n : Nat) : Bool :=
  match nmGet? s.cfg.live.shards n with
  | some c => (List.range (tileCount c)).all fun t => tileReduced s (accAddr c t)
  | none => true

/-- Whether a step has passed a mark of its plan (R597; log 69). -/
def passed (s : State) (r : StepRun) (g : StepPlan) : StepMark → Bool
  | .started => r.started
  | .slot i => (g.slots[i]?).all fun q => (slotPlan s q).all fun cp => slotWhole cp r i
  | .reduced k => r.zeroed || (g.layers[k]?).all fun l => l.shards.all (shardReduced s)
  | .swept k => r.flipped || r.dropped || (g.layers[k]?).all fun l => l.shards.all (settledShard s)
  | .gathered k => r.gathered.contains k || (g.layers[k]?).all fun l => gatherDone s r k l
  | .decided => r.verdict.isSome
  | .flipped => r.flipped || r.dropped

/-- A phase of a step begins to sweep: the bubble windows that stand open close (R598). -/
def closeWindows (s : State) (h : Word) : State :=
  match runBy s h with
  | none => s
  | some r =>
    match runPlan s r with
    | none => s
    | some g =>
      let open_ := ((List.zipIdx g.windows).filter fun w => passed s r g w.1.1).map (·.2)
      updRun s h fun r => { r with closed := open_.foldl (fun l i => insertNat i l) r.closed }

/-- A sweep of a run starts. -/
def runSweep (s : State) (h : Word) (w : SweepRec) (st : ShardState) : State := startSweep (closeWindows s h) w st

/-- Start the sweep of a shard that an outcome asks for, with S0 = `c`; a never-written master holds the shard back (R253, R266,
R279). -/
def startOutcomeSweep (s : State) (r : StepRun) (n : Nat) (redo : Bool) (clip : Word) : State :=
  match nmGet? s.cfg.live.shards n with
  | none => s
  | some c =>
    let s := if redo && capMode c then undoRestoreAll s c false else s
    if masterFresh s n c then holdShard s n
    else runSweep s r.handle ⟨n, redo, clip, some (r.arg0.setWidth 32), r.stepNo, .run r.handle, false, false, false, [], none, false, false⟩
      (if redo then .redoing else .sweeping)

/-- What a decided redo asks of a shard with no sweep. -/
def redoShard (s : State) (r : StepRun) (n : Nat) : State :=
  match r.verdict with
  | some v => if fpShard s n && !r.held.contains n then startOutcomeSweep s r n true v.clip else s
  | none => s

/-- What a decided verdict asks of one shard of the step. -/
def verdictShard (s : State) (r : StepRun) (v : Verdict) (n : Nat) : State :=
  if r.held.contains n then s
  else if v.outcome = 2 then (if (sweepOf s n).isSome then orderStop s n else shardClean s n)
  else if v.outcome = 1 then
    if !fpShard s n then s
    else if (sweepOf s n).isSome then orderStop s n
    else redoShard s r n
  else
    match nmGet? s.cfg.live.shards n with
    | some c => if capMode c && !specMode c && (shardDyn s n).st = .clean && (sweepOf s n).isNone &&
        ((List.range (tileCount c)).all fun t => tileReduced s (accAddr c t)) then startOutcomeSweep s r n false fpOne else s
    | none => s

/-- Whether every tile of a step's shards is reduced (R246). -/
def shardsReduced (s : State) (g : StepPlan) : Bool :=
  g.shards.all fun n => match nmGet? s.cfg.live.shards n with
    | some c => (List.range (tileCount c)).all fun t => tileReduced s (accAddr c t)
    | none => true

/-- Under a skip, once every tile is reduced (R39, R246) and no sweep of the step runs: every shard is CLEAN, the inactive gather copies are discarded, and the sync object is
signalled (R45, R48, R270). -/
def skipSettled (s : State) (h : Word) : State :=
  match runBy s h with
  | none => s
  | some r =>
    match runPlan s r with
    | none => s
    | some g =>
      if runOutcome r = 2 && !r.dropped && shardsReduced s g && g.shards.all fun n => (sweepOf s n).isNone then
        let s := g.shards.foldl shardClean s
        gathersOver (updRun s h fun r => { r with dropped := true }) h
      else s

/-- The records of a verdict: HUB_STEP_STATE and its companions, the run count, HUB_SKIP_COUNT and EV_LOSS_SCALE (R260, R261, R291). -/
def recordVerdict (s : State) (r : StepRun) (g : StepPlan) (v : Verdict) : State :=
  let skip := decide (v.outcome = 2)
  let s := { s with step := { s.step with
    verdicts := nmSet s.step.verdicts r.tenant.toNat v
    noSkip := nmSet s.step.noSkip r.plan (hintOf g (nmGet 0 s.step.noSkip r.plan) skip).2
    planLast := nmSet s.step.planLast r.plan (v.outcome, v.hint, v.stepNo.setWidth 32) } }
  if skip then
    let s := regCount s (tenOff r.tenant 0x14) 1
    let s := updOp s r.handle fun o => { o with event := true }
    raiseEvent s r.tenant.toNat evLossScale (BitVec.ofNat 64 r.plan)
      (BitVec.ofNat 64 (v.hint.toNat + v.stepNo.toNat % 2 ^ 32 * 2 ^ 32)) r.handle
  else s

/-- A verdict is decided on this package (R257, R291). -/
def deliverVerdict (s : State) (h : Word) (v : Verdict) : State :=
  match runBy s h with
  | none => s
  | some r =>
    match runPlan s r with
    | none => s
    | some g =>
      if r.verdict.isSome then s
      else
        let r' := { r with verdict := some v, narrow := if v.outcome = 1 then [] else r.narrow }
        let s := recordVerdict (updRun s h fun _ => r') r g v
        let s := setMark s r'
        skipSettled (g.shards.foldl (fun s n => verdictShard s r' v n) s) h

/-! ### Ends and stops of sweeps -/

/-- The status that a sweep command has gathered so far. -/
def opStatus (s : State) (h : Word) : Status := match findOp s h with | some o => o.status | none => stOk

/-- A command whose last sweep has ended is Done. -/
def sweepsOver (s : State) (h : Word) : State :=
  if s.step.sweeps.any fun w => w.by_ = .command h then s
  else match findOp s h with
    | some o => if o.phase = .running then finishOp s o { status := o.status, counts := o.counts } else s
    | none => s

/-- An ABORT is Done once no shard that it names has a sweep left to stop (R272). -/
def abortsOver (s : State) : State :=
  (s.fe.ops.filter fun o => o.phase = .running && o.started && dOpcode o.desc = opAbort).foldl (fun s o =>
    if (namedShards s.cfg.live o.tenant (dShard o.desc)).any fun e => !drivenByRun s e.1 && (sweepOf s e.1).any (·.stop) then s
    else finishOp s o resOk) s

/-- What follows the stop of a run's sweep: the shard is CLEAN, and HELD, swept again, or left, as the verdict says (R42, R266, R270,
R558, R577). -/
def afterStop (s : State) (n : Nat) : State :=
  match runOf s n with
  | none => s
  | some r =>
    if (shardDyn s n).halted then holdShard s n
    else match r.verdict with
      | none => s
      | some v =>
        if v.outcome = 2 then skipSettled s r.handle
        else if v.outcome = 1 && fpShard s n then redoShard s r n
        else startOutcomeSweep s r n false fpOne

/-- Tiles that a sweep of a capacity-mode shard may write ahead of the verdict. -/
def aheadTiles (s : State) (c : ShardCfg) : List Nat :=
  let done := ((List.range (tileCount c)).filter fun t => undoApplied s c t).length
  ((List.range (tileCount c)).filter fun t => !undoApplied s c t).take (undoReserve c - done)

/-- The sweep that a repair asks for of a shard that no run drives: from the repaired committed slot, with the S0 and the STEP_NO of the
result that it replaces (R577; log 125). -/
def repairSweep (s : State) (n : Nat) (c : ShardCfg) (redo : Bool) (clip : Word) (stepNo : DWord) : State :=
  if (shardDyn s n).halted then s
  else startSweep s ⟨n, redo, clip, none, stepNo, .repair, false, capMode c && specMode c && !redo, false, [], none, false, false⟩
    (if redo then .redoing else .sweeping)

/-- A sweep that a repair has stopped starts again. -/
def sweepAgain (s : State) (w : SweepRec) (c : ShardCfg) : State :=
  if w.again then repairSweep s w.shard c w.redo w.c w.stepNo else s

/-- A sweep waits for no between-pass result any more: trees of its tensor end (R227, R228). -/
def dropBetween (s : State) (n : Nat) (c : ShardCfg) : State :=
  let mine := fun (t : TreeRun) => match t.use with
    | .between m => (tensorShards s.cfg.live n c).any fun e => e.1 = m
    | .step _ => false
    | .norm _ => false
    | .recovery => false
  { s with step := { s.step with trees := s.step.trees.filter fun t => !mine t } }

/-- The tiles that a sweep ordered to stop may have written in its present pass, as far as each of its UEs has come. -/
def stopTiles (s : State) (w : SweepRec) (c : ShardCfg) (swept : List (Nat × Nat)) : List Nat :=
  if w.pass1 && w.between.isNone then []
  else tilesDone s c (if capMode c && w.ahead then aheadTiles s c else List.range (tileCount c)) swept

/-- A sweep that was ordered to stop has written some tiles, and ends there. -/
def stopSweep (s : State) (w : SweepRec) (c : ShardCfg) (ts : List Nat) : State :=
  let s := countScalars (if ts.isEmpty then s else sweepTiles s w c (w.pass1 && twoPass (programOf s.cfg.live c)) ts) w c
  let s := { s with step := { s.step with sweeps := s.step.sweeps.filter fun x => x.shard ≠ w.shard } }
  let s := shardClean (dropBetween s w.shard c) w.shard
  abortsOver (match w.by_ with
    | .command h => sweepsOver (sweepAgain (if w.again then s else updOp s h fun o => { o with status := stAborted }) w c) h
    | .run _ => afterStop s w.shard
    | .repair => sweepAgain s w c)

/-- SWEEP_STOP: each UE of the sweep has come to a tile boundary. -/
def sweepStop (n : Nat) (swept : List (Nat × Nat)) (s : State) : State :=
  match sweepOf s n, nmGet? s.cfg.live.shards n with
  | some w, some c =>
    let ts := stopTiles s w c swept
    if !w.stop || (!ts.isEmpty && tilesHeld s w c ts) then s
    else
      let s := reach s (sweepReads s w c ts)
      match sweepOf s n with
      | some w => if !ts.isEmpty && tilesHeld s w c ts then settle s else settle (serveHeld (stopSweep s w c ts))
      | none => settle s
  | _, _ => s

/-- SWEEP_STOP (R42, R213). -/
def execSweepStop (shard : BitVec 16) (swept : List (Fin 320 × Nat)) (s : State) : Host.Outcome State Fault Refusal :=
  .next (sweepStop shard.toNat (swept.map fun x => (x.1.val, x.2)) s)

/-- A sweep has written its last tile: the shard's end state, its narrow tiles on their way, and its command's end. -/
def finishSweep (s : State) (w : SweepRec) (c : ShardCfg) (st : ShardState) : State :=
  let s := endSweep (countScalars s w c) w c st
  match w.by_ with
  | .run _ => if c.intKind then s else narrowShard s w.shard
  | .command h => sweepsOver s h
  | .repair => s

/-- The last pass of a capacity-mode sweep that no run drives: its first tiles are applied ahead (R280). -/
def aheadSweep (s : State) (w : SweepRec) (c : ShardCfg) (p1 : Bool) : State :=
  let first := aheadTiles s c
  let s := sweepTiles s w c p1 first
  let s := sweepTiles s { w with ahead := false } c p1 ((List.range (tileCount c)).filter fun t => !first.contains t)
  finishSweep s w c .written

/-- The last pass of a sweep runs. -/
def lastPass (s : State) (w : SweepRec) (c : ShardCfg) : State :=
  let p1 := twoPass (programOf s.cfg.live c)
  let all := (List.range (tileCount c)).filter fun t => !(w.resume && tagged s c w.stepNo t)
  if capMode c && w.ahead then
    match w.by_ with
    | .command _ => aheadSweep s w c p1
    | .repair => aheadSweep s w c p1
    | .run h =>
      let decided := match runBy s h with | some r => r.verdict.isSome | none => false
      if decided then
        let s := sweepTiles s { w with ahead := false } c p1 (all.filter fun t => !undoApplied s c t)
        finishSweep s w c .ready
      else
        let s := sweepTiles s w c p1 (aheadTiles s c)
        if all.all fun t => undoApplied s c t then finishSweep s w c .written else s
  else
    let s := sweepTiles s w c p1 all
    finishSweep s w c (match w.by_ with
      | .run _ => if w.redo || capMode c then .ready else .written
      | .command _ => if w.redo then .ready else .written
      | .repair => if w.redo then .ready else .written)

/-- Pass 0 is complete: its tiles and row factors are written, and the shard's own vector is kept. -/
def firstPass (s : State) (w : SweepRec) (c : ShardCfg) : State :=
  let v := ownVector s w c
  let s := writeRows s w c
  let s := sweepTiles s w c false (List.range (tileCount c))
  updSweep s w.shard fun w => { w with pass1 := true, own := v }

/-! ### Steps of the plan player -/

/-- Whether a step plan uses a collective: its layers, its norm tree, or the program of a shard. -/
def usesCollective (p : Plane) (g : StepPlan) : Bool :=
  g.norm.isSome || (g.layers.any fun l => l.reduce.isSome || l.gather.isSome) ||
  g.shards.any fun n => match nmGet? p.shards n with | some c => (programOf p c).cplan.isSome | none => false

/-- PLAN_RUN joins the runs: it drives the shards of its plan from here on (R775). On a package that has dropped out, a plan with a
collective ends at once (R632; log 99). -/
def tryPlanRun (s : State) (o : Op) : Outcome :=
  if s.hz.drop.dropped && ((nmGet? s.cfg.live.stepplans (dField o.desc 24 4)).map (usesCollective s.cfg.live)).getD false then
    .done (signalPlan s o) (failRes o stDropped)
  else
  .go { s with step := { s.step with runs := s.step.runs ++ [
    { handle := o.handle, tenant := o.tenant, plan := dField o.desc 24 4, stepNo := BitVec.ofNat 64 (dStepNo o.desc)
      arg0 := BitVec.ofNat 64 (dField o.desc 40 8), started := false, replays := 0, entered := false, verdict := none, flipped := false
      redos := [], held := [], narrow := [], gathered := [], dropped := false, zeroed := false, signalled := false
      slots := 0, slotGot := [], closed := [] }] } }

/-- PLAN_RUN (R775). -/
def execPlanRun (handle : Word) (s : State) : Host.Outcome State Fault Refusal := .next (runCommand opPlanRun tryPlanRun handle s)

/-- What holds a run back (R775): a PLAN_RUN of the same tenant that entered Running before and shares a shard; and for one that has had to
wait, those of the tenant that have waited longer. -/
def earlierRuns (s : State) (r : StepRun) : Bool :=
  match findOp s r.handle with
  | none => false
  | some o =>
    let begun := fun (x : Op) => s.step.runs.any fun y => y.handle = x.handle && y.started
    drivenBefore s o o.seat || (o.behind && s.fe.ops.any fun x => x.phase = .running && x.tenant = o.tenant && x.behind &&
      decide (x.seat < o.seat) && (opPlan s.cfg.live x).isSome && !begun x)

/-- The result fields of a PLAN_RUN (Table 16). -/
def runRes (r : StepRun) (st : Status) (outcome : Nat) : Res :=
  { status := st
    res0 := BitVec.ofNat 32 (outcome + (match r.verdict with | some v => v.hint.toNat | none => 0) * 2 ^ 8 + satTo 0xFFFF r.held.length * 2 ^ 16)
    res1 := BitVec.ofNat 64 ((match r.verdict with | some v => v.clip.toNat | none => 0) + r.stepNo.toNat % 2 ^ 32 * 2 ^ 32) }

/-- The tiles of a step: the accumulators of its shards and its relay tiles. -/
def stepTiles (p : Plane) (g : StepPlan) : List (Nat × Nat) :=
  (g.shards.flatMap fun n => match nmGet? p.shards n with
    | some c => (List.range (tileCount c)).map fun t => (accAddr c t, accTileBytes c.accFmt)
    | none => []) ++
  (g.relays.flatMap fun i => match p.dmap.relays[i]? with
    | some r => (List.range r.tiles).map fun t => (r.base + t * accTileBytes r.fmt, accTileBytes r.fmt)
    | none => [])

/-- The plan player begins a step: its mark is set, halted shards are HELD, and tiles whose FINAL has been applied enter their phases (R244,
R253, R368, R558), and the gathers into its window begin (R405). -/
def beginStep (s : State) (r : StepRun) (g : StepPlan) : State :=
  let (s, stream) := takeStream (updRun s r.handle fun r => { r with started := true }) false
  let s := setMark (updOp s r.handle fun o => { o with stream := stream.toNat }) r
  let s := (g.shards.filter fun n => (shardDyn s n).halted).foldl holdShard s
  let s := match runBy s r.handle with | some r => noteHeld s r | none => s
  slotGathers ((stepTiles s.cfg.live g).foldl (fun s x => advanceTile s x.1) s)

/-- A run whose PLAN_RUN a WARM reset has ended goes on to its outcome (Table 6 of *Speculative update and the commit sweep*): no other
starts on its shards before then (log 102). -/
def outlivedBy (s : State) (r : StepRun) : Bool :=
  s.step.runs.any fun x => x.handle ≠ r.handle && x.started && !(findOp s x.handle).any opLive &&
    (match runPlan s x, runPlan s r with | some a, some b => shareShard a b | _, _ => false)

/-- Whether commits are halted (R196, R382). -/
def haltedPackage (s : State) : Bool := s.hz.drop.halt

/-- PLAN_RUN_START; none starts while a further dropout halts the package (R196). -/
def planRunStart (h : Word) (s : State) : State :=
  match runBy s h with
  | none => s
  | some r =>
    match runPlan s r with
    | none => s
    | some g =>
      if r.started || earlierRuns s r || outlivedBy s r || s.units.acorns.fatal || haltedPackage s then s
      else if g.shards.any fun n => [ShardState.sweeping, .written, .redoing, .ready].contains (shardDyn s n).st then
        let s := { s with step := { s.step with runs := s.step.runs.filter fun x => x.handle ≠ h } }
        match findOp s h with
        | some o => settle (finishOp s o (runRes r stBusy 3))
        | none => s
      else settle (beginStep s r g)

/-- PLAN_RUN_START (R775). -/
def execPlanRunStart (handle : Word) (s : State) : Host.Outcome State Fault Refusal := .next (planRunStart handle s)

/-- A capacity-mode shard that may not be swept ahead waits for the verdict (R279). -/
def sweepAllowed (r : StepRun) (c : ShardCfg) : Bool :=
  match r.verdict with
  | none => specMode c
  | some v => v.outcome = 0 || (v.outcome = 1 && c.intKind)

/-- Whether a shard's sweep in a run is ready to start: the shard is reduced and CLEAN. -/
def sweepReady (s : State) (r : StepRun) (n : Nat) : Bool :=
  match nmGet? s.cfg.live.shards n with
  | some c => (shardDyn s n).st = .clean && (sweepOf s n).isNone && !r.held.contains n && !r.flipped && sweepAllowed r c && shardReduced s n
  | none => false

/-- Whether a ready phase of a step needs a UE: a sweep that can start or has started. -/
def stepNeedsUe (s : State) (r : StepRun) (g : StepPlan) (u : Nat) : Bool :=
  g.shards.any fun n => ((sweepOf s n).isSome || sweepReady s r n) &&
    (nmGet? s.cfg.live.shards n).any fun c => (workUes s c).contains u

/-- Whether a phase of a step is ready. -/
def stepReady (s : State) (r : StepRun) (g : StepPlan) : Bool := g.shards.any fun n => (sweepOf s n).isSome || sweepReady s r n

/-- Whether a bubble window of a step is open (R597, R598). -/
def windowOpen (s : State) (r : StepRun) (g : StepPlan) : Bool :=
  !stepReady s r g && (List.zipIdx g.windows).any fun w => passed s r g w.1.1 && !passed s r g w.1.2 && !r.closed.contains w.2

/-- Whether work that needs an engine of a kind waits under R597: that of a guest whose owner runs with no window open, on an engine that a
ready phase of the owner needs. -/
def guestWaits (s : State) (t : BitVec 4) (needs : StepRun → StepPlan → Bool) : Bool :=
  s.step.runs.any fun r => r.started && (match runPlan s r with
    | some g => g.guest = some t && !windowOpen s r g && needs r g
    | none => false)

/-- Whether a guest's sweep of a shard waits under R597. -/
def guestHeld (s : State) (n : Nat) : Bool :=
  (nmGet? s.cfg.live.shards n).any fun c => guestWaits s c.tenant fun r g => (workUes s c).any (stepNeedsUe s r g)

/-- SPECULATIVE_SWEEP: the shard is reduced and CLEAN, and its sweep starts with S0 = 1.0; a never-written master holds it back. -/
def speculate (n : Nat) (s : State) : State :=
  match runOf s n, nmGet? s.cfg.live.shards n with
  | some r, some c =>
    if !s.units.acorns.fatal && !haltedPackage s && sweepReady s r n && !guestHeld s n then
      if masterFresh s n c then settle (holdShard s n)
      else runSweep s r.handle ⟨n, false, fpOne, some (r.arg0.setWidth 32), r.stepNo, .run r.handle, false, capMode c && r.verdict.isNone, false,
        [], none, false, false⟩ .sweeping
    else s
  | _, _ => s

/-- SPECULATIVE_SWEEP (R254). -/
def execSpeculativeSweep (shard : BitVec 16) (s : State) : Host.Outcome State Fault Refusal := .next (speculate shard.toNat s)

/-- The run of a tenant that can commit: its verdict is commit or redo, every tile of its shards is reduced, and every shard is WRITTEN, READY
or HELD (R39, R41, R246, R262). -/
def committable (s : State) (t : BitVec 4) : Option StepRun :=
  s.step.runs.find? fun r => r.started && r.tenant = t && !r.flipped && (runOutcome r = 0 || runOutcome r = 1) &&
    (match runPlan s r with
     | some g => shardsReduced s g && g.shards.all fun n => settledShard s n && !(s.units.integ.repairs.any fun x => x.1 = n)
     | none => false)

/-- The flips of a step: WRITTEN and READY shards in ascending number; HELD shards leave the step without one. -/
def flipAll (s : State) (g : StepPlan) : State :=
  g.shards.foldl (fun s n =>
    if (shardDyn s n).st = .held then setShardState (narrowShard s n) n .clean
    else flipShard s n) s

/-- Write a commit record, then flip (R262, R263). -/
def commitRun (s : State) (r : StepRun) (g : StepPlan) : State :=
  let s := { s with step := { s.step with commits := s.step.commits ++ [⟨r.tenant, r.stepNo, runOutcome r⟩] } }
  let s := updRun (flipAll s g) r.handle fun r => { r with flipped := true }
  if g.layers.isEmpty then gathersOver s r.handle else s

/-- The Acorns, and the commits, stand still while both are down or a dropout halts them (R299, R196). -/
def commitsStopped (s : State) : Bool := haltedPackage s || s.units.acorns.bothDown

/-- COMMIT_FLIP. -/
def commitFlip (t : BitVec 4) (s : State) : State :=
  if commitsStopped s then s
  else match committable s t with
    | none => s
    | some r => match runPlan s r with
      | some g => settle (serveHeld (commitRun s r g))
      | none => s

/-- COMMIT_FLIP (R262). -/
def execCommitFlip (tenant : Fin 16) (s : State) : Host.Outcome State Fault Refusal := .next (commitFlip (BitVec.ofNat 4 tenant.val) s)

/-- Swap the copies of a gather buffer (R45). -/
def flipGather (s : State) (i : Nat) : State :=
  { s with step := { s.step with copy1 := nmSet s.step.copy1 i (!copy1Active s i) } }

/-- GATHER_FLIP: the step has committed, and the layer's all-gather is complete here. -/
def gatherFlip (t : BitVec 4) (k : Nat) (s : State) : State :=
  match s.step.runs.find? fun r => r.tenant = t && r.flipped && !r.gathered.contains k &&
      (match runPlan s r with | some g => (match g.layers[k]? with | some l => gatherDone s r k l | none => false) | none => false) with
  | none => s
  | some r =>
    match runPlan s r with
    | none => s
    | some g =>
      let s := match g.layers[k]? with | some l => flipGather s l.buffer | none => s
      let r' := { r with gathered := r.gathered ++ [k] }
      let s := updRun s r.handle fun r => { r with gathered := r.gathered ++ [k] }
      settle (if allGathered r' g then gathersOver s r.handle else s)

/-- GATHER_FLIP (R45). -/
def execGatherFlip (tenant : Fin 16) (layer : Nat) (s : State) : Host.Outcome State Fault Refusal :=
  .next (gatherFlip (BitVec.ofNat 4 tenant.val) layer s)

/-- Ranges joined where one follows on the one before it. -/
def joinRanges (l : List (Nat × Nat)) : List (Nat × Nat) :=
  l.foldr (fun x acc => match acc with
    | y :: m => if x.1 + x.2 = y.1 then (x.1, x.2 + y.2) :: m else x :: acc
    | [] => [x]) []

/-- Zero the tiles of a step and restart their sequences (R43, R474, R773). -/
def zeroTiles (s : State) (l : List (Nat × Nat)) : State :=
  l.foldl (fun s x => zeroTile (dWrite (dropRange s x.1 x.2) x.1 (List.replicate x.2 0)) x.1) (countClones s (joinRanges l))

/-- Whether every tile of a step is reduced, its relay tiles too (R246, R361). -/
def stepReduced (s : State) (g : StepPlan) : Bool := (stepTiles s.cfg.live g).all fun x => tileReduced s x.1

/-- The run of a tenant whose accumulators can be zeroed: every tile is reduced, its outcome is complete, and its gather flips are done (R39,
R43, R246). -/
def zeroable (s : State) (t : BitVec 4) : Option StepRun :=
  s.step.runs.find? fun r => r.tenant = t && !r.zeroed &&
    (match runPlan s r with | some g => stepReduced s g && (r.dropped || (r.flipped && allGathered r g)) | none => false)

/-- Under a skip whose last tile has been reduced meanwhile, the shards of the tenant's step leave it. -/
def settleSkips (t : BitVec 4) (s : State) : State :=
  (s.step.runs.filter fun r => r.tenant = t && runOutcome r = 2).foldl (fun s r => skipSettled s r.handle) s

/-- ACCUMULATOR_ZEROING. -/
def zeroStep (t : BitVec 4) (s0 : State) : State :=
  let s := settle (settleSkips t s0)
  match zeroable s t with
  | none => s
  | some r =>
    match runPlan s r with
    | none => s
    | some g =>
      let l := stepTiles s.cfg.live g
      if l.any fun x => accessHeld s x.1 x.2 then s
      else settle (updRun (zeroTiles s l) r.handle fun r => { r with zeroed := true })

/-- ACCUMULATOR_ZEROING (R43). -/
def execAccumulatorZeroing (tenant : Fin 16) (s : State) : Host.Outcome State Fault Refusal := .next (zeroStep (BitVec.ofNat 4 tenant.val) s)

/-- A run leaves the plan player, and its PLAN_RUN is Done; one of whose frames a target has refused reports that (R350). -/
def endRun (s : State) (r : StepRun) (st : Status) (outcome : Nat) : State :=
  let s := signalRun s r.handle
  let s := { s with step := { s.step with runs := s.step.runs.filter fun x => x.handle ≠ r.handle } }
  match findOp s r.handle with
  | some o => if o.phase = .running then finishOp s o { runRes r (if st = stOk then o.status else st) outcome with counts := o.counts } else s
  | none => s

/-- PLAN_RUN_DONE (R271). -/
def planRunDone (h : Word) (s : State) : State :=
  match runBy s h with
  | none => s
  | some r => if r.zeroed && r.signalled then settle (endRun s r stOk (runOutcome r)) else s

/-- PLAN_RUN_DONE (R271). -/
def execPlanRunDone (handle : Word) (s : State) : Host.Outcome State Fault Refusal := .next (planRunDone handle s)

end Sys2Proof.Machine
end

