-- ==== Sys2Proof/Machine/Digest.lean ====
section
/-! DEFINITION. Replica digests (R566 to R581): recomputing, comparing and repairing, and the commands DIGEST and REPAIR. What
other members answer comes with the command (log 74). -/

namespace Sys2Proof.Machine

/-! ### Comparing (R570 to R572) -/

/-- What a member answers with: none where it is not in service, an empty list where it has no slot of the step. -/
def answerOf (c : ShardCfg) (answers : List MemberDigest) (m : BitVec 13) : Option (List DWord) :=
  (answers.find? fun a => a.pkg = m).map fun a => match a.tiles with
    | some l => if l.length = tileCount c then l else []
    | none => []

/-- Members that answer with no slot of the same step. -/
def anyAbsent (s : State) (c : ShardCfg) (answers : List MemberDigest) : Bool :=
  (liveMembers s c).any fun m => m ≠ s.cfg.live.package && answerOf c answers m = some []

/-- Members compared, in order of position, with their tile digests; this package's own are `own`. -/
def compared (s : State) (c : ShardCfg) (own : List DWord) (answers : List MemberDigest) : List (BitVec 13 × List DWord) :=
  (liveMembers s c).filterMap fun m =>
    if m = s.cfg.live.package then some (m, own)
    else match answerOf c answers m with
      | some l => if l.isEmpty then none else some (m, l)
      | none => none

/-- Whether members disagree on an entry. -/
def disagree (vals : List (Option DWord)) : Bool := match vals with | [] => false | v :: l => l.any fun x => x ≠ v

/-- The descent of R571 through the levels below the root, the highest first: the entries of the next level that differ. -/
def descend : List (List (List DWord)) → List Nat → List Nat
  | [], set => set
  | level :: below, set =>
    descend below ((set.flatMap fun j => [2 * j, 2 * j + 1]).filter fun j => disagree (level.map fun (t : List DWord) => t[j]?))

/-- Tiles on which the members compared disagree (R571). -/
def differingTiles (vals : List (List DWord)) : List Nat :=
  let trees := vals.map (digestTree 64)
  let depth := ((trees.head?).map List.length).getD 0
  if !disagree (trees.map fun t => (t.getLast?.getD [])[0]?) then []
  else descend ((List.range (depth - 1)).reverse.map fun l => trees.map fun t => t.getD l []) [0]

/-- A value held by more than half of a list. -/
def majority (l : List DWord) : Option DWord := l.find? fun v => l.length < 2 * (l.filter fun x => x = v).length

/-- What a comparison asks of this package for one tile. -/
inductive TileFinding where
  | keep
  | repairFrom (sources : List (BitVec 13))
  | halt
deriving DecidableEq, Repr

/-- Table 5. -/
def decideTile (s : State) (cmp : List (BitVec 13 × List DWord)) (t : Nat) : TileFinding :=
  let vals := cmp.map fun m => m.2.getD t 0
  let own := (cmp.find? fun m => m.1 = s.cfg.live.package).map fun m => m.2.getD t 0
  match (if 3 ≤ cmp.length then majority vals else none) with
  | some v => if own = some v then .keep else .repairFrom ((cmp.filter fun m => m.2.getD t 0 = v).map (·.1))
  | none =>
    if s.cfg.live.system.preferLow then
      match cmp with
      | m :: _ => if m.1 = s.cfg.live.package || own = some (m.2.getD t 0) then .keep else .repairFrom [m.1]
      | [] => .keep
    else .halt

/-! ### Halts and the end of a comparison -/

/-- Whether a repair of a shard is due. -/
def repairsDue (s : State) (n : Nat) : Bool := s.units.integ.repairs.any fun r => r.1 = n

/-- Change what the integrity unit keeps. -/
def updInteg (s : State) (f : Integrity → Integrity) : State := { s with units := { s.units with integ := f s.units.integ } }

/-- The DIGEST of a shard that is at work: what its comparison raises is raised for it (log 122). -/
def digestAt (s : State) (n : Nat) : Option Op :=
  s.fe.ops.find? fun o => o.phase = .running && o.started && dOpcode o.desc = opDigest && dShard o.desc = n

/-- Raise an event of a shard's comparison: for its DIGEST, whose CFLAGS show it, or for no command (R148; log 122). -/
def raiseCompared (s : State) (n : Nat) (t : Nat) (code : BitVec 16) (detail : DWord) : State :=
  match digestAt s n with
  | some o => raiseEvent (updOp s o.handle fun x => { x with event := true }) t code (BitVec.ofNat 64 n) detail o.handle
  | none => raiseEvent s t code (BitVec.ofNat 64 n) detail 0

/-- A halt of a comparison takes place once the shard's repairs are done (R572). -/
def dueHalt (s : State) (n : Nat) : State :=
  match nmGet? s.units.integ.halts n with
  | none => s
  | some detail =>
    if repairsDue s n then s
    else
      let t := match nmGet? s.cfg.live.shards n with | some c => c.tenant.toNat | none => 0
      let s := haltShard (updInteg s fun g => { g with halts := nmErase g.halts n }) n
      raiseCompared s n t evDigestSplit detail

/-- Make a tile's repair from one of a list of packages due. -/
def dueRepairFrom (s : State) (n : Nat) (t : Nat) (src : List (BitVec 13)) : State :=
  updInteg (dueRepair s n t) fun g => { g with sources := (g.sources.filter fun x => !(x.1 = n && x.2.1 = t)) ++ [(n, t, src)] }

/-- DETAIL of a finding: the first disagreeing tile, and their count. -/
def splitDetail (tiles : List Nat) : Nat := tiles.headD 0 % 2 ^ 32 + tiles.length % 2 ^ 32 * 2 ^ 32

/-- Act on the tiles on which the members compared disagree (R572): counted and logged; repairs become due, and a halt with them. -/
def actOnSplit (s : State) (n : Nat) (c : ShardCfg) (cmp : List (BitVec 13 × List DWord)) (tiles : List Nat) : State :=
  if tiles.isEmpty then s
  else
    let s := regCount s (tenOff c.tenant 0x18) tiles.length
    let s := logRecord s 0x08 0 0 n (splitDetail tiles) c.tenant.toNat
    let s := tiles.foldl (fun s t => match decideTile s cmp t with
      | .repairFrom src => dueRepairFrom s n t src
      | _ => s) s
    if tiles.any fun t => decideTile s cmp t = .halt then
      dueHalt (updInteg s fun g => { g with halts := nmSet g.halts n (BitVec.ofNat 64 (splitDetail tiles)) }) n
    else s

/-- Whether a granule of the committed slot or of its factor record is poisoned (R558). -/
def shardPoisoned (s : State) (n : Nat) (c : ShardCfg) : Bool :=
  let k := committedSlot s n c
  poisonIn s (headerAddr c k) 64 || poisonIn s (factorAddr c k) (factorSlotBytes c) ||
  (List.range (tileCount c)).any fun t => poisonIn s (fieldAddr c k t 0) (fieldCount c * blockBytes c)

/-- A DIGEST's agreement clears a halt: every member in service was compared, and nothing is poisoned (R558; log 75). -/
def clearHalt (s : State) (n : Nat) (c : ShardCfg) (agree : Bool) : State :=
  if agree && (shardDyn s n).halted && !shardPoisoned s n c then updShard s n fun d => { d with halted := false } else s

/-! ### DIGEST (R579, R580) -/

/-- The root of a shard's committed digest slot. -/
def shardRoot (s : State) (n : Nat) (c : ShardCfg) : DWord := treeRoot (storedDigests s c (committedDigest s n c))

/-- Tiles whose stored digest differs from the recomputed one. -/
def staleTiles (s : State) (n : Nat) (c : ShardCfg) : List Nat :=
  let k := committedSlot s n c
  let stored := storedDigests s c (committedDigest s n c)
  (List.range (tileCount c)).filter fun t => stored.getD t 0 ≠ tileDigest s c k t

/-- What a DIGEST ends with. -/
def digestRes (s : State) (o : Op) (n : Nat) (c : ShardCfg) : Res :=
  { status := if o.status ≠ stOk then o.status else if (shardDyn s n).halted then stDigestSplit else stOk
    res0 := o.res0, res1 := shardRoot s n c }

/-- End the DIGESTs of a shard that waited for its repairs. -/
def endDigests (s : State) (n : Nat) : State :=
  if repairsDue s n then s
  else match nmGet? s.cfg.live.shards n with
    | none => s
    | some c => s.fe.ops.foldl (fun s o =>
        if o.phase = .running && o.started && dOpcode o.desc = opDigest && dShard o.desc = n then finishOp s o (digestRes s o n c) else s) s

/-- Whether a view of a shard's committed slot can be taken now: no repair of the shard is due, and a capacity-mode shard has no running
sweep and no applied undo entry (R525, R576). -/
def viewOpen (s : State) (n : Nat) (c : ShardCfg) : Bool :=
  !repairsDue s n && !(capMode c && ((sweepOf s n).isSome || (List.range (undoEntries c)).any (undoRestores s c false)))

/-- What a recomputation of a shard's digests reads: the committed header and fields, and the digest record (R568). -/
def digestReads (s : State) (n : Nat) (c : ShardCfg) : List (Nat × Nat) :=
  let k := committedSlot s n c
  (headerAddr c k, 64) :: (digestAddr c (committedDigest s n c), digestSlotBytes c) ::
  (List.range (tileCount c)).map fun t => (fieldAddr c k t 0, fieldCount c * blockBytes c)

/-- Whether a shard's committed slot can be read for its digests now. -/
def digestOpen (s : State) (n : Nat) (c : ShardCfg) : Bool :=
  viewOpen s n c && !(digestReads s n c).any fun x => readHeld s x.1 x.2

/-- The ranges of a DIGEST. -/
def digestRanges (s : State) (o : Op) : List (Nat × Nat) :=
  match nmGet? s.cfg.live.shards (dShard o.desc) with
  | some c => if viewOpen s (dShard o.desc) c then digestReads s (dShard o.desc) c else []
  | none => []

/-- DIGEST. -/
def tryDigest (answers : List MemberDigest) (s0 : State) (o : Op) : Outcome :=
  let s := reachFree s0 (digestRanges s0 o)
  let n := dShard o.desc
  match nmGet? s0.cfg.live.shards n with
  | none => .wait
  | some c =>
    let both := dField o.desc 28 1 = 1 && !c.members.isEmpty
    if !digestOpen s n c || (both && s.step.compares.contains n) then .wait
    else
      let stale := (staleTiles s n c).length
      let s := recomputeSlot s n c (committedDigest s n c)
      if !both then .done s (digestRes s { o with res0 := BitVec.ofNat 32 stale } n c)
      else
        let cmp := compared s c (storedDigests s c (committedDigest s n c)) answers
        let tiles := if cmp.length < 2 then [] else differingTiles (cmp.map (·.2))
        let o := { o with
          res0 := BitVec.ofNat 32 tiles.length, status := if anyAbsent s c answers then stBusy else stOk }
        let s := updOp s o.handle fun x => { x with res0 := o.res0, status := o.status }
        let s := clearHalt s n c (2 ≤ cmp.length && tiles.isEmpty && !anyAbsent s c answers)
        let s := actOnSplit s n c cmp tiles
        if repairsDue s n then .go s else .done s (digestRes s o n c)

/-- DIGEST (R579). -/
def execDigest (handle : Word) (answers : List MemberDigest) (s : State) : Host.Outcome State Fault Refusal :=
  .next (runCommand opDigest (sensing digestRanges (tryDigest answers)) handle s)

/-- DIGEST_COMPARISON: the comparison of a shard that a step's end has made due. -/
def compareShard (n : Nat) (answers : List MemberDigest) (s0 : State) : State :=
  match nmGet? s0.cfg.live.shards n with
  | none => s0
  | some c =>
    let s := if s0.step.compares.contains n && viewOpen s0 n c then reachFree s0 (digestReads s0 n c) else s0
    if s0.step.compares.contains n && digestOpen s n c then
      let s := { s with step := { s.step with compares := s.step.compares.filter fun x => x ≠ n } }
      let cmp := compared s c (storedDigests s c (committedDigest s n c)) answers
      settle (actOnSplit s n c cmp (if cmp.length < 2 then [] else differingTiles (cmp.map (·.2))))
    else s

/-- DIGEST_COMPARISON (R569). -/
def execDigestComparison (shard : BitVec 16) (answers : List MemberDigest) (s : State) : Host.Outcome State Fault Refusal :=
  .next (compareShard shard.toNat answers s)

/-! ### Repair (R575 to R578) -/

/-- The bytes of a tile's fields are written where the committed state of the tile lies: its slot, and the undo copy of a tile that a
sweep of a capacity-mode shard has overwritten (R278). -/
def putFields (s : State) (n : Nat) (c : ShardCfg) (t : Nat) (bs : List Byte) : State :=
  if capMode c && undoHeld s c t then
    match (List.range (undoEntries c)).find? fun e =>
        dRead s (undoEntryAddr c e + 4) 1 ≠ [0] && leNat (dRead s (undoEntryAddr c e) 4) = t with
    | some e => dWrite s (undoEntryAddr c e + 0x1000) bs
    | none => s
  else dWrite s (fieldAddr c (committedSlot s n c) t 0) bs

/-- S0 and STEP_NO of a shard's WRITTEN or READY result; the header of a capacity-mode shard waits in the directory (R218, R279). -/
def inactiveResult (s : State) (n : Nat) (c : ShardCfg) : Word × DWord :=
  if capMode c then
    (BitVec.ofNat 32 (leNat (((shardDyn s n).header.drop 40).take 4)), BitVec.ofNat 64 (leNat (((shardDyn s n).header.drop 32).take 8)))
  else
    let h := readHeader s c (inactiveSlot s n c)
    (h.clip, BitVec.ofNat 64 h.stepNo)

/-- A repaired shard that has left CLEAN is aborted and swept again: as the verdict of its run asks, or, where no run drives it, for the
result it had or was getting (R577; log 125). -/
def resweep (s : State) (n : Nat) (c : ShardCfg) : State :=
  if [ShardState.clean, .held].contains (shardDyn s n).st then s
  else match sweepOf s n with
    | some w => if w.stop then s else updSweep s n fun w => { w with stop := true, again := true }
    | none =>
      if (runOf s n).isSome then afterStop (shardClean s n) n
      else
        let h := inactiveResult s n c
        repairSweep (shardClean s n) n c (decide ((shardDyn s n).st = .ready)) h.1 h.2

/-- Write a tile's repair (R575): its fields, the committed header, its narrow bytes in the active copy, its digest and ancestors, and one
error-log record. -/
def writeRepair (s : State) (n : Nat) (c : ShardCfg) (t : Nat) (d : RepairData) : State :=
  let k := committedSlot s n c
  let s := resweep s n c
  let s := putFields s n c t (padTo (fieldCount c * blockBytes c) 0 (d.fields.take (fieldCount c * blockBytes c)))
  let s := dWrite s (headerAddr c k) (padTo 64 0 (d.header.take 64))
  let nb := narrowTileBytes (narrowFmt s.cfg.live c)
  let s := if c.intKind then s else dWrite s (activeNarrow s c t) (padTo nb 0 (d.narrow.take nb))
  let s := regCount s (tenOff c.tenant 0x1C) 1
  logRecordFree (recomputeTile s c k (committedDigest s n c) t) 0x09 0 0 n c.tenant.toNat

/-- The packages that a due repair may still take its tile from, the next first (R572, R578). -/
def repairSources (s : State) (n : Nat) (c : ShardCfg) (t : Nat) : List (BitVec 13) :=
  match s.units.integ.sources.find? fun x => x.1 = n && x.2.1 = t with
  | some x => x.2.2
  | none => (liveMembers s c).filter fun m => m ≠ s.cfg.live.package

/-- A tile's repair is no longer due. -/
def repairOver (s : State) (n : Nat) (t : Nat) : State :=
  updInteg s fun g => { g with
    repairs := g.repairs.filter fun r => r ≠ (n, t), sources := g.sources.filter fun x => !(x.1 = n && x.2.1 = t) }

/-- No source has the tile clean: the shard is halted, with EV_UE where its own copy is poisoned (R557, R578). -/
def noSource (s : State) (n : Nat) (c : ShardCfg) (t : Nat) : State :=
  let a := fieldAddr c (committedSlot s n c) t 0
  let s := haltShard (repairOver s n t) n
  if poisonIn s a (fieldCount c * blockBytes c) then raiseUe s (some c.tenant) a else s

/-- What follows when a due repair has ended either way: the halt that waited for it, DIGESTs, and held reads. -/
def afterRepair (s : State) (n : Nat) : State := settle (serveHeld (endDigests (dueHalt s n) n))

/-- TILE_REPAIR: the next source of a due repair answers. -/
def tileRepair (n t : Nat) (d : RepairData) (s : State) : State :=
  match nmGet? s.cfg.live.shards n with
  | none => s
  | some c =>
    if !s.units.integ.repairs.contains (n, t) then s
    else match repairSources s n c t with
      | [] => afterRepair (noSource s n c t) n
      | m :: rest =>
        if d.source ≠ m then s
        else if d.poisoned then
          if rest.isEmpty then afterRepair (noSource s n c t) n else dueRepairFrom s n t rest
        else
          let s := repairOver (writeRepair s n c t d) n t
          let s := raiseCompared s n c.tenant.toNat evRepaired (BitVec.ofNat 64 (t % 2 ^ 32 + d.source.toNat * 2 ^ 32))
          afterRepair s n

/-- TILE_REPAIR (R575). -/
def execTileRepair (shard : BitVec 16) (tile : Nat) (data : RepairData) (s : State) : Host.Outcome State Fault Refusal :=
  .next (tileRepair shard.toNat tile data s)

/-! ### REPAIR (R581) -/

/-- REPAIR: `data` holds the answers for the tiles it names, in tile order; until they have come the command waits. -/
def tryRepair (data : List RepairData) (s : State) (o : Op) : Outcome :=
  let n := dShard o.desc
  match nmGet? s.cfg.live.shards n with
  | none => .wait
  | some c =>
    let tiles := if dField o.desc 28 4 = allShards then List.range (tileCount c) else [dField o.desc 28 4]
    let k := committedSlot s n c
    if (runOf s n).isSome && (shardDyn s n).st ≠ .held then .done s (resSt stBusy)
    else if data.length ≠ tiles.length || data.any fun d => d.source.toNat ≠ dField o.desc 32 2 then .wait
    else if data.any fun d => d.stepNo.toNat ≠ headerStep s c k then .done s (resSt stBadField)
    else if data.any fun d => d.poisoned then .done s (resSt stPoison)
    else .done (serveHeld ((tiles.zip data).foldl (fun s x => writeRepair s n c x.1 x.2) s)) resOk

/-- REPAIR (R581). -/
def execRepair (handle : Word) (data : List RepairData) (s : State) : Host.Outcome State Fault Refusal :=
  .next (runCommand opRepair (tryRepair data) handle s)

end Sys2Proof.Machine
end

