-- ==== Sys2Proof/Machine/Activations.lean ====
section
/-! DEFINITION. The activation store path and snapshots (*Activation store path and snapshots*): ACT_STORE, ACT_LOAD and SNAPSHOT. -/

namespace Sys2Proof.Machine

/-! ### Pages (R514 to R516) -/

/-- The unit of compression of a format (R515). -/
def actUnit (fmt : Nat) : Nat := if fmt = 0x21 then 8 else if fmt = 0 || fmt = 0x20 then 4 else if fmt = 1 || fmt = 2 then 2 else 1

/-- Encoded bytes cut into pages of 4,096 B, the last one filled with zeros. -/
def actPagesOf (bs : List Byte) : List (List Byte) := (chunks 4096 bs).map (padTo 4096 0)

/-- The bitmap of a page's units: bit `k` is 1 for a non-zero unit. -/
def actBitmap (units : List (List Byte)) : List Byte :=
  (chunks 8 units).map fun g => BitVec.ofNat 8 ((List.zipIdx g).foldl (fun acc u => acc + if u.1.all fun b => b = 0 then 0 else 2 ^ u.2) 0)

/-- The record of a page and its SECTORS. -/
def actRecord (comp unit : Nat) (page : List Byte) : Nat × List Byte :=
  let units := chunks unit page
  let live := units.filter fun u => !u.all fun b => b = 0
  let size := 4096 / (8 * unit) + live.length * unit
  if comp = 0 then (128, page)
  else if live.isEmpty then (0, [])
  else if size ≤ 4064 then
    let n := (size + 31) / 32
    (n, padTo (32 * n) 0 (actBitmap units ++ live.flatten))
  else (128, page)

/-- The bytes of a stream (R514). -/
def actStream (fmt comp count : Nat) (enc : List Byte) : List Byte × Nat :=
  let recs := (actPagesOf enc).map (actRecord comp (actUnit fmt))
  let table := padTo (actTable recs.length) 0 (recs.flatMap fun r => leBytes 2 r.1)
  let body := recs.flatMap (·.2)
  let total := 64 + table.length + body.length
  let head := leBytes 4 0x53544341 ++ leBytes 1 fmt ++ leBytes 1 comp ++ leBytes 2 0 ++ leBytes 8 count ++ leBytes 4 recs.length ++
    leBytes 4 0 ++ leBytes 8 enc.length ++ leBytes 8 total ++ List.replicate 24 0
  (head ++ table ++ body, if comp = 0 then 0 else (recs.filter fun r => r.1 = 128).length)

/-! ### ACT_STORE -/

/-- The base die whose path runs a stream (R513). -/
def actDie (s : State) (o : Op) (stream : Nat) : Nat :=
  match (localAddr s.cfg.live stream).bind (channelOf s) with
  | some c => c / 64
  | none => queueDie s.cfg.live o.queue

/-- Convert the elements of an operand (R511). -/
def actConvert (sfmt dfmt count : Nat) (coarse : Word) (x : Operand) : List Byte × Counts :=
  let els := elemsOf sfmt (exact32 fpOne) count x
  let enc := encodeOperand dfmt (roundMode 0) true (exact32 coarse) (els.map fun e => (e.1, 0))
  (enc.1, countsAdd enc.2 ⟨0, (els.map (·.2)).sum, 0, 0⟩)

/-- ACT_STORE. -/
def tryActStore (s : State) (o : Op) : Outcome :=
  let cnt := dCount o.desc
  withGroup s o 0 (dDst o.desc) <|
    if dEmpty o.desc then writeResult s o 0 (dDst o.desc) [] { status := stOk, empty := true }
    else if dField o.desc 56 8 < actBound (dDfmt o.desc) cnt then .done s (resSt stLimit)
    else match readOperand s o (dSrcSpace o.desc) (dSrc o.desc) (operandBytes (dSfmt o.desc) cnt) with
      | none => .wait
      | some x =>
        let c := actConvert (dSfmt o.desc) (dDfmt o.desc) cnt fpOne x
        let st := actStream (dDfmt o.desc) (dField o.desc 50 1) cnt c.1
        let d := dieBase (actDie s o (dDst o.desc))
        let s := regCount (regCount (regCount x.s (d + 0x500) (x.bytes.length / 1024)) (d + 0x504) (st.1.length / 1024)) (d + 0x508) st.2
        writeResult s o 0 (dDst o.desc) st.1
          { status := readStatus s o.tenant x, res1 := BitVec.ofNat 64 st.1.length, counts := c.2 }

/-- ACT_STORE (R510). -/
def execActStore (handle : Word) (s : State) : Host.Outcome State Fault Refusal := .next (runData opActStore tryActStore handle s)

/-! ### ACT_LOAD -/

/-- The fields of a stream header (Table 1). -/
structure ActHead where
  ok      : Bool          -- MAGIC and the reserved fields are right
  fmt     : Nat
  count   : Nat
  pages   : Nat
  encoded : Nat
  total   : Nat
deriving DecidableEq, Repr

/-- Read a stream header. -/
def actHead (bs : List Byte) : ActHead :=
  let f := fun o n => leNat ((bs.drop o).take n)
  ⟨f 0 4 = 0x53544341 && f 6 2 = 0 && f 20 4 = 0 && f 40 24 = 0, f 4 1, f 8 8, f 16 4, f 24 8, f 32 8⟩

/-- Page-table entries that lie in the source range. -/
def actEntries (bs : List Byte) (pages : Nat) : List Nat :=
  ((chunks 2 ((bs.drop 64).take (2 * pages))).filter fun b => b.length = 2).map leNat

/-- The checks of R518, in their order. -/
def actCheck (h : ActHead) (entries : List Nat) (sfmt count srcBytes : Nat) (fresh : Bool) : Option Status :=
  if !h.ok || entries.any (fun e => 128 < e) then some (if fresh then stUnwritten else stBadField)
  else if sfmt ≠ h.fmt then some stBadFmt
  else if count ≠ h.count || h.pages ≠ (h.encoded + 4095) / 4096 || h.encoded ≠ operandBytes h.fmt count then some stBadField
  else if srcBytes ≠ h.total || h.total ≠ 64 + actTable h.pages + 32 * entries.sum then some stBadField
  else none

/-- Bytes of a page from its bitmap and its non-zero units, each with its poison. -/
def actUnits (unit : Nat) : List (Bool × Bool) → List (Byte × Bool) → List (Byte × Bool)
  | [], _ => []
  | (true, bad) :: l, data => ((data.take unit).map fun b => (b.1, b.2 || bad)) ++ actUnits unit l (data.drop unit)
  | (false, bad) :: l, data => List.replicate unit (0, bad) ++ actUnits unit l data

/-- A page rebuilt from its record (R519), with the poison of each byte; a record too short for its own bitmap, which the manual does
not give a page, leaves it open (log 77). -/
def actPage (s : State) (unit sectors : Nat) (rec_ : List (Byte × Bool)) : State × List (Byte × Bool) :=
  if sectors = 0 then (s, List.replicate 4096 (0, false))
  else if sectors = 128 then (s, rec_)
  else
    let map_ := rec_.take (4096 / (8 * unit))
    let bits := map_.flatMap fun b => (List.range 8).map fun k => (b.1.getLsbD k, b.2)
    let live := (bits.filter (·.1)).length
    if rec_.length < 4096 / (8 * unit) + live * unit then
      let (s, n) := takeNat s
      (s, (leBytes 4096 n).map fun b => (b, false))
    else (s, actUnits unit bits (rec_.drop (4096 / (8 * unit))))

/-- Rebuild every page of a stream from its records. -/
def actRebuild (unit : Nat) : List Nat → List (Byte × Bool) → State → State × List (Byte × Bool)
  | [], _, s => (s, [])
  | n :: l, data, s =>
    let p := actPage s unit n (data.take (32 * n))
    let r := actRebuild unit l (data.drop (32 * n)) p.1
    (r.1, p.2 ++ r.2)

/-- ACT_LOAD. A poisoned header or page table ends it with ST_POISON (log 77). -/
def tryActLoad (s : State) (o : Op) : Outcome :=
  let cnt := dCount o.desc
  let n := dField o.desc 56 8
  withGroup s o (dDstSpace o.desc) (dDst o.desc) <|
    if dEmpty o.desc then writeResult s o (dDstSpace o.desc) (dDst o.desc) [] { status := stOk, empty := true }
    else match readOperand s o 0 (dSrc o.desc) n with
      | none => .wait
      | some x =>
        let bs := cleanBytes x
        let h := actHead (padTo 64 0 (bs.take 64))
        let entries := actEntries bs h.pages
        let front := 64 + actTable h.pages
        let headFresh := freshIn x.s ((localAddr s.cfg.live (dSrc o.desc)).getD 0) (min n 64) ≠ 0
        if (x.bad.take 64).any (· = true) || (h.ok && (x.bad.take front).any (· = true)) then .done x.s (resSt stPoison)
        else match actCheck h entries (dSfmt o.desc) cnt n (headFresh && unwrStatus s o.tenant) with
          | some st => .done x.s (resSt st)
          | none =>
            let bad := if x.bad.isEmpty then List.replicate x.bytes.length false else x.bad
            let r := actRebuild (actUnit h.fmt) entries ((x.bytes.zip bad).drop front) x.s
            let enc := r.2.take h.encoded
            let y : Operand := { s := r.1, bytes := enc.map (·.1), bad := if x.bad.isEmpty then [] else enc.map (·.2), fresh := x.fresh }
            let c := actConvert (dSfmt o.desc) (dDfmt o.desc) cnt fpOne y
            writeResult r.1 o (dDstSpace o.desc) (dDst o.desc) c.1
              { status := readStatus s o.tenant x, res1 := BitVec.ofNat 64 c.1.length, counts := c.2 }

/-- ACT_LOAD (R519). -/
def execActLoad (handle : Word) (s : State) : Host.Outcome State Fault Refusal := .next (runData opActLoad tryActLoad handle s)

/-! ### SNAPSHOT (R520 to R527) -/

/-- Local ranges that SNAPSHOT reads of a shard. -/
def snapReads (s : State) (n : Nat) (c : ShardCfg) (what : Nat) : List (Nat × Nat) :=
  if what = 2 then [(activeNarrow s c 0 - 64, narrowBytes s.cfg.live c)]
  else match fieldPlace c (if what = 1 then 4 else 0) with
    | some j => (List.range (tileCount c)).map fun t =>
        (fieldAddr c (committedSlot s n c) t j, tileElems c t * elemBytes c)
    | none => []

/-- The data of a shard read as one operand. -/
def snapOperand (s : State) (l : List (Nat × Nat)) : Operand :=
  let poisoned := l.any fun x => poisonIn s x.1 x.2
  { s := s, bytes := l.flatMap fun x => dRead s x.1 x.2
    bad := if poisoned then l.flatMap fun x => (List.range x.2).map fun i => s.mem.poison.contains ((x.1 + i) / 64) else []
    fresh := (l.map fun x => freshIn s x.1 x.2).sum }

/-- The coarse scale of a snapshot's data. -/
def snapCoarse (s : State) (n : Nat) (c : ShardCfg) (what dfmt : Nat) (narrow : List Byte) : Word :=
  if what = 2 then (if fmtTl (narrowFmt s.cfg.live c) then BitVec.ofNat 32 (leNat (narrow.take 4)) else fpOne)
  else coarseFor { formatOf s.cfg.live c with nfmt := dfmt } (readHeader s c (committedSlot s n c)).wmax

/-- One snapshot: its bytes, the state after the reads, its counts, and the status of reading. -/
def snapOne (o : Op) (s : State) (n : Nat) (c : ShardCfg) : State × List Byte × Counts × Status :=
  let what := dField o.desc 28 1
  let dfmt := dDfmt o.desc
  let k := committedSlot s n c
  let x := snapOperand s (snapReads s n c what)
  let coarse := snapCoarse s n c what dfmt x.bytes
  let d := if what = 2 then (cleanBytes x, countsZero) else actConvert (if c.intKind then 0x21 else 0) dfmt c.n coarse x
  let head := leBytes 4 0x50414E53 ++ leBytes 4 n ++ leBytes 1 what ++ leBytes 1 (if what = 2 then narrowFmt s.cfg.live c else dfmt) ++
    leBytes 2 0 ++ leBytes 4 coarse.toNat ++ leBytes 8 (headerT s c k) ++ leBytes 8 (headerStep s c k) ++ leBytes 8 c.n ++
    leBytes 2 s.cfg.live.package.toNat ++ leBytes 6 0 ++ leBytes 8 s.cfg.live.spid.toNat ++ leBytes 8 d.1.length
  (countUninit x.s o.tenant x.fresh, head ++ d.1, d.2, readStatus x.s o.tenant x)

/-- The snapshots of several shards, each at the next 4 KiB boundary after the one before it (R522). -/
def snapAll (o : Op) : List (Nat × ShardCfg) → Nat → State → State × List (Nat × List Byte) × Counts × Status
  | [], _, s => (s, [], countsZero, stOk)
  | e :: l, a, s =>
    let r := snapOne o s e.1 e.2
    let q := snapAll o l ((a + r.2.1.length + 4095) / 4096 * 4096) r.1
    (q.1, (a, r.2.1) :: q.2.1, countsAdd r.2.2.1 q.2.2.1, if r.2.2.2 = stPoison || q.2.2.2 = stOk then r.2.2.2 else q.2.2.2)

/-- Write the pieces of a result in local D-space. -/
def writeLocal (s : State) (o : Op) (l : List (Nat × List Byte)) (r : Res) : Outcome :=
  match groupOf s o with
  | some g =>
    match l.foldl (fun (acc : GroupWrite) x => match acc with
        | .ok s => groupWrite s g x.1 x.2
        | w => w) (.ok s) with
    | .wait s => .again s
    | .limit s => .done s (resSt stLimit)
    | .ok s => .done s r
  | none =>
    if l.any fun x => writeHeld s none x.1 x.2.length then .wait
    else
      let cut := l.any fun x => poisonCut s x.1 x.2.length
      .done (l.foldl (fun s x => refetchLanded (opWrite s o x.1 x.2) x.1 x.2.length) s) (if cut then { r with status := stPoison } else r)

/-- Write the pieces of a result, each at its offset from a D-space address. -/
def writePieces (s : State) (o : Op) (addr : Nat) (l : List (Nat × List Byte)) (r : Res) : Outcome :=
  match sysAddr s.cfg.live addr with
  | .there pkg a =>
    let x := sendPieces s o pkg (l.map fun y => (a + y.1, y.2)) r.status
    if x.2 = 0 then .done x.1 { r with signal := false } else .go (awaitLanding x.1 o.handle x.2 r)
  | .nowhere => .done s r
  | .here a => writeLocal s o (l.map fun y => (a + y.1, y.2)) r

/-- The ranges that a SNAPSHOT reads of the shards of which a view can be taken now. -/
def snapRanges (s : State) (o : Op) : List (Nat × Nat) :=
  (snapShards s.cfg.live o).flatMap fun e => if viewOpen s e.1 e.2 then snapReads s e.1 e.2 (dField o.desc 28 1) else []

/-- SNAPSHOT. The model reads all its data at once, so it holds no tile past that moment (R524). -/
def trySnapshot (s0 : State) (o : Op) : Outcome :=
  let l := snapShards s0.cfg.live o
  withGroup s0 o 0 (dDst o.desc) <|
    let s := reachFree s0 (snapRanges s0 o)
    if l.any fun e => !viewOpen s e.1 e.2 || (snapReads s e.1 e.2 (dField o.desc 28 1)).any fun x => readHeld s x.1 x.2 then .wait
    else
      let r := snapAll o l 0 s
      writePieces r.1 o (dDst o.desc) r.2.1
        { status := r.2.2.2, res1 := BitVec.ofNat 64 (snapLength s.cfg.live o), counts := r.2.2.1 }

/-- SNAPSHOT (R520). -/
def execSnapshot (handle : Word) (s : State) : Host.Outcome State Fault Refusal := .next (runData opSnapshot (sensing snapRanges trySnapshot) handle s)

end Sys2Proof.Machine
end

