-- ==== Sys2Proof/Machine/Txg.lean ====
section
/-! DEFINITION. Transaction groups and line locks (R101 to R105, R282 to R290): TXG_BEGIN, TXG_END, the Ending mark, and the
mutex of a line. -/

namespace Sys2Proof.Machine

/-- Data commands, which join a group (R283; DEDUCED, log 83). -/
def dataCodes : List Nat :=
  [opCopy, opConvert, opTransposeIn, opTransposeOut, opAccum, opReduce, opGather, opNorm, opZero, opMigrate, opPin, opRngFill, opDraw, opActStore,
   opActLoad, opSnapshot]

/-- Whether an operation is a command of a group. -/
def inGroup (s : State) (g : Txg) (o : Op) : Bool :=
  dataCodes.contains (dOpcode o.desc) && o.queue = g.queue && groupOf s o = some g.group

/-- Operations of a group that are not yet Done. -/
def groupOps (s : State) (g : Txg) : List Op := s.fe.ops.filter fun o => opLive o && inGroup s g o

/-- A started TXG_END of a group. -/
def endOf (s : State) (g : Txg) : Option Op :=
  s.fe.ops.find? fun o => o.phase = .running && o.started && dOpcode o.desc = opTxgEnd && o.queue = g.queue && dField o.desc 24 1 = g.group

/-- Change the open groups. -/
def setTxgs (s : State) (f : List Txg → List Txg) : State := { s with step := { s.step with txgs := f s.step.txgs } }

/-- Commands of a group that are not yet Done complete with ST_ABORTED (R288). -/
def abortOps (s : State) (g : Txg) : State := (groupOps s g).foldl (fun s o => stopOp s o stAborted) s

/-- Waiting lock requests of a group are withdrawn. -/
def dropRequests (s : State) (g : Nat) : State :=
  { s with step := { s.step with locks := s.step.locks.filter fun w => w.group ≠ g } }

/-- A group ends: it is open no longer, and its locks are released. -/
def closeGroup (s : State) (g : Nat) : State := dropRequests (setTxgs s fun l => l.filter fun x => x.group ≠ g) g

/-- The write set is dropped (R288). -/
def discardGroup (s : State) (g : Txg) : State := closeGroup (abortOps s g) g.group

/-! ### TXG_BEGIN and TXG_END -/

/-- TXG_BEGIN (R282, R591). -/
def tryTxgBegin (s : State) (o : Op) : Outcome :=
  let g := dField o.desc 24 1
  if (txgOf s g).isSome then .done s (resSt stBusy)
  else if (planeTenant s.cfg.live o.tenant.toNat).txgMax ≤ (s.step.txgs.filter fun x => x.tenant = o.tenant).length then
    .done s (resSt stLimit)
  else .done (setTxgs s fun l => l ++ [⟨g, o.queue, o.tenant, o.order, dField o.desc 32 4, [], .open_⟩]) resOk

/-- TXG_BEGIN (R282). -/
def execTxgBegin (handle : Word) (s : State) : Host.Outcome State Fault Refusal := .next (runCommand opTxgBegin tryTxgBegin handle s)

/-- What a TXG_END of a group that makes nothing visible reports (R288, R289): under EMODE 1 a doomed group gives ST_OK (DESIGN CHOICE: R288
gives both; log 144). -/
def endStatus (g : Txg) (emode : Nat) : Status :=
  if g.state = .conflict then stTxgConflict else if emode = 1 then stOk else stAborted

/-- TXG_END: under EMODE 0 of a live group it waits for the Ending mark; otherwise the write set is dropped at once. -/
def tryTxgEnd (s : State) (o : Op) : Outcome :=
  let emode := dField o.desc 25 1
  if beginPending s o then .wait
  else match txgOf s (dField o.desc 24 1) with
    | none => .done s (resSt stBadField)
    | some g =>
      if g.queue ≠ o.queue then .done s (resSt stBadField)
      else if emode = 1 || g.state = .conflict || g.state = .doomed then
        .done (serveHeld (discardGroup s g)) (resSt (endStatus g emode))
      else .go s

/-- TXG_END (R286). -/
def execTxgEnd (handle : Word) (s : State) : Host.Outcome State Fault Refusal := .next (runCommand opTxgEnd tryTxgEnd handle s)

/-- A line's new data is put in place at its home (R286, R498). -/
def applyLine (s : State) (l : Nat × List Byte) : State :=
  let a := l.1 * 128
  let s := ((blocksOf 64 a 128).map (· * 64)).foldl (homeWriteSector 0 false) s
  refetchLanded (dWrite s a l.2) a 128

/-- The Ending mark of a group, and its write-backs: every line's new data is in place and its lock released (R286, R287). -/
def applyGroup (s : State) (g : Txg) : State :=
  let s := setTxgs s fun l => l.map fun x => if x.group = g.group then { x with state := .ending } else x
  closeGroup (g.lines.foldl applyLine s) g.group

/-- TXG_ENDING: a TXG_END waits, and every command of its group is Done. A group that was doomed meanwhile ends as R288 says. -/
def txgEnding (n : Nat) (s : State) : State :=
  match txgOf s n with
  | none => s
  | some g =>
    match endOf s g with
    | none => s
    | some o =>
      if g.state = .doomed then complete (serveHeld (discardGroup s g)) o (resSt stAborted)
      else if g.state = .open_ && (groupOps s g).isEmpty then complete (serveHeld (applyGroup s g)) o resOk
      else s

/-- TXG_ENDING (R286). -/
def execTxgEnding (group : Fin 64) (s : State) : Host.Outcome State Fault Refusal := .next (txgEnding group.val s)

/-! ### The mutex of a line -/

/-- Requests that wait at a line. -/
def waitersOf (s : State) (line : Nat) : List LockWait := s.step.locks.filter fun w => w.line = line && !w.full

/-- LOCK_GRANT: a released line is granted to a waiting request; none that arrived after an earlier grant overtakes one that waited then
(R104). A grant that finds no room for the line dooms the group (R285). -/
def lockGrant (line g : Nat) (s : State) : State :=
  match (waitersOf s line).find? fun w => w.group = g with
  | none => s
  | some w =>
    if (lockOf s line).isSome || lineBusy s line || (waitersOf s line).any fun x => w.round < x.round then s
    else if (txgOf s g).any fun x => !lineFits s x line then
      { doomGroup s g with step := { (doomGroup s g).step with locks := s.step.locks.map fun x => if x = w then { x with full := true } else x } }
    else
      let s := updTxg s g fun x => { x with lines := nmSet x.lines line (dRead s (line * 128) 128) }
      { s with step := { s.step with locks := (s.step.locks.filter fun x => x ≠ w).map fun x =>
          if x.line = line then { x with round := x.round + 1 } else x } }

/-- LOCK_GRANT (R104). -/
def execLockGrant (line : BitVec 37) (group : Fin 64) (s : State) : Host.Outcome State Fault Refusal :=
  .next (lockGrant line.toNat group.val s)

/-- LOCK_TIMEOUT: the waiting request's group aborts; its TXG_END completes with ST_TXG_CONFLICT (R105, R289). -/
def lockTimeout (line n : Nat) (s : State) : State :=
  match (waitersOf s line).find? fun w => w.group = n, txgOf s n with
  | some _, some g =>
    let s := abortOps s g
    match endOf s g with
    | some o => complete (serveHeld (closeGroup s n)) o (resSt stTxgConflict)
    | none => settle (serveHeld (dropRequests (updTxg s n fun x => { x with state := .conflict, lines := [] }) n))
  | _, _ => s

/-- LOCK_TIMEOUT (R105). -/
def execLockTimeout (line : BitVec 37) (group : Fin 64) (s : State) : Host.Outcome State Fault Refusal :=
  .next (lockTimeout line.toNat group.val s)

end Sys2Proof.Machine
end

