-- ==== Sys2Proof/Machine/Context.lean ====
section
/-! DEFINITION. Contexts (R600 to R605): CTX_SAVE and CTX_RESTORE. -/

namespace Sys2Proof.Machine

/-- Pad a section to the next 4 KiB boundary. -/
def ctxSection (l : List Byte) : List Byte := padTo (upto4k l.length) 0 l

/-- The last decided outcome, hint and STEP_NO of a step plan; outcome 3 before the first. -/
def planOutcome (s : State) (g : Nat) : Nat × BitVec 8 × Word := nmGet (3, 0, 0) s.step.planLast g

/-- The context header (Table 4). -/
def ctxHeader (s : State) (t : BitVec 4) : List Byte :=
  let p := s.cfg.live
  let n := nmGet countsZero s.units.totals t.toNat
  padTo 256 0 (leBytes 4 0x54585443 ++ leBytes 2 1 ++ leBytes 1 t.toNat ++ [0] ++ leBytes 8 p.spid.toNat ++ leBytes 8 (ctxBytes p t) ++
    leBytes 2 (tenantQueues p t).length ++ leBytes 2 (tenantPlans p t).length ++ leBytes 2 (tenantSyncs p t).length ++
    leBytes 2 (tenantUes p t).length ++ leBytes 4 (tenantShards p t).length ++ leBytes 4 0 ++
    leBytes 16 (planeTenant p t.toNat).seed.toNat ++ leBytes 8 n.sat ++ leBytes 8 n.flush ++ leBytes 8 n.nan ++ leBytes 8 n.inf)

/-- A queue's record. -/
def ctxQueue (s : State) (q : Nat) : List Byte :=
  let c := qOf s q
  leBytes 4 q ++ leBytes 4 c.p.toNat ++ leBytes 4 c.h.toNat ++ leBytes 4 c.t.toNat ++ leBytes 4 c.c.toNat ++ leBytes 8 c.cursor.toNat ++
    leBytes 2 c.l ++ leBytes 2 0

/-- A sync object's record. -/
def ctxSync (s : State) (id : Nat) : List Byte := leBytes 8 id ++ leBytes 8 (syncGet s id).toNat

/-- A shard's view. -/
def ctxShard (s : State) (e : Nat × ShardCfg) : List Byte :=
  let c := e.2
  let k := committedSlot s e.1 c
  let flags := k + (if (shardDyn s e.1).halted then 2 else 0) + (if capMode c then 4 else 0)
  leBytes 4 e.1 ++ leBytes 4 flags ++ leBytes 8 (headerStep s c k) ++ leBytes 8 (headerT s c k) ++ leBytes 2 c.prog ++
    leBytes 1 c.fields.toNat ++ leBytes 1 (narrowFmt s.cfg.live c) ++ leBytes 4 0

/-- A step plan's record. -/
def ctxPlan (s : State) (g : Nat) : List Byte :=
  let o := planOutcome s g
  leBytes 4 g ++ leBytes 4 (nmGet 0 s.step.noSkip g) ++ leBytes 1 o.1 ++ leBytes 1 o.2.1.toNat ++ leBytes 2 0 ++ leBytes 4 o.2.2.toNat

/-- The S-space of a UE: scratch, then staging. -/
def ctxUe (s : State) (u : Nat) : List Byte := sRead s (u * 2 ^ 20) 0x80000 ++ sRead s (u * 2 ^ 20 + 0x80000) (stagingOf s.cfg.live u)

/-- The whole context of a tenant (R602). -/
def ctxImage (s : State) (t : BitVec 4) : List Byte :=
  let p := s.cfg.live
  ctxSection (ctxHeader s t) ++ ctxSection ((tenantQueues p t).flatMap (ctxQueue s)) ++ ctxSection ((tenantSyncs p t).flatMap (ctxSync s)) ++
    ctxSection ((tenantShards p t).flatMap (ctxShard s)) ++ ctxSection ((tenantPlans p t).flatMap (ctxPlan s)) ++
    (tenantUes p t).flatMap (ctxUe s)

/-- What makes CTX_SAVE and CTX_RESTORE report ST_BUSY (R601). -/
def ctxBusy (s : State) (o : Op) : Bool :=
  ((tenantShards s.cfg.live o.tenant).any fun e => !([ShardState.clean, .held].contains (shardDyn s e.1).st)) ||
  (s.step.txgs.any fun g => g.tenant = o.tenant) ||
  s.fe.ops.any fun x => x.tenant = o.tenant && x.phase = .running && x.started && x.handle ≠ o.handle &&
    (dOpcode x.desc = opSnapshot || dOpcode x.desc = opDigest)

/-- CTX_SAVE: a FENCE of FSCOPE 1 first (R601). -/
def tryCtxSave (s : State) (o : Op) : Outcome :=
  if !tenantDone s.fe.ops o then .wait
  else if ctxBusy s o then .done s (resSt stBusy)
  else
    let bs := ctxImage s o.tenant
    writeResult s o 0 (dDst o.desc) bs { resOk with res1 := BitVec.ofNat 64 bs.length }

/-- CTX_SAVE (R601). -/
def execCtxSave (handle : Word) (s : State) : Host.Outcome State Fault Refusal := .next (runData opCtxSave tryCtxSave handle s)

/-! ### CTX_RESTORE -/

/-- A little-endian field. -/
def fieldAt (bs : List Byte) (off n : Nat) : Nat := leNat ((bs.drop off).take n)

/-- Offsets of the sections of a tenant's context: queues, sync objects, shards, step plans, S-space. -/
def ctxOffsets (p : Plane) (t : BitVec 4) : Nat × Nat × Nat × Nat × Nat :=
  let q := upto4k 256
  let y := q + upto4k (32 * (tenantQueues p t).length)
  let n := y + upto4k (16 * (tenantSyncs p t).length)
  let l := n + upto4k (32 * (tenantShards p t).length)
  (q, y, n, l, l + upto4k (16 * (tenantPlans p t).length))

/-- Records of a section listed in a context name the given numbers in order. -/
def ctxNames (bs : List Byte) (off size width : Nat) (ids : List Nat) : Bool :=
  (List.zipIdx ids).all fun x => fieldAt bs (off + size * x.2) width = x.1

/-- The checks of R603. -/
def ctxGood (s : State) (t : BitVec 4) (bytes : Nat) (bs : List Byte) : Bool :=
  let p := s.cfg.live
  let (q, y, n, l, _) := ctxOffsets p t
  let shards := tenantShards p t
  fieldAt bs 0 4 = 0x54585443 && fieldAt bs 4 2 = 1 && fieldAt bs 6 1 = t.toNat && fieldAt bs 7 1 = 0 && fieldAt bs 36 4 = 0 &&
  fieldAt bs 88 168 = 0 && fieldAt bs 16 8 = bytes &&
  fieldAt bs 8 8 = p.spid.toNat &&
  fieldAt bs 24 2 = (tenantQueues p t).length && fieldAt bs 26 2 = (tenantPlans p t).length &&
  fieldAt bs 28 2 = (tenantSyncs p t).length && fieldAt bs 30 2 = (tenantUes p t).length && fieldAt bs 32 4 = shards.length &&
  bytes = ctxBytes p t &&
  ctxNames bs q 32 4 (tenantQueues p t) && ctxNames bs y 16 2 (tenantSyncs p t) && ctxNames bs n 32 4 (shards.map (·.1)) &&
  ctxNames bs l 16 4 (tenantPlans p t) &&
  fieldAt bs 40 16 = (planeTenant p t.toNat).seed.toNat &&
  (bs.drop n).take (32 * shards.length) = shards.flatMap (ctxShard s)

/-- Restore a queue's record; the counts of the queue that carries the command stay (Table 3). -/
def restoreQueue (bs : List Byte) (own off : Nat) (s : State) (x : Nat × Nat) : State :=
  let f := fun o n => fieldAt bs (off + 32 * x.2 + o) n
  updQ s x.1 fun c =>
    let c := { c with cursor := BitVec.ofNat 64 (f 20 8) }
    if x.1 = own then c
    else { c with p := BitVec.ofNat 32 (f 4 4), h := BitVec.ofNat 32 (f 8 4), t := BitVec.ofNat 32 (f 12 4), c := BitVec.ofNat 32 (f 16 4)
                  l := f 28 2 }

/-- Restore the sync objects together; waiters re-evaluate at this point (R604). -/
def restoreSyncs (s : State) (bs : List Byte) (off : Nat) (ids : List Nat) : State :=
  let vals := (List.zipIdx ids).map fun x => (x.1, BitVec.ofNat 64 (fieldAt bs (off + 16 * x.2 + 8) 8))
  let s := { s with syncs := vals.foldl (fun m v => nmSet m v.1 v.2) s.syncs }
  promote (vals.foldl (fun s v => markWaits s v.1 v.2) s)

/-- Restore a step plan's record. -/
def restorePlan (bs : List Byte) (off : Nat) (s : State) (x : Nat × Nat) : State :=
  let f := fun o n => fieldAt bs (off + 16 * x.2 + o) n
  { s with step := { s.step with
      noSkip := nmSet s.step.noSkip x.1 (f 4 4)
      planLast := nmSet s.step.planLast x.1 (f 8 1, BitVec.ofNat 8 (f 9 1), BitVec.ofNat 32 (f 12 4)) } }

/-- Restore a UE's S-space. -/
def restoreUe (bs : List Byte) (acc : State × Nat) (u : Nat) : State × Nat :=
  let st := stagingOf acc.1.cfg.live u
  let s := sWrite acc.1 (u * 2 ^ 20) ((bs.drop acc.2).take 0x80000)
  (sWrite s (u * 2 ^ 20 + 0x80000) ((bs.drop (acc.2 + 0x80000)).take st), acc.2 + 0x80000 + st)

/-- The restore point (R604). -/
def ctxApply (s : State) (o : Op) (bs : List Byte) : State :=
  let p := s.cfg.live
  let (q, y, _, l, u) := ctxOffsets p o.tenant
  let s := (List.zipIdx (tenantQueues p o.tenant)).foldl (restoreQueue bs o.queue q) s
  let s := (List.zipIdx (tenantPlans p o.tenant)).foldl (restorePlan bs l) s
  let s := ((tenantUes p o.tenant).foldl (restoreUe bs) (s, u)).1
  restoreSyncs s bs y (tenantSyncs p o.tenant)

/-- CTX_RESTORE. A context with a poisoned granule ends it with ST_POISON, and nothing is restored (log 82). -/
def tryCtxRestore (s : State) (o : Op) : Outcome :=
  if !tenantDone s.fe.ops o then .wait
  else if ctxBusy s o then .done s (resSt stBusy)
  else match readOperand s o 0 (dSrc o.desc) (dCount o.desc) with
    | none => .wait
    | some x =>
      if !x.bad.isEmpty then .done x.s (resSt stPoison)
      else if ctxGood x.s o.tenant (dCount o.desc) x.bytes then .done (ctxApply x.s o x.bytes) (resSt (readStatus x.s o.tenant x))
      else .done x.s (resSt stBadField)

/-- CTX_RESTORE (R603). -/
def execCtxRestore (handle : Word) (s : State) : Host.Outcome State Fault Refusal := .next (runData opCtxRestore tryCtxRestore handle s)

end Sys2Proof.Machine
end

