-- ==== Sys2Proof/Machine/Ecdsa.lean ====
section
/-! DEFINITION. ECDSA verification on P-384 (FIPS 186-5, named by *Authentication* of *The Limbelia image*). -/

namespace Sys2Proof.Machine

/-- The field prime of P-384. -/
def p384 : Nat := 2 ^ 384 - 2 ^ 128 - 2 ^ 96 + 2 ^ 32 - 1

/-- The order of the base point. -/
def n384 : Nat := 0xFFFFFFFFFFFFFFFFFFFFFFFFFFFFFFFFFFFFFFFFFFFFFFFFC7634D81F4372DDF581A0DB248B0A77AECEC196ACCC52973

/-- The coefficient b of y² = x³ − 3x + b. -/
def b384 : Nat := 0xB3312FA7E23EE7E4988E056BE3F82D19181D9C6EFE8141120314088F5013875AC656398D8A2ED19D2A85C8EDD3EC2AEF

/-- The base point. -/
def g384 : Nat × Nat :=
  (0xAA87CA22BE8B05378EB1C71EF320AD746E1D3B628BA79B9859F741E082542A385502F25DBF55296C3A545E3872760AB7,
   0x3617DE4A96262C6F5D9E98BF9292DC29F8F41DBD289A147CE9DA3113B5F0B8C00A60B1CE1D7E819D7A431D7C90EA0E5F)

/-- A point in Jacobian coordinates; Z is 0 at infinity. -/
structure Jac where
  x : Nat
  y : Nat
  z : Nat
deriving DecidableEq, Repr

/-- Subtraction in the field. -/
def fsub (a b : Nat) : Nat := (a + p384 - b) % p384

/-- Twice a point. -/
def jacDouble (a : Jac) : Jac :=
  let delta := a.z * a.z % p384
  let gamma := a.y * a.y % p384
  let beta := a.x * gamma % p384
  let alpha := 3 * fsub a.x delta * (a.x + delta) % p384
  let x := fsub (alpha * alpha % p384) (8 * beta % p384)
  ⟨x, fsub (alpha * fsub (4 * beta % p384) x % p384) (8 * gamma * gamma % p384),
    fsub (fsub ((a.y + a.z) * (a.y + a.z) % p384) gamma) delta⟩

/-- The sum of two points. -/
def jacAdd (a b : Jac) : Jac :=
  if a.z = 0 then b else if b.z = 0 then a
  else
    let za := a.z * a.z % p384
    let zb := b.z * b.z % p384
    let ua := a.x * zb % p384
    let ub := b.x * za % p384
    let sa := a.y * b.z % p384 * zb % p384
    let sb := b.y * a.z % p384 * za % p384
    if ua = ub then (if sa = sb then jacDouble a else ⟨1, 1, 0⟩)
    else
      let h := fsub ub ua
      let r := fsub sb sa
      let hh := h * h % p384
      let hhh := h * hh % p384
      let v := ua * hh % p384
      let x := fsub (fsub (r * r % p384) hhh) (2 * v % p384)
      ⟨x, fsub (r * fsub v x % p384) (sa * hhh % p384), a.z * b.z % p384 * h % p384⟩

/-- u·A + v·B, over the low `k` bits of u and v from the top. -/
def jacCombine (u v : Nat) (a b ab : Jac) : Nat → Jac
  | 0 => ⟨1, 1, 0⟩
  | k + 1 =>
    let rest := jacDouble (jacCombine (u / 2) (v / 2) a b ab k)
    if u % 2 = 1 && v % 2 = 1 then jacAdd rest ab
    else if u % 2 = 1 then jacAdd rest a
    else if v % 2 = 1 then jacAdd rest b
    else rest

/-- x^e mod m, over the low `k` bits of e from the top. -/
def powMod (m x e : Nat) : Nat → Nat
  | 0 => 1
  | k + 1 => let r := powMod m x (e / 2) k; if e % 2 = 1 then r * r % m * x % m else r * r % m

/-- The affine point of an uncompressed 97-byte key, none where it is not on the curve; its coordinates are little-endian, as every value of an
image section (R14; log 85). -/
def keyPoint (key : List Byte) : Option (Nat × Nat) :=
  let x := leNat ((key.drop 1).take 48)
  let y := leNat ((key.drop 49).take 48)
  if key.length = 97 && (key.head?.map (·.toNat)) = some 4 && x < p384 && y < p384 &&
    y * y % p384 = (fsub (x * x % p384 * x % p384) (3 * x % p384) + b384) % p384 then some (x, y) else none

/-- Whether r and s, 48 bytes each and little-endian (R14; log 85), sign a 48-byte digest under a key. -/
def verifySig (key digest sig : List Byte) : Bool :=
  match keyPoint key with
  | none => false
  | some q =>
    let r := leNat (sig.take 48)
    let s := leNat ((sig.drop 48).take 48)
    if sig.length = 96 && 0 < r && r < n384 && 0 < s && s < n384 then
      let w := powMod n384 s (n384 - 2) 384
      let a : Jac := ⟨g384.1, g384.2, 1⟩
      let b : Jac := ⟨q.1, q.2, 1⟩
      let j := jacCombine (beNat digest * w % n384) (r * w % n384) a b (jacAdd a b) 384
      let zz := j.z * j.z % p384
      j.z ≠ 0 && (r * zz % p384 = j.x || (r + n384 < p384 && (r + n384) * zz % p384 = j.x))
    else false

end Sys2Proof.Machine
end

