-- ==== Sys2Proof/Machine/Migrate.lean ====
section
/-! DEFINITION. Migration between the tiers (R491 to R501): MIGRATE, PIN and the switch of a move unit. -/

namespace Sys2Proof.Machine

/-- Change the capacity tier's state. -/
def updTier (s : State) (f : TierUnits → TierUnits) : State := { s with units := { s.units with tier := f s.units.tier } }

/-- Reserve a frame for each unit that a command moves into a tier, in ascending address order: its own initial frame, or the lowest free
frame of the pool (R495). -/
def reserveMoves (h : Word) (tier : Nat) : List Nat → List Nat → List (Nat × Nat × Word)
  | [], _ => []
  | u :: us, frames =>
    if frameTier (u * 65536) = tier then (u, u * 65536, h) :: reserveMoves h tier us frames
    else match frames with
      | f :: fs => (u, f, h) :: reserveMoves h tier us fs
      | [] => reserveMoves h tier us []

/-- Move every unit of a range that does not lie in a tier. -/
def startMoves (s : State) (o : Op) (a n tier : Nat) (pin : Bool) : Outcome :=
  let us := unitsToMove s a n tier
  if (unitsNeedFrame s a n tier).length ≤ (freeFrames s tier).length then
    let s := updTier s fun t => { t with
      moves := t.moves ++ reserveMoves o.handle tier us (freeFrames s tier)
      pins := if pin then (blocksOf 65536 a n).foldl (fun l u => insertNat u l) t.pins else t.pins }
    let r := { resOk with res1 := if pin then BitVec.ofNat 64 us.length else 0 }
    if us.isEmpty then .done s r else .go (updOp s o.handle fun x => { x with status := stOk, res1 := r.res1 })
  else .done s (resSt stLimit)

/-- MIGRATE: with TIER 1 a range that holds a pinned unit moves nothing (R496). -/
def tryMigrate (s : State) (o : Op) : Outcome :=
  joinGroup s o <|
  if dEmpty o.desc then .done s { status := stOk, empty := true }
  else match localAddr s.cfg.live (dSrc o.desc) with
    | none => .wait
    | some a =>
      let n := dCount o.desc
      if dField o.desc 48 1 = 1 && (blocksOf 65536 a n).any s.units.tier.pins.contains then .done s (resSt stBusy)
      else startMoves s o a n (dField o.desc 48 1) false

/-- MIGRATE (R495). -/
def execMigrate (handle : Word) (s : State) : Host.Outcome State Fault Refusal := .next (runCommand opMigrate tryMigrate handle s)

/-- Make a line protected at its home, fetched whole where it is not held; a set with no room leaves it as NORMAL would (R435, R497). -/
def protectLine (acc : State × Nat) (line : Nat) : State × Nat :=
  let s := acc.1
  let die := homeDie s (line * 128)
  let k := keepsLine s die line 2
  let l := (findLine k.1 die line false).getD (lineBlank die line)
  let fill := fun (x : SectorState) => if x = .invalid then SectorState.clean else x
  if k.2 then (putLine k.1 { l with s0 := fill l.s0, s1 := fill l.s1, prot := true }, acc.2)
  else (putLine k.1 { l with s0 := fill l.s0, s1 := fill l.s1 }, acc.2 + 1)

/-- End the protection of every line of a range (R497). -/
def unprotect (s : State) (a n : Nat) : State :=
  setCache s (s.units.cache.map fun l => if meets (l.line * 128) 128 a n then { l with prot := false } else l)

/-- PIN. -/
def tryPin (s : State) (o : Op) : Outcome :=
  let n := dCount o.desc
  joinGroup s o <|
  if dEmpty o.desc then .done s { status := stOk, empty := true }
  else match localAddr s.cfg.live (dDst o.desc) with
    | none => .wait
    | some a =>
      match dField o.desc 48 1 with
      | 0 => .done (unprotect (updTier s fun t => { t with pins := t.pins.filter fun u => !(blocksOf 65536 a n).contains u }) a n) resOk
      | 1 => startMoves s o a n 0 true
      | _ =>
        if accessHeld s a n then .wait
        else
          let r := (blocksOf 128 a n).foldl protectLine (reach s [(a, n)], 0)
          .done r.1 { resOk with res0 := BitVec.ofNat 32 (satTo 0xFFFFFFFF r.2) }

/-- PIN (R497). -/
def execPin (handle : Word) (s : State) : Host.Outcome State Fault Refusal := .next (runData opPin tryPin handle s)

/-- A unit lies in another frame from now on, its move over. -/
def moved (s : State) (mv : Nat × Nat × Word) : State :=
  updTier s fun t => { t with
    placed := if mv.2.1 = mv.1 * 65536 then nmErase t.placed mv.1 else nmSet t.placed mv.1 mv.2.1
    moves := t.moves.filter fun x => x ≠ mv }

/-- Whether a copy waits: a line of the unit is Locked or Busy, or a channel of either frame does not serve it (R499). -/
def copyWaits (s : State) (mv : Nat × Nat × Word) : Bool :=
  let a := mv.1 * 65536
  refetchHeld s a 65536 || accessHeld s a 65536 || accessHeld (moved s mv) a 65536 || ((blocksOf 128 a 65536).any fun l => (lockOf s l).isSome)

/-- A home line of a unit. -/
def unitLine (u : Nat) (l : CacheLine) : Bool := l.visitor.isNone && l.line / 512 = u

/-- Old homes drop their lines of a unit, written back before; visitor copies stay (R498). -/
def dropHomeLines (s : State) (u : Nat) : State :=
  let s := flushLines s (unitLine u)
  setCache s (s.units.cache.filter fun l => !unitLine u l)

/-- Poisoned granules of a unit that has come to the fast tier are marked in its array, and no bridge lists them (R551). -/
def markUnit (s : State) (a : Nat) : State :=
  let l := s.mem.poison.filter fun g => inRange (64 * g) a 65536
  if l.isEmpty then s else l.foldl markArray (setUnlisted s (s.units.tier.unlisted.filter fun g => !l.contains g))

/-- The switch of a unit: the copy reads the old frame and leaves code words in the new one (R548, R425), the placement and the home of the
unit's lines change, and the engine counts it. -/
def switchUnit (s : State) (mv : Nat × Nat × Word) : State :=
  let off := dieBase (4 + moveEngine s mv) + 0x204
  let w := regGet s off 0
  let s := regSet s off (BitVec.ofNat 32 (satTo 0xFFFFFF (w.toNat / 256 + 1) * 256 + w.toNat % 256))
  let a := mv.1 * 65536
  let s := releaseHold (moved (dropHomeLines (reach s [(a, 65536)]) mv.1) mv) a 65536
  let s := { s with mem := { s.mem with flips := mendSectors s a 65536 } }
  if frameTier mv.2.1 = 0 then markUnit s a else s

/-- UNIT_SWITCH: the copy of a unit under way completes, and a command whose last unit it was is Done. -/
def unitSwitch (u : Nat) (s : State) : State :=
  match (movesUnderWay s).find? fun m => m.1 = u with
  | none => s
  | some mv =>
    if copyWaits s mv then s
    else
      let s := switchUnit s mv
      let s := if s.units.tier.moves.any fun m => m.2.2 = mv.2.2 then s
        else match findOp s mv.2.2 with
          | some o => finishOp s o { resOk with res1 := o.res1 }
          | none => s
      settle (serveHeld s)

/-- UNIT_SWITCH (R498). -/
def execUnitSwitch (unit : BitVec 28) (s : State) : Host.Outcome State Fault Refusal := .next (unitSwitch unit.toNat s)

end Sys2Proof.Machine
end

