-- ==== Sys2Proof/Machine/Dropout.lean ====
section
/-! DEFINITION. Dropping out of the system, learning that another package has, the fallback case, and the replay or the end of steps
(R195, R196, R293, R296, R378 to R385). -/

namespace Sys2Proof.Machine

/-- Change the dropout state. -/
def updDrop (s : State) (f : DropState → DropState) : State := { s with hz := { s.hz with drop := f s.hz.drop } }

/-! ### Keep outputs -/

/-- Keep output `n` is high (R375). -/
def keepHigh (s : State) (n : Nat) : Bool :=
  (s.cfg.live.system.ringDim[n]?.getD none).isSome && (regGet s 0x1010 0).getLsbD n && !s.hz.drop.wdog && !s.hz.drop.keepLow &&
  (!s.hz.drop.dropped || s.hz.drop.keepDelay) && n < 9

/-- A Hazel port transmits only while the keep output of its ring pair is high (R718): the others are in electrical idle. -/
def idlePorts (s : State) : State :=
  ((List.range 18).filter fun p => (portOf s p).up && !keepHigh s (p / 2)).foldl (fun s p => updPort s p fun x => { x with up := false }) s

/-! ### Ends of runs that do not complete -/

/-- The shards of a run leave their step: their sweeps end, tiles logged ahead are restored, and they are CLEAN. -/
def cleanShards (s : State) (g : StepPlan) : State :=
  let s := { s with step := { s.step with sweeps := s.step.sweeps.filter fun w => !g.shards.contains w.shard } }
  g.shards.foldl shardClean s

/-- Trees of a run, and between-pass trees of its shards. -/
def dropTrees (s : State) (h : Word) (g : StepPlan) : State :=
  { s with step := { s.step with trees := s.step.trees.filter fun t =>
      match t.use with
      | .step x => x ≠ h
      | .between n => !g.shards.contains n
      | .norm _ => true
      | .recovery => true } }

/-- ACCUMs of a step that are not Done end with ST_DROPPED (R296). -/
def dropAccums (s : State) (g : StepPlan) : State :=
  let tiles := stepTiles s.cfg.live g
  let mine := fun (o : Op) => dOpcode o.desc = opAccum && opLive o &&
    (match localAddr s.cfg.live (dDst o.desc) with
     | some a => tiles.any fun x => inRange a x.1 x.2
     | none => false)
  (s.fe.ops.filter mine).foldl (fun s o => stopOp s o stDropped) s

/-- Abandon a run: shards CLEAN, PLAN_RUN ends with a status (Table 6 of *Speculative update and the commit sweep*, R196, R632). -/
def abandonRun (s : State) (r : StepRun) (st : Status) : State :=
  match runPlan s r with
  | none => endRun s r st 3
  | some g => endRun (if r.flipped then s else dropTrees (cleanShards s g) r.handle g) r st (if st = stOk then runOutcome r else 3)

/-- Tiles of the gather window that are present here go on their way again. -/
def resendSlots (s : State) (r : StepRun) (g : StepPlan) : State :=
  r.slotGot.foldl (fun s e => match g.slots[e.1]? with
    | none => s
    | some q => match slotPlan s q with | some cp => slotSend s r q cp e.2 | none => s) s

/-- Replay a step on this package (R296). -/
def replayRun (s : State) (r : StepRun) : State :=
  match runPlan s r with
  | none => s
  | some g =>
    let s := dropAccums (dropTrees (cleanShards s g) r.handle g) g
    let s := zeroTiles s (stepTiles s.cfg.live g)
    let r' := { r with replays := r.replays + 1, entered := false, verdict := none, held := [], narrow := [], redos := [], closed := [] }
    let s := updRun s r.handle fun _ => r'
    let s := updOp s r.handle fun o => { o with replayed := true, event := true }
    let s := raiseEventOpen s r.tenant.toNat evStepReplay r.handle
    let s := (g.shards.filter fun n => (shardDyn s n).halted).foldl holdShard s
    let s := setMark s r'
    resendSlots s r' g

/-! ### Fallback -/

/-- The FALLBACK case that names a package. -/
def fallbackCase (p : Plane) (y : BitVec 13) : Option FallbackCase := p.fallback.find? fun c => c.pkg = y

/-- A plane with the plans of a case in place of its own (R195, R384). -/
def fallbackPlane (p : Plane) (c : FallbackCase) : Plane :=
  { p with cplans := c.plans.foldl (fun m e => nmSet m e.1 e.2) p.cplans }

/-- A FALLBACK case becomes live at once. -/
def makeFallback (s : State) (c : FallbackCase) : State :=
  updDrop { s with cfg := { s.cfg with live := fallbackPlane s.cfg.live c, base := some s.cfg.live } } fun d => { d with cas := some c.pkg }

/-- The recovery round ends on this package, its tree with it. -/
def endRound (s : State) : State :=
  let round := fun (t : TreeRun) => match t.use with
    | .recovery => true
    | .step _ => false
    | .norm _ => false
    | .between _ => false
  updDrop { s with step := { s.step with trees := s.step.trees.filter fun t => !round t } } fun d => { d with pending := none, bad := false, late := [] }

/-- A further dropout: commits halt, and every PLAN_RUN ends with ST_DROPPED (R196, R382). -/
def furtherDropout (s : State) : State :=
  let s := updDrop (endRound s) fun d => { d with halt := true }
  let s := raiseAllOpen s evBypass
  s.step.runs.foldl (fun s r => abandonRun s r stDropped) s

/-- Under a new plan the narrow tiles present here go on their way again: members that it brings together may lack them (DEDUCED,
log 140). -/
def resendNarrow (s : State) (h : Word) : State :=
  match runBy s h with
  | none => s
  | some r =>
    match runPlan s r with
    | none => s
    | some g => r.narrow.foldl (fun s e =>
        match g.layers[e.1]? with
        | none => s
        | some l => match gatherPlanOf s l with
          | some x => narrowSend s r l x e.2
          | none => s) (resendSlots s r g)

/-- What a run does once the FALLBACK case is live: it completes its decided outcome, or replays its step (R382). -/
def resumeRun (vs : List (BitVec 4 × Verdict)) (s : State) (r : StepRun) : State :=
  if !r.started then s
  else if r.verdict.isSome then resendNarrow s r.handle
  else match vs.find? fun v => v.1 = r.tenant && v.2.stepNo = r.stepNo with
    | some v => resendNarrow (deliverVerdict s r.handle v.2) r.handle
    | none => replayRun s r

/-- The result of the recovery round (R382): the case becomes live and each tenant's step completes its decided outcome or is replayed;
a set flag acts as a further dropout, and so does a dropout learned since the round's record was sent up. -/
def roundResult (s : State) (flag : Bool) (vs : List (BitVec 4 × Verdict)) : State :=
  match s.hz.drop.pending with
  | none => s
  | some y =>
    if flag then furtherDropout s
    else match fallbackCase s.cfg.live y with
      | none => furtherDropout s
      | some c =>
        let s := raiseAllOpen (endRound (makeFallback s c)) evBypass
        let s := s.step.runs.foldl (resumeRun vs) s
        if s.hz.drop.learned.any fun z => z ≠ y then furtherDropout s else s

/-! ### DROP notices -/

/-- Send a DROP notice on every port in service but one (R379, R380, R383). -/
def sendDrop (s : State) (pkg : BitVec 13) (cut : Bool) (but : Option Nat) : State :=
  ((portsUp s).filter fun p => some p ≠ but).foldl (fun s p =>
    sendOn s p { frameBlank s 0x0C (portOf s p).peer with
      vc := 1, flags := if cut then 8 else 0, aux := BitVec.ofNat 32 pkg.toNat }) s

/-- Frames of plans: ACC, SET, NARROW, TRIPLE and VERDICT. -/
def planFrame (f : Frame) : Bool := [0x02, 0x03, 0x04, 0x08, 0x09].contains f.type.toNat

/-- Take frames that wait at the ports away. -/
def dropQueued (s : State) (gone : Frame → Bool) : State :=
  { s with hz := { s.hz with ports := s.hz.ports.map fun e => (e.1, { e.2 with sendq := e.2.sendq.filter fun f => !gone f }) } }

/-- This package drops out (R378): it sends no plan frame from here on (R379), and its keep outputs fall at once, or 100 µs after
DROP(self). -/
def dropOut (s : State) (delay : Bool) : State := idlePorts (dropQueued (updDrop s fun d => { d with dropped := true, keepDelay := delay }) planFrame)

/-- DROP(self) and the dropout that follows it (R379). -/
def dropSelf (s : State) : State :=
  if s.hz.drop.dropped then s else dropOut (sendDrop s s.cfg.live.package false none) true

/-- Close the counts of a package that has dropped out (R353). -/
def closeFrom (s : State) (pkg : BitVec 13) : State := (s.hz.counts.filter fun c => c.src = pkg).foldl closeCount s

/-- A bypass abandons the comparisons that it interrupts, with the repairs that they had decided (R574). -/
def abandonCompares (s : State) : State :=
  let g := s.units.integ
  { s with
    step := { s.step with compares := [] }
    units := { s.units with integ := { g with
      repairs := g.repairs.filter fun r => !g.sources.any fun x => x.1 = r.1 && x.2.1 = r.2
      sources := []
      halts := [] } } }

/-- No frame for a package that has dropped out leaves the ports any more (R380). -/
def forgetFrames (s : State) (y : BitVec 13) : State :=
  let s := dropQueued s fun f => f.dst = y
  { s with hz := { s.hz with ports := s.hz.ports.map fun e => (e.1, { e.2 with unacked := e.2.unacked.filter fun f => f.dst ≠ y }) } }

/-- This package learns that `y` has dropped out (R380, R385). The record that it will send up bears the flag if it has learned of another
(R381). -/
def learnDrop (s : State) (y : BitVec 13) (cut : Bool) (from_ : Option Nat) : State :=
  if y = s.cfg.live.package then (if s.hz.drop.dropped then s else dropOut s false)
  else if s.hz.drop.learned.contains y then s
  else
    let other := !s.hz.drop.learned.isEmpty
    let s := updDrop s fun d => { d with
      learned := d.learned ++ [y], drops := BitVec.ofNat 16 (satTo 0xFFFF (d.drops.toNat + 1)), cut := d.cut || cut }
    let s := forgetFrames (closeFrom (sendDrop s y cut from_) y) y
    if s.hz.drop.cas.isSome || s.hz.drop.halt || (fallbackCase s.cfg.live y).isNone then furtherDropout s
    else if s.hz.drop.pending.isSome then updDrop s fun d => { d with bad := true }
    else updDrop (abandonCompares s) fun d => { d with pending := some y, bad := other, late := [] }

/-- KEEP_DROP_DELAY: the keep outputs fall 100 µs after DROP(self) (R379). -/
def execKeepDropDelay (s : State) : Host.Outcome State Fault Refusal := .next (idlePorts (updDrop s fun d => { d with keepDelay := false }))

/-- KEEP_WATCHDOG_EXPIRY: keep outputs low, and the package has dropped out (R376). -/
def execKeepWatchdogExpiry (s : State) : Host.Outcome State Fault Refusal :=
  .next (if s.units.power.state = 2 then s
    else dropOut (updDrop s fun d => { d with wdog := true }) false)

/-- RECOVERY_ROUND_TIMEOUT: no down record in time acts as a further dropout (R382). -/
def execRecoveryRoundTimeout (s : State) : Host.Outcome State Fault Refusal :=
  .next (if s.hz.drop.pending.isSome then settle (furtherDropout s) else s)

/-- Ports of a dimension that face one side. -/
def sidePorts (p : Plane) (d : Nat) (plus : Bool) : List Nat := (ringSet p d).map fun n => portFor n plus

/-- The neighbour of this package on a side of a dimension. -/
def neighbour (p : Plane) (d : Nat) (plus : Bool) : BitVec 13 :=
  let n := dimSize p d
  let me := p.package.toNat
  let c := coordOf p me d
  let w := (List.range d).foldl (fun acc e => acc * dimSize p e) 1
  let c' := if plus then (c + 1) % n else (c + n - 1) % n
  BitVec.ofNat 13 (me - c * w + c' * w)

/-- Step along a ring past packages that have dropped out. -/
def pastDropped (p : Plane) (gone : List (BitVec 13)) (d : Nat) (plus : Bool) : Nat → BitVec 13 → BitVec 13
  | 0, y => y
  | f + 1, y => if gone.contains y then pastDropped p gone d plus f (neighbour { p with package := y } d plus) else y

/-- The partner on a side of a dimension, past packages that have dropped out (R377, R719). -/
def partnerOf (s : State) (d : Nat) (plus : Bool) : BitVec 13 :=
  pastDropped s.cfg.live s.hz.drop.learned d plus (dimSize s.cfg.live d) (neighbour s.cfg.live d plus)

/-- The ports of a ring set that lead to a side's partner: of a ring of two both sides do (R356). -/
def partnerPorts (s : State) (d : Nat) (plus : Bool) : List Nat :=
  sidePorts s.cfg.live d plus ++
  (if partnerOf s d (!plus) = partnerOf s d plus then sidePorts s.cfg.live d (!plus) else [])

/-- Every link of a ring set to a neighbour is lost: the neighbour is declared dropped (R380). Where links failed rather than lost their
signal the ring is cut (R357), and the notice carries CUT (R383); of lost signals alone no package can tell, and a free bit says (log 65). -/
def linksLost (d : Nat) (plus : Bool) (s : State) : State :=
  let ports := partnerPorts s d plus
  let y := partnerOf s d plus
  let lost := fun (p : Nat) => (portOf s p).los || (portOf s p).out
  if ports.isEmpty || y = s.cfg.live.package || !ports.all lost then s
  else
    let failed := ports.any fun p => (portOf s p).out && !(portOf s p).los
    if failed then learnDrop s y true none
    else let (s, b) := takeBit s; learnDrop s y b none

/-- LOSS_OF_SIGNAL: every link of a side of one ring set has lost its signal (R380). -/
def lossOfSignal (d : Nat) (plus : Bool) (s : State) : State :=
  settle (linksLost d plus ((sidePorts s.cfg.live d plus).foldl (fun s p => updPort s p fun x => { x with los := true, up := false }) s))

end Sys2Proof.Machine
end

