-- ==== Sys2Proof/Machine/Trees.lean ====
section
/-! DEFINITION. Trees of KIND 3 and KIND 4 plans: values on their way up, the result on its way down, and what a result does on this
package (R369 to R372, R381, R382; *Hazel fabric and memory-side collectives*; log 61). -/

namespace Sys2Proof.Machine

/-! ### Payloads (log 61) -/

/-- A norm triple in 12 bytes. -/
def tripleBytes (t : Triple) : List Byte := leBytes 4 t.sumsq.toNat ++ leBytes 4 t.maxm.toNat ++ [if t.nf then 1 else 0, 0, 0, 0]

/-- A field of a payload. -/
def payAt (b : List Byte) (o n : Nat) : Nat := leNat ((b.drop o).take n)

/-- Read a norm triple. -/
def tripleIn (b : List Byte) : Triple := ⟨BitVec.ofNat 32 (payAt b 0 4), BitVec.ofNat 32 (payAt b 4 4), payAt b 8 1 % 2 = 1⟩

/-- A verdict record in 28 bytes. -/
def verdictBytes (v : Verdict) : List Byte :=
  leBytes 8 v.stepNo.toNat ++ leBytes 4 v.clip.toNat ++ leBytes 4 v.norm.toNat ++ leBytes 4 v.sumsq.toNat ++ leBytes 4 v.maxg.toNat ++
  [BitVec.ofNat 8 v.outcome, if v.nf then 1 else 0, v.hint, 0]

/-- Read a verdict record. -/
def verdictIn (b : List Byte) : Verdict :=
  { stepNo := BitVec.ofNat 64 (payAt b 0 8), clip := BitVec.ofNat 32 (payAt b 8 4), norm := BitVec.ofNat 32 (payAt b 12 4)
    sumsq := BitVec.ofNat 32 (payAt b 16 4), maxg := BitVec.ofNat 32 (payAt b 20 4), outcome := payAt b 24 1, nf := payAt b 25 1 % 2 = 1
    hint := BitVec.ofNat 8 (payAt b 26 1) }

/-- FP32 words of a payload. -/
def wordsIn (b : List Byte) : List Word := (chunks 4 b).map fun x => BitVec.ofNat 32 (leNat x)

/-- The record of the recovery round (R381). -/
def roundBytes (v : TreeVal) : List Byte :=
  [if v.flag then 1 else 0, 0, 0, 0] ++ v.verdicts.flatMap fun x => [x.1.setWidth 8, 0, 0, 0] ++ verdictBytes x.2

/-- Read a record of the recovery round. -/
def roundIn (b : List Byte) : Bool × List (BitVec 4 × Verdict) :=
  (payAt b 0 1 % 2 = 1, (chunks 32 (b.drop 4)).map fun x => (BitVec.ofNat 4 (payAt x 0 1), verdictIn (x.drop 4)))

/-! ### A tree on this package -/

/-- A value of nothing. -/
def treeZero : TreeVal := ⟨tripleZero, [], false, []⟩

/-- The plan of a tree; the recovery round runs on a tree of its FALLBACK case. -/
def treePlan (s : State) (t : TreeRun) : Option CPlan :=
  match t.use with
  | .recovery => (s.hz.drop.pending.bind fun y => fallbackCase s.cfg.live y).bind fun c =>
      match nmGet? c.plans t.plan with | some cp => some cp | none => nmGet? s.cfg.live.cplans t.plan
  | .step _ => nmGet? s.cfg.live.cplans t.plan
  | .norm _ => nmGet? s.cfg.live.cplans t.plan
  | .between _ => nmGet? s.cfg.live.cplans t.plan

/-- The UP phases that this package takes part in: those in which it is the root, and the one after them. -/
def upPhases (cp : CPlan) : List CPhase :=
  let l := cp.phases.filter fun p => p.op = 4
  l.takeWhile (fun p => p.pos = 0) ++ (l.dropWhile fun p => p.pos = 0).take 1

/-- Position ⌊n/2⌋, the far end of the − chain (R369). -/
def treeHalf (p : CPhase) : Nat := p.span / 2

/-- Whether a value comes up the − chain to this position. -/
def fromMinus (p : CPhase) : Bool :=
  if p.pos = 0 then decide (1 ≤ treeHalf p) else decide (p.pos < treeHalf p)

/-- Whether a value comes up the + chain to this position. -/
def fromPlus (p : CPhase) : Bool :=
  if p.pos = 0 then decide (treeHalf p + 1 < p.span) else decide (treeHalf p + 1 < p.pos)

/-- Combine, own value first (R369, R381). -/
def treeAdd (a b : TreeVal) : TreeVal :=
  ⟨tripleAdd a.triple b.triple, vecAdd a.vector b.vector, a.flag || b.flag,
    a.verdicts ++ b.verdicts.filter fun v => !(a.verdicts.any fun w => w.1 = v.1)⟩

/-- Same use of a tree. -/
def treeBy (s : State) (u : TreeUse) : Option TreeRun := s.step.trees.find? fun t => t.use = u

/-- Change a tree. -/
def updTree (s : State) (u : TreeUse) (f : TreeRun → TreeRun) : State :=
  { s with step := { s.step with trees := s.step.trees.map fun t => if t.use = u then f t else t } }

/-- Take a tree away. -/
def endTree (s : State) (u : TreeUse) : State := { s with step := { s.step with trees := s.step.trees.filter fun t => t.use ≠ u } }

/-- The header of a tree's frames. -/
def treeFrame (s : State) (t : TreeRun) (type : Nat) : Frame :=
  { frameBlank s type 0 with
    flags := match t.use with | .norm _ => 0x10 | .step _ => 0 | .between _ => 0 | .recovery => 0
    plan := BitVec.ofNat 32 t.plan, step := t.seq, attempt := BitVec.ofNat 8 t.attempt, tenant := t.tenant, aux := 1 }

/-- The frames of a value: its record, or its vector in pieces. -/
def treeFrames (s : State) (t : TreeRun) (type : Nat) (record : List Byte) (v : TreeVal) : List Frame :=
  match t.use with
  | .between _ =>
    (framePieces 16384 (v.vector.flatMap fun w => leBytes 4 w.toNat)).map fun x => { treeFrame s t type with
      addr := BitVec.ofNat 44 x.1, payload := x.2, aux := BitVec.ofNat 32 v.vector.length }
  | .step _ => [{ treeFrame s t type with payload := record }]
  | .norm _ => [{ treeFrame s t type with payload := record }]
  | .recovery => [{ treeFrame s t 0x0D with payload := roundBytes v }]

/-- Send frames to a member of a phase. -/
def sendTree (p : CPhase) (plus : Bool) (fs : List Frame) (s : State) : State := fs.foldl (fun s f => sendPhase s p plus 0 1 f) s

/-- Send a result on down: in each phase from the last to the first, along the chains that lead away from this position. -/
def sendDown (s : State) (cp : CPlan) (fs : List Frame) : State :=
  (upPhases cp).reverse.foldl (fun s u =>
    let p := (cp.phases.find? fun q => q.op = 5 && q.dim = u.dim).getD u
    let s := if fromMinus p then sendTree p true fs s else s
    if fromPlus p then sendTree p false fs s else s) s

/-! ### Results -/

/-- End a NORM with its triple (Table 16 of *Host port, commands and handles*); the sum of squares is the value it writes (R333). -/
def normRes (t : Triple) (st : Status) (c : Counts) : Res :=
  { status := st, res0 := if t.nf then 1 else 0, res1 := BitVec.ofNat 64 (t.sumsq.toNat + t.maxm.toNat * 2 ^ 32)
    counts := countsAdd c (writtenCounts t.sumsq) }

/-- A collective command is Done. -/
def endColl (s : State) (h : Word) : State := { s with step := { s.step with colls := s.step.colls.filter fun c => c.handle ≠ h } }

/-- The verdict record that the root of a step's tree computes (R258, R260, R371). -/
def rootVerdict (s : State) (h : Word) (t : Triple) : Option Verdict :=
  match runBy s h with
  | none => none
  | some r => (runPlan s r).map fun g => verdictOf g (nmGet 0 s.step.noSkip r.plan) r.stepNo t

/-- Signal the GROUP of a plan that is complete here (Table 5). -/
def planComplete (s : State) (cp : CPlan) : State := syncAdd s cp.group.toNat 1

/-- What the result of a tree does on this package. -/
def treeDone (s : State) (t : TreeRun) (cp : CPlan) (v : TreeVal) (verdict : Option Verdict) : State :=
  match t.use with
  | .recovery => roundResult (endTree s t.use) v.flag v.verdicts
  | .step h =>
    let s := planComplete (endTree s t.use) cp
    match verdict with | some x => deliverVerdict s h x | none => s
  | .between n => deliverBetween (planComplete (endTree s t.use) cp) n v.vector
  | .norm h =>
    let s := endColl (planComplete (endTree s t.use) cp) h
    match findOp s h with | some o => finishOp s o { normRes v.triple o.status o.counts with empty := o.empty } | none => s

/-- The root of a plan's last UP phase forms the result, sends it down, and takes it (R371, R372). -/
def rootResult (s : State) (t : TreeRun) (cp : CPlan) : State :=
  let verdict := match t.use with
    | .step h => rootVerdict s h t.value.triple
    | .norm _ => none
    | .between _ => none
    | .recovery => none
  let record := match verdict with | some x => verdictBytes x | none => tripleBytes t.value.triple
  treeDone (sendDown s cp (treeFrames s t 0x09 record t.value)) t cp t.value verdict

/-! ### On the way up -/

/-- A value of a tree is whole: a KIND 4 vector has every element. -/
def wholeVal (cp : CPlan) (v : TreeVal) : Bool := cp.kind ≠ 4 || cp.tiles ≤ v.vector.length

/-- The value that has come up a chain in a phase, where the chain has members; none while it is not whole. -/
def chainVal (cp : CPlan) (wanted : Bool) (m : NMap TreeVal) (x : Nat) : Option (Option TreeVal) :=
  if wanted then
    match nmGet? m x with
    | some v => if wholeVal cp v then some (some v) else none
    | none => none
  else some none

/-- Combine with what a chain brought. -/
def withChain (v : TreeVal) (c : Option TreeVal) : TreeVal := match c with | some x => treeAdd v x | none => v

/-- What combining with a chain's value flushes. -/
def chainFlush (v : TreeVal) (c : Option TreeVal) : Nat :=
  match c with | some x => (fAdd v.triple.sumsq x.triple.sumsq).fl + vecFlush v.vector x.vector | none => 0

/-- What a tree flushes counts for the run, the NORM or the sweep that it serves (R333). -/
def countTree (s : State) (u : TreeUse) (n : Nat) : State :=
  if n = 0 then s
  else match u with
    | .step h => addOpCounts s h ⟨0, n, 0, 0⟩
    | .norm h => addOpCounts s h ⟨0, n, 0, 0⟩
    | .between k => (match sweepOf s k, nmGet? s.cfg.live.shards k with
      | some w, some c => addSweepCounts s w c ⟨0, n, 0, 0⟩
      | _, _ => s)
    | .recovery => s

/-- Let a tree go as far as the values here allow. -/
def advanceTree : Nat → TreeUse → State → State
  | 0, _, s => s
  | f + 1, u, s =>
    match treeBy s u with
    | none => s
    | some t =>
      match treePlan s t with
      | none => s
      | some cp =>
        if t.up then s
        else match (upPhases cp)[t.phase]? with
          | none => rootResult s t cp
          | some p =>
            match chainVal cp (fromMinus p) t.minus t.phase, chainVal cp (fromPlus p) t.plus t.phase with
            | some a, some b =>
              let v := withChain (withChain t.value a) b
              let s := countTree s u (chainFlush t.value a + chainFlush (withChain t.value a) b)
              if p.pos = 0 then advanceTree f u (updTree s u fun t => { t with value := v, phase := t.phase + 1 })
              else
                let s := sendTree p (decide (treeHalf p < p.pos)) (treeFrames s t 0x08 (tripleBytes v.triple) v) s
                updTree s u fun t => { t with value := v, up := true }
            | _, _ => s

/-- This package's own value enters a tree. -/
def startTree (s : State) (u : TreeUse) (tenant : BitVec 4) (plan : Nat) (seq : Word) (attempt : Nat) (v : TreeVal) : State :=
  let t : TreeRun := ⟨u, tenant, plan, seq, attempt, 0, v, [], [], false, []⟩
  advanceTree 18 u { s with step := { s.step with trees := s.step.trees ++ [t] } }

/-! ### Arriving frames -/

/-- The phase and chain of a frame that comes up: its sender is the member before this one on a chain (R369). -/
def upSide (cp : CPlan) (src : BitVec 13) : Option (Nat × Bool) :=
  (List.zipIdx (upPhases cp)).findSome? fun x =>
    if fromMinus x.1 && x.1.plus = src then some (x.2, false)
    else if fromPlus x.1 && x.1.minus = src then some (x.2, true) else none

/-- Put a piece of a vector at its offset. -/
def putPiece (v : List Word) (off : Nat) (p : List Word) : List Word := padTo off 0 (v.take off) ++ p ++ v.drop (off + p.length)

/-- The value of an arriving frame, over what has come of it before. -/
def frameVal (f : Frame) (old : TreeVal) : TreeVal :=
  if f.type = 0x0D then let r := roundIn f.payload; ⟨tripleZero, [], r.1, r.2⟩
  else ⟨tripleIn f.payload, putPiece old.vector (f.addr.toNat / 4) (wordsIn f.payload), false, []⟩

/-- A frame comes up a chain of a tree. -/
def treeUp (s : State) (t : TreeRun) (cp : CPlan) (f : Frame) : State :=
  match upSide cp f.src with
  | none => s
  | some (x, plus) =>
    let s := updTree s t.use fun t =>
      if plus then { t with plus := nmSet t.plus x (frameVal f (nmGet treeZero t.plus x)) }
      else { t with minus := nmSet t.minus x (frameVal f (nmGet treeZero t.minus x)) }
    advanceTree 18 t.use s

/-- A frame comes down a tree: it is sent on, and its result taken once whole. -/
def treeDown (s : State) (t : TreeRun) (cp : CPlan) (f : Frame) : State :=
  let s := sendDown s cp [{ f with src := s.cfg.live.package }]
  let down := putPiece t.down (f.addr.toNat / 4) (wordsIn f.payload)
  let r := roundIn f.payload
  match t.use with
  | .between _ =>
    if cp.tiles ≤ down.length then treeDone s t cp { treeZero with vector := down } none
    else updTree s t.use fun t => { t with down := down }
  | .step _ => treeDone s t cp treeZero (some (verdictIn f.payload))
  | .norm _ => treeDone s t cp { treeZero with triple := tripleIn f.payload } none
  | .recovery => treeDone s t cp ⟨tripleZero, [], r.1, r.2⟩ none

/-! ### The recovery round (R380, R381) -/

/-- Ports that faced a neighbour; they lead across its closed bypass once it has dropped out. -/
def portsFacing (p : Plane) (y : BitVec 13) : List Nat :=
  (List.range 3).flatMap fun d =>
    if dimSize p d ≤ 1 then [] else
    (if neighbour p d true = y then sidePorts p d true else []) ++ (if neighbour p d false = y then sidePorts p d false else [])

/-- What this package sends up in the recovery round: its flag, and the last decided verdict of each tenant (R291, R381). -/
def recoverVal (s : State) : TreeVal :=
  ⟨tripleZero, [], s.hz.drop.bad, s.step.verdicts.map fun v => (BitVec.ofNat 4 v.1, v.2)⟩

/-- Whether a link that a package expects across the closed bypass of `y` has trained, or has failed to in time (R380, R381). -/
def linkSettled (s : State) (p : Nat) : Bool := ((portOf s p).up && (portOf s p).across) || s.hz.drop.late.contains p

/-- Once its links across the closed bypasses have trained, or have failed to, the package takes part in the recovery round. -/
def joinRound (s : State) : State :=
  match s.hz.drop.pending with
  | none => s
  | some y =>
    if (treeBy s .recovery).isSome || s.hz.drop.dropped then s
    else if (portsFacing s.cfg.live y).all (linkSettled s) then
      match (fallbackCase s.cfg.live y).bind (·.tree) with
      | some x => startTree s .recovery 0 x 0 0 (recoverVal s)
      | none => s
    else s

end Sys2Proof.Machine
end

