-- ==== Sys2Proof/Machine/Steps.lean ====
section
/-! DEFINITION. The ends of sweeps, sweeps and commits by command, INIT_PARAMS, UE faults, the package triple and dispatch (R205, R214,
R227, R235, R236, R248, R251, R272, R273, R596 to R598, R774). -/

namespace Sys2Proof.Machine

/-! ### SWEEP_COMPLETE -/

/-- A between-pass tree of a tensor that is in progress. -/
def betweenRuns (s : State) (n : Nat) (c : ShardCfg) : Bool :=
  s.step.trees.any fun t => match t.use with
    | .between m => (tensorShards s.cfg.live n c).any fun e => e.1 = m
    | .step _ => false
    | .norm _ => false
    | .recovery => false

/-- ATTEMPT of a sweep's frames: that of its run, 0 for a command (log 61). -/
def sweepAttempt (s : State) (w : SweepRec) : Nat :=
  match w.by_ with
  | .run h => (runBy s h).elim 0 runAttempt
  | .command _ => 0
  | .repair => 0

/-- Once pass 0 is complete on every shard of the tensor here, its vector goes through CPLAN, or is the result where there is none
(R227, R228). -/
def startBetween (s : State) (n : Nat) (w : SweepRec) (c : ShardCfg) : State :=
  match tensorVector s n c with
  | none => s
  | some v =>
    match (programOf s.cfg.live c).cplan with
    | none => deliverBetween (addSweepCounts s w c ⟨0, v.2, 0, 0⟩) n v.1
    | some x => if betweenRuns s n c then s
      else startTree (addSweepCounts s w c ⟨0, v.2, 0, 0⟩) (.between n) c.tenant x (w.stepNo.setWidth 32) (sweepAttempt s w)
        { treeZero with vector := v.1 }

/-- The present pass of a sweep ends on every tile, or its second pass asks for its between-pass values. -/
def passOver (n : Nat) (w : SweepRec) (c : ShardCfg) (s : State) : State :=
  if twoPass (programOf s.cfg.live c) && !w.pass1 then startBetween (firstPass s w c) n w c
  else if twoPass (programOf s.cfg.live c) && w.between.isNone then startBetween s n w c
  else lastPass s w c

/-- SWEEP_COMPLETE: what the pass reads may hold the sweep, or stop it (R557, R558); where it does neither, the pass is over. -/
def sweepComplete (n : Nat) (s : State) : State :=
  match sweepOf s n, nmGet? s.cfg.live.shards n with
  | some w, some c =>
    if w.stop || sweepHeld s w c || (drivenByRun s n && guestHeld s n) then s
    else
      let s := reach s (sweepReads s w c (List.range (tileCount c)))
      match sweepOf s n with
      | some w => if w.stop || sweepHeld s w c then settle s else settle (serveHeld (passOver n w c s))
      | none => settle s
  | _, _ => s

/-- SWEEP_COMPLETE (R251). -/
def execSweepComplete (shard : BitVec 16) (s : State) : Host.Outcome State Fault Refusal := .next (sweepComplete shard.toNat s)

/-! ### SWEEP_SPEC, SWEEP_REDO, COMMIT and ABORT -/

/-- The shards that a sweep or commit command names. -/
def commandShards (s : State) (o : Op) : List (Nat × ShardCfg) := namedShards s.cfg.live o.tenant (dShard o.desc)

/-- Whether a command names every shard. -/
def namesAll (o : Op) : Bool := dShard o.desc = allShards

/-- Shards of a command in one of some states, with no run driving them. -/
def inStates (s : State) (o : Op) (l : List ShardState) : List (Nat × ShardCfg) :=
  (commandShards s o).filter fun e => !drivenByRun s e.1 && l.contains (shardDyn s e.1).st && (sweepOf s e.1).isNone

/-- A command starts one shard's sweep. -/
def commandSweep (o : Op) (redo : Bool) (s : State) (e : Nat × ShardCfg) : State :=
  if masterFresh s e.1 e.2 then updOp s o.handle fun x => { x with status := stUnwritten }
  else
    let s := if capMode e.2 && (shardDyn s e.1).st = .written then undoRestoreAll s e.2 false else s
    startSweep s ⟨e.1, redo, if redo then BitVec.ofNat 32 (dField o.desc 40 4) else fpOne, none, BitVec.ofNat 64 (dStepNo o.desc),
      .command o.handle, false, capMode e.2 && specMode e.2 && !redo, false, [], none, false, false⟩ (if redo then .redoing else .sweeping)

/-- A sweep command: the shards whose state allows it are swept; a single shard in another state gives ST_BUSY (R272, R774). -/
def sweepCommand (redo : Bool) (s : State) (o : Op) : Outcome :=
  let l := inStates s o (if redo then [.clean, .written] else [.clean])
  if l.isEmpty && !namesAll o then .done s (resSt stBusy)
  else
    let s := l.foldl (commandSweep o redo) s
    if s.step.sweeps.any fun w => w.by_ = .command o.handle then .go s
    else .done s (resSt (opStatus s o.handle))

/-- SWEEP_SPEC (R272). -/
def execSweepSpec (handle : Word) (s : State) : Host.Outcome State Fault Refusal := .next (runCommand opSweepSpec (sweepCommand false) handle s)

/-- SWEEP_REDO (R272). -/
def execSweepRedo (handle : Word) (s : State) : Host.Outcome State Fault Refusal := .next (runCommand opSweepRedo (sweepCommand true) handle s)

/-- STEP_NO of the inactive header: that of a capacity-mode shard waits in the directory. -/
def inactiveStep (s : State) (e : Nat × ShardCfg) : Nat :=
  if capMode e.2 then leNat (((shardDyn s e.1).header.drop 32).take 8) else headerStep s e.2 (inactiveSlot s e.1 e.2)

/-- COMMIT: every WRITTEN or READY shard flips, or none does (R272, R273); none flips while both Acorns are down (R299). -/
def tryCommit (s : State) (o : Op) : Outcome :=
    let l := inStates s o [.written, .ready]
    if l.isEmpty then
      if namesAll o || !(inStates s o [.clean]).isEmpty then .done s { status := stOk, empty := true } else .done s (resSt stBusy)
    else if l.any fun e => inactiveStep s e ≠ dStepNo o.desc then .done s (resSt stBadField)
    else if commitsStopped s then .wait
    else .done (serveHeld (l.foldl (fun s e => flipShard s e.1) s)) resOk

/-- COMMIT (R273). -/
def execCommit (handle : Word) (s : State) : Host.Outcome State Fault Refusal := .next (runCommand opCommit tryCommit handle s)

/-- ABORT: running sweeps are ordered to stop, other shards are CLEAN at once (R272); it is Done once each shard is CLEAN. -/
def tryAbort (s : State) (o : Op) : Outcome :=
  let l := (commandShards s o).filter fun e => !drivenByRun s e.1
  if l.isEmpty && !namesAll o then .done s (resSt stBusy)
  else
    let s := l.foldl (fun s e => abortShard s e.1) s
    if l.any fun e => (sweepOf s e.1).isSome then .go s else .done s resOk

/-- ABORT (R272). -/
def execAbort (handle : Word) (s : State) : Host.Outcome State Fault Refusal := .next (runCommand opAbort tryAbort handle s)

/-! ### INIT_PARAMS (R235, R236, R538) -/

/-- A drawn master; a STD of 0 writes MEAN exactly (R235). -/
def initValue (mean std d : Word) : Fl := if isZero32 std then ⟨mean, 0⟩ else fillValue 1 mean std d

/-- The drawn masters of a shard, with the flushes of drawing them. -/
def initValues (s : State) (o : Op) (c : ShardCfg) : List Fl :=
  let d := o.desc
  let p := fun b => (presentParam (BitVec.ofNat 32 (dField d b 4))).w
  (genDraws c.n (genAt (planeTenant s.cfg.live c.tenant.toNat).seed (shardStream c.group) (initDraw (rsOffset (dField d 24 8))))).map
    (initValue (p 48) (p 52))

/-- A header written by INIT_PARAMS; the fields that R235 does not name are free values (log 67). -/
def initHeader (s : State) (wmax coarse : Word) (nonfin : Bool) : State × Header :=
  let (s, a) := takeNat s
  let (s, b) := takeNat s
  let (s, c) := takeNat s
  let (s, d) := takeNat s
  (s, ⟨0, fpOne, fpOne, wmax, coarse, nonfin, a % 2 ^ 16, b % 2 ^ 64, BitVec.ofNat 32 c, BitVec.ofNat 32 d⟩)

/-- INIT_PARAMS on an integer shard: INT64 zeros. -/
def initInt (s : State) (n : Nat) (c : ShardCfg) : State :=
  let k := committedSlot s n c
  let s := (List.range (tileCount c)).foldl (fun s t => writeFields s c k t [(0, List.replicate (tileElems c t) 0)]) s
  let (s, h) := initHeader s 0 fpOne false
  dWrite s (headerAddr c k) (headerBytes h)

/-- INIT_PARAMS on a floating-point shard: its fields, header and narrow weight, with the counts. -/
def initFp (s : State) (n : Nat) (c : ShardCfg) (o : Op) : State × Counts :=
  let k := committedSlot s n c
  let vs := initValues s o c
  let ws := vs.map (·.w)
  let f := formatOf s.cfg.live c
  let wmax := wmaxOf ws
  let coarse := coarseFor f wmax
  let copy := activeCopy s c.gather
  let r := ((List.range (tileCount c)).zip (chunks 4096 ws)).foldl (fun (acc : State × Counts) x =>
    let els := x.2.map (·.toNat)
    let zs := els.map fun _ => 0
    let s := writeFields acc.1 c k x.1 [(0, els), (1, zs), (2, zs), (3, zs), (4, els)]
    let y := emitTile s c copy coarse x.1 0 els
    (y.1, countsAdd acc.2 y.2)) (s, countsAdd ((vs.map flCounts).foldl countsAdd countsZero)
      (if (fieldPlace c 4).isSome then (ws.map writtenCounts).foldl countsAdd countsZero else countsZero))
  let x := initHeader r.1 wmax coarse (ws.any nonFinite32)
  (narrowHeader (dWrite x.1 (headerAddr c k) (headerBytes x.2)) c copy coarse 0, r.2)

/-- INIT_PARAMS on one shard, with the digest slot of what it has written (R568). -/
def initShard (o : Op) (acc : State × Counts) (e : Nat × ShardCfg) : State × Counts :=
  let r := if e.2.intKind then (initInt acc.1 e.1 e.2, countsZero) else initFp acc.1 e.1 e.2 o
  let k := committedSlot r.1 e.1 e.2
  let s := writeDigests (openUes r.1 (workUes r.1 e.2)) e.2 (committedDigest r.1 e.1 e.2) ((List.range (tileCount e.2)).map (tileDigest r.1 e.2 k)) (headerStep r.1 e.2 k) 0
  (s, countsAdd acc.2 r.2)

/-- A sweep of the shard runs, or its outcome is not applied (R236). -/
def outcomePending (s : State) (n : Nat) : Bool :=
  (sweepOf s n).isSome || [ShardState.sweeping, .written, .redoing, .ready].contains (shardDyn s n).st

/-- INIT_PARAMS. -/
def tryInitParams (s : State) (o : Op) : Outcome :=
  let l := commandShards s o
  if l.any fun e => outcomePending s e.1 then .done s (resSt stBusy)
  else if l.any fun e => writeHeld s none e.2.stateBase (stateBytes e.2) then .wait
  else
    let fl := (presentParam (BitVec.ofNat 32 (dField o.desc 48 4))).fl + (presentParam (BitVec.ofNat 32 (dField o.desc 52 4))).fl
    let r := l.foldl (initShard o) (s, countsZero)
    .done (serveHeld r.1) { status := stOk, counts := countsAdd r.2 ⟨0, if l.all fun e => e.2.intKind then 0 else fl, 0, 0⟩ }

/-- INIT_PARAMS (R235). -/
def execInitParams (handle : Word) (s : State) : Host.Outcome State Fault Refusal := .next (runCommand opInitParams tryInitParams handle s)

/-! ### UE_FAULT (R205, R214, R239) -/

/-- UEs of a die. -/
def dieUes (d : Nat) : List Nat := (List.range 320).filter fun u => ueDie u = d

/-- Whether a die sweeps shards of the live image. -/
def dieSweeps (p : Plane) (d : Nat) : Bool := p.shards.any fun e => e.2.ueSet.any fun u => ueDie u = d

/-- A die that sweeps shards of the live image without a UE in service: the package drops out (R214). -/
def dropIdle (s : State) : State :=
  if (List.range 6).any fun d => dieSweeps s.cfg.live d && (dieUes d).all fun k => !s.units.ues.avail.getLsbD k then dropSelf s else s

/-- UE_FAULT: the UE leaves service, the fault is counted and logged, and its tiles go to its replacement, which writes the same bits
(R215); with none on a die that sweeps shards, the package drops out. -/
def ueFault (u : Nat) (residue : Bool) (s : State) : State :=
  if !s.units.ues.avail.getLsbD u then s
  else
    let d := ueDie u
    let old := nmGet (0, 0, false) s.units.ues.faults d
    let avail := s.units.ues.avail &&& BitVec.ofNat 320 (2 ^ 320 - 1 - 2 ^ u)
    let s := { s with units := { s.units with ues := ⟨avail, nmSet s.units.ues.faults d (satTo 0xFFFF (old.1 + 1), u, residue)⟩ } }
    let s := logRecordFree s 0x05 (1 + d) (if u < 256 then u % 64 else (u - 256) % 32) u 0xF
    dropIdle s

/-- UE_FAULT (R205). -/
def execUeFault (ue : Fin 320) (residue : Bool) (s : State) : Host.Outcome State Fault Refusal := .next (ueFault ue.val residue s)

/-! ### PACKAGE_TRIPLE_ENTRY (R248 to R250, R257, R370) -/

/-- The triple of a shard, once every tile has formed its own. -/
def shardTriple (s : State) (c : ShardCfg) : Option Triple :=
  let l := (List.range (tileCount c)).map fun t => (tileDyn s (accAddr c t)).triple
  if l.all (·.isSome) then pairTree tripleAdd (l.filterMap id) else none

/-- The package triple of a run, once every shard triple is formed. -/
def packageTriple (s : State) (g : StepPlan) : Option Triple :=
  let cs := g.shards.filterMap fun n => (nmGet? s.cfg.live.shards n).bind fun c => if c.accFmt = 0 then some c else none
  let l := cs.map (shardTriple s)
  if l.all (·.isSome) then some ((pairTree tripleAdd (l.filterMap id)).getD tripleZero) else none

/-- A comparison or repair of the tenant's shards is outstanding (R569). -/
def comparing (s : State) (t : BitVec 4) : Bool :=
  let mine := fun (n : Nat) => match nmGet? s.cfg.live.shards n with | some c => decide (c.tenant = t) | none => false
  s.step.compares.any mine || s.units.integ.repairs.any fun x => mine x.1

/-- The package triple of a run enters the norm tree; with no tree the verdict is decided here. -/
def enterTriple (s : State) (r : StepRun) (g : StepPlan) (t : Triple) : State :=
  let s := updRun s r.handle fun r => { r with entered := true }
  match g.norm.bind fun x => (nmGet? s.cfg.live.cplans x).map fun cp => (x, cp) with
  | none => deliverVerdict s r.handle (verdictOf g (nmGet 0 s.step.noSkip r.plan) r.stepNo t)
  | some (x, cp) => startTree s (.step r.handle) r.tenant x (r.stepNo.setWidth 32) (runAttempt r)
      { treeZero with triple := if cp.contrib then t else ⟨0, 0, t.nf⟩ }

/-- PACKAGE_TRIPLE_ENTRY. -/
def tripleEntry (t : BitVec 4) (s : State) : State :=
  match s.step.runs.find? fun r => r.tenant = t && r.started && !r.entered && r.verdict.isNone with
  | none => s
  | some r =>
    match runPlan s r with
    | none => s
    | some g =>
      if comparing s t || s.hz.drop.dropped then s
      else match packageTriple s g with
        | some x => settle (enterTriple s r g x)
        | none => s

/-- PACKAGE_TRIPLE_ENTRY (R248). -/
def execPackageTripleEntry (tenant : Fin 16) (s : State) : Host.Outcome State Fault Refusal :=
  .next (tripleEntry (BitVec.ofNat 4 tenant.val) s)

/-! ### PHASE_DISPATCH (R596 to R599) -/

/-- Whether a ready phase of a step needs an engine: a UE for a sweep, or the digest unit for a comparison. -/
def stepNeeds (s : State) (e : Engine) (r : StepRun) (g : StepPlan) : Bool :=
  match e with
  | .ue n => stepNeedsUe s r g n.val
  | .pipSequencer _ => false
  | .actPath _ => false
  | .digestUnit => g.shards.any s.step.compares.contains

/-- Whether a phase of a tenant waits under R597 (HUB_TEN_STATUS.GUEST_WAIT). -/
def guestWaiting (s : State) (t : BitVec 4) : Bool :=
  s.step.runs.any fun r => r.started && r.tenant = t && (match runPlan s r with
    | some g => g.shards.any fun n => ((sweepOf s n).isSome || sweepReady s r n) && guestHeld s n
    | none => false)

/-- Whether an engine is in service; a UE works for any tenant, whoever owns its S-space (R588). -/
def engineFor (s : State) (e : Engine) (t : BitVec 4) : Bool :=
  (planeTenant s.cfg.live t.toNat).enabled &&
  match e with
  | .ue n => s.units.ues.avail.getLsbD n.val
  | .pipSequencer _ => true
  | .actPath _ => true
  | .digestUnit => true

/-- The words that a UE's former work wrote are zeroed before its work for another tenant (R589): which they are is open, so the UE's
open bytes hold new free values (log 66). -/
def zeroWork (s : State) (e : Engine) : State :=
  match e with
  | .ue n =>
    { s with
      free := s.free + 1
      mem := { s.mem with sopen := s.mem.sopen.map fun r => if r.1 / 2 ^ 20 = n.val then (r.1, r.2.1, s.free) else r } }
  | .pipSequencer _ => s
  | .actPath _ => s
  | .digestUnit => s

/-- At a yield point an engine leaves work that is not the tenant's (R596), and work of a guest that waits (R598). -/
def yieldEngine (s : State) (e : Engine) (t : BitVec 4) : State :=
  if s.step.phases.any fun x => x.1 = e && (x.2 ≠ t || guestWaits s x.2 (stepNeeds s e)) then
    let s := zeroWork s e
    { s with step := { s.step with phases := s.step.phases.filter fun x => x.1 ≠ e } }
  else s

/-- Turns that a tenant has had at an engine in the present round. -/
def turnsOf (s : State) (e : Engine) (t : BitVec 4) : Nat := ((s.step.turns.find? fun x => x.1 = (e, t)).map (·.2)).getD 0

/-- Whether a tenant has had its WEIGHT of turns in the round (R596). -/
def turnsDone (s : State) (e : Engine) (t : BitVec 4) : Bool := decide (max 1 (planeTenant s.cfg.live t.toNat).weight ≤ turnsOf s e t)

/-- Whether another tenant with ready work for an engine has turns left in the round. -/
def rivalTurn (s : State) (e : Engine) (t : BitVec 4) : Bool :=
  s.step.runs.any fun r => r.tenant ≠ t && r.started && !turnsDone s e r.tenant && !guestWaits s r.tenant (stepNeeds s e) &&
    match runPlan s r with | some g => stepNeeds s e r g | none => false

/-- The engine turns to a tenant's work, which counts as one of its turns; with nobody's left a round begins (R596; log 69). -/
def takeTurn (s : State) (e : Engine) (t : BitVec 4) : State :=
  let old := if turnsDone s e t then s.step.turns.filter fun x => x.1.1 ≠ e else s.step.turns
  let n := if turnsDone s e t then 1 else turnsOf s e t + 1
  { s with step := { s.step with
      phases := (s.step.phases.filter fun x => x.1 ≠ e) ++ [(e, t)]
      turns := (old.filter fun x => x.1 ≠ (e, t)) ++ [((e, t), n)] } }

/-- PHASE_DISPATCH: the engine, at a yield point, turns to a tenant's work, unless that is a guest's and waits, or its turns are over
while another tenant's are not. No result depends on it (R49). -/
def phaseDispatch (e : Engine) (t : BitVec 4) (s0 : State) : State :=
  let s := settle (slotGathers s0)
  if engineFor s e t && !s.units.acorns.fatal then
    let s := yieldEngine s e t
    if guestWaits s t (stepNeeds s e) || (turnsDone s e t && rivalTurn s e t) then s else takeTurn s e t
  else s

/-- PHASE_DISPATCH (R596). -/
def execPhaseDispatch (engine : Engine) (tenant : Fin 16) (s : State) : Host.Outcome State Fault Refusal :=
  .next (phaseDispatch engine (BitVec.ofNat 4 tenant.val) s)

end Sys2Proof.Machine
end

