-- ==== Sys2Proof/Machine/Collectives.lean ====
section
/-! DEFINITION. Collective commands: REDUCE, GATHER, NORM and COLLECTIVE_START (R360, R372, R772, R777). -/

namespace Sys2Proof.Machine

/-- The collective command at work of a tenant and plan. -/
def collAt (s : State) (t : BitVec 4) (plan : Nat) : Option CollRun := s.step.colls.find? fun c => c.tenant = t && c.plan = plan && c.begun

/-- Change a collective command's record. -/
def updColl (s : State) (h : Word) (f : CollRun → CollRun) : State :=
  { s with step := { s.step with colls := s.step.colls.map fun c => if c.handle = h then f c else c } }

/-- Whether an earlier collective command of the same tenant and plan is not yet Done (R777). -/
def collWaits (s : State) (c : CollRun) : Bool :=
  match findOp s c.handle with
  | none => false
  | some o => s.fe.ops.any fun x => x.phase = .running && isColl x && x.tenant = c.tenant && dCplan x.desc = c.plan && decide (x.seat < o.seat)

/-! ### REDUCE -/

/-- A REDUCE enters work: tiles whose FINAL has been applied go through their phases, others follow as theirs are. -/
def beginReduce (s : State) (c : CollRun) (cp : CPlan) : State :=
  let tiles := regionAddrs s.cfg.live cp.tiles c.src
  let s := tiles.foldl advanceTile (updColl s c.handle fun c => { c with begun := true })
  match (tiles.head?).bind fun t => collUse s t with
  | some u => if u.cmd = some c.handle && regionDone s u then finishRegion s u else s
  | none => s

/-! ### GATHER -/

/-- Bytes of a narrow tile of a GATHER. -/
def gatherTile (c : CollRun) : Nat := narrowTileBytes c.fmt

/-- Send tile `i` of a GATHER on (R360, R365). -/
def gatherSend (s : State) (c : CollRun) (cp : CPlan) (i : Nat) : State :=
  let tb := gatherTile c
  let grp := (findOp s c.handle).bind (groupOf s)
  let bytes := (pieces s (c.dst + i * tb) tb).flatMap fun x => groupRead s grp x.1 x.2
  ((tilePhases s cp i).filter phaseSends).foldl (fun s ph =>
    (framePieces cp.frame bytes).foldl (fun s pc =>
      sendPhase s ph.1 ph.2.plus i 0 { frameBlank s 0x04 0 with
        flags := 0x10, plan := BitVec.ofNat 32 c.plan, step := BitVec.ofNat 32 c.number, tenant := c.tenant, stream := opStream s c.handle
        addr := BitVec.ofNat 44 (i * tb + pc.1), payload := pc.2 }) s) s

/-- Every tile of a GATHER is present here: its plan is complete, and the command Done. -/
def gatherCheck (s : State) (h : Word) : State :=
  match s.step.colls.find? fun c => c.handle = h with
  | none => s
  | some c =>
    match nmGet? s.cfg.live.cplans c.plan with
    | none => s
    | some cp =>
      if (List.range cp.tiles).all c.got.contains then
        let s := endColl (planComplete s cp) h
        match findOp s h with | some o => finishOp s o { status := o.status, counts := o.counts } | none => s
      else s

/-- Tile `i` of a GATHER has become present in this package's gather range. -/
def gatherPresent (s : State) (h : Word) (i : Nat) : State :=
  match s.step.colls.find? fun c => c.handle = h with
  | none => s
  | some c =>
    match nmGet? s.cfg.live.cplans c.plan with
    | none => s
    | some cp =>
      if c.got.contains i then s
      else gatherCheck (gatherSend (updColl s h fun c => { c with got := c.got ++ [i] }) c cp i) h

/-- Bytes laid over the places of a range, gather ranges mapped. -/
def layPieces (s : State) (a : Nat) (bs : List Byte) : List (Nat × List Byte) :=
  ((pieces s a bs.length).foldl (fun (b : List (Nat × List Byte) × Nat) p => (b.1 ++ [(p.1, (bs.drop b.2).take p.2)], b.2 + p.2)) ([], 0)).1

/-- Copy an own tile of a GATHER from SRC into its gather range, after those before it: in its group's write set, or at the homes (R284,
R360). -/
def copyOwn (o : Op) (c : CollRun) (x : GroupWrite) (i : Nat) : GroupWrite :=
  match x with
  | .ok s =>
    let tb := gatherTile c
    (match readOperand s o 0 (sysOf s.cfg.live.package (c.src + i * tb)) tb with
     | none => .wait s
     | some x =>
       let s := updOp x.s o.handle fun y => { y with status := if y.status = stPoison then y.status else
         (let st := readStatus x.s o.tenant x; if st = stOk then y.status else st) }
       groupPuts s o (layPieces s (c.dst + i * tb) (cleanBytes x)))
  | x => x

/-- A GATHER enters work: its own tiles are copied from SRC into its gather range at DST and start on their way, once its reads and writes
can go. -/
def beginGather (s : State) (o : Op) (c : CollRun) (cp : CPlan) : GroupWrite :=
  let own := (List.range cp.tiles).filter (gatherOwns s cp)
  if (groupOf s o).isNone && (pieces s c.dst (cp.tiles * gatherTile c)).any fun x => writeHeld s none x.1 x.2 then .wait s
  else match own.foldl (copyOwn o c) (.ok s) with
    | .ok s =>
      let s := updColl s c.handle fun c => { c with begun := true }
      .ok (gatherCheck (own.foldl (fun s i => gatherPresent s c.handle i) s) c.handle)
    | x => x

/-- A collective command whose write found no room in its group's write set ends (R285). -/
def endGather (s : State) (h : Word) : State := match findOp s h with | some o => stopOp s o stLimit | none => s

/-! ### NORM (R772) -/

/-- The local triple of a NORM with its counts: parts of 4,096 elements combined by the pairwise tree. -/
def normTriple (o : Op) (x : Operand) : Triple × Counts :=
  let els := elemsOf (dSfmt o.desc) (exact32 fpOne) (dCount o.desc) x
  let parts := (chunks 4096 (els.map (·.1))).map partTriple
  ((pairTree tripleAdd (parts.map (·.1))).getD tripleZero,
    (parts.map (·.2)).foldl countsAdd ⟨0, (els.map (·.2)).sum, 0, 0⟩)

/-- The local triple of a NORM once its source can be read, noted in the operation; none while it is held. -/
def readNorm (s : State) (o : Op) : Option (State × Triple) :=
  if dEmpty o.desc then some (updOp s o.handle fun x => { x with empty := true }, tripleZero)
  else (readOperand s o (dSrcSpace o.desc) (dSrc o.desc) (operandBytes (dSfmt o.desc) (dCount o.desc))).map fun x =>
    let r := normTriple o x
    (updOp x.s o.handle fun y => { y with status := readStatus x.s o.tenant x, counts := r.2 }, r.1)

/-- A NORM with a CPLAN enters work: its triple enters the plan's tree (R370, R372). -/
def beginNorm (s : State) (o : Op) (c : CollRun) (cp : CPlan) : Option State :=
  (readNorm s o).map fun r =>
    startTree (updColl r.1 c.handle fun c => { c with begun := true }) (.norm c.handle) c.tenant c.plan (BitVec.ofNat 32 c.number) 0
      { treeZero with triple := if cp.contrib then r.2 else ⟨0, 0, r.2.nf⟩ }

/-! ### Entering work -/

/-- A collective command enters work if no earlier one of its tenant and plan is short of Done, and its operands can be reached. -/
def beginColl (s : State) (h : Word) : State :=
  match s.step.colls.find? fun c => c.handle = h with
  | none => s
  | some c =>
    if c.begun || collWaits s c || s.hz.drop.dropped then s
    else match nmGet? s.cfg.live.cplans c.plan, findOp s h with
      | some cp, some o =>
        let (t, stream) := takeStream s false
        let t := updOp t h fun x => { x with stream := stream.toNat }
        let o := { o with stream := stream.toNat }
        if dOpcode o.desc = opReduce then beginReduce t c cp
        else if dOpcode o.desc = opGather then (match beginGather t o c cp with
          | .ok u => u
          | .wait u => reachFree { s with step := u.step } (dataReads s o)
          | .limit u => endGather u h)
        else (beginNorm t o c cp).getD (reachFree s (dataReads s o))
      | _, _ => s

/-- A collective command enters work if it can (R777). -/
def tryColl (s : State) (o : Op) : Outcome :=
  let plan := dCplan o.desc
  joinGroup s o <|
  if dEmpty o.desc && dOpcode o.desc ≠ opNorm then .done s { status := stOk, empty := true }
  else
    let a := fun x => (localAddr s.cfg.live x).getD 0
    .go (beginColl { s with step := { s.step with colls := s.step.colls ++
      [{ handle := o.handle, tenant := o.tenant, plan := plan, number := o.collNo, src := a (dSrc o.desc), dst := a (dDst o.desc), fmt := dSfmt o.desc
         begun := false, got := [] }] } } o.handle)

/-- NORM without a CPLAN is local. -/
def tryNorm (s : State) (o : Op) : Outcome :=
  if dCplan o.desc ≠ allShards then tryColl s o
  else joinGroup s o <| match readNorm s o with
    | none => .wait
    | some r => match findOp r.1 o.handle with
      | some x => .done r.1 { normRes r.2 x.status x.counts with empty := x.empty }
      | none => .wait

/-- REDUCE (R360). -/
def execReduce (handle : Word) (s : State) : Host.Outcome State Fault Refusal := .next (runCommand opReduce tryColl handle s)

/-- GATHER (R360). -/
def execGather (handle : Word) (s : State) : Host.Outcome State Fault Refusal := .next (runData opGather tryColl handle s)

/-- NORM (R772). -/
def execNorm (handle : Word) (s : State) : Host.Outcome State Fault Refusal := .next (runData opNorm tryNorm handle s)

/-- COLLECTIVE_START (R777). -/
def execCollectiveStart (handle : Word) (s : State) : Host.Outcome State Fault Refusal := .next (settle (beginColl s handle))

end Sys2Proof.Machine
end

