-- ==== Sys2Proof/Machine/Frames.lean ====
section
/-! DEFINITION. Hazel frames as they arrive: routing, the checks of R350, steps and attempts (R368), collective commands (R777), and
what each frame type does at its target. -/

namespace Sys2Proof.Machine

/-! ### Links that go down -/

/-- Another port in service of the same dimension and direction. -/
def otherPort (s : State) (port : Nat) : Option Nat :=
  let p := s.cfg.live
  match p.system.ringDim[port / 2]?.getD none with
  | none => none
  | some d => (sidePorts p d (decide (port % 2 = 0))).find? fun q => q ≠ port && (portOf s q).up

/-- The frames of the replay buffer that the partner had not received when the link went down, taken from it: each is delivered exactly
once (R344). How far the link had come a free number says (DESIGN CHOICE, log 139). -/
def undelivered (s : State) (port : Nat) : State × List Frame :=
  let l := (portOf s port).unacked
  if l.isEmpty then (s, [])
  else
    let (s, n) := takeNat s
    let k := n % (l.length + 1)
    (updPort s port fun p => { p with unacked := l.take k }, l.drop k)

/-- Move frames to a port; credits and link upkeep belong to the link that they wait on, and end with it. -/
def moveFrames (s : State) (port : Nat) (l : List Frame) : State := (l.filter fun f => f.vc ≠ 4).foldl (fun s f => sendOn s port f) s

/-- A port leaves service: what waits on it, and what its partner has not received, goes by the other links of its ring set, or waits for a
link (R343, R344, R357). With the last link to a neighbour the ring is cut. -/
def portOut (s : State) (port : Nat) : State :=
  let s := updPort s port fun p => { p with up := false, out := true, width := 0 }
  let s := logRecordFree s 0x0D 0 port port 0xF
  let (s, back) := undelivered s port
  let l := back ++ (portOf s port).sendq
  let s := match otherPort s port with
    | some o => moveFrames (updPort s port fun p => { p with sendq := [] }) o l
    | none => updPort s port fun p => { p with sendq := l.filter fun f => f.vc ≠ 4 }
  match s.cfg.live.system.ringDim[port / 2]?.getD none with
  | some d => settle (joinRound (linksLost d (decide (port % 2 = 0)) s))
  | none => s

/-- FRAME_REPLAY: a frame is dropped and replayed; sixteen replays of one frame in a row take the port out of service (R344). -/
def frameReplay (port : Nat) (bad : Bool) (s : State) : State :=
  let s := updPort s port fun p => { p with
    replays := satInc p.replays, replayRun := p.replayRun + 1, fecUncorr := if bad then satInc p.fecUncorr else p.fecUncorr }
  if 16 ≤ (portOf s port).replayRun then portOut s port else s

/-! ### Arrival -/

/-- Hold a frame in its receiving buffer. -/
def holdFrame (s : State) (port : Nat) (f : Frame) : State := { s with hz := { s.hz with held := s.hz.held ++ [(port, f)] } }

/-- A plan frame is discarded: its credits go back, and HZ_STALE counts it (R368). -/
def staleFrame (s : State) (port : Nat) (f : Frame) : State :=
  creditBack (updPort s port fun p => { p with stale := satInc p.stale }) port f

/-- What every arriving frame does first: the run of replays ends, and the credits in CRET come back (R344, R347). -/
def arrive (s : State) (port : Nat) (f : Frame) : State :=
  creditReturn (updPort s port fun p => { p with replayRun := 0 }) port f.cretVc.toNat f.cret.toNat

/-- What arrives on a port: a frame whose CRC matches is taken by `k`; any other is dropped, and its sender replays it (R344, R345). -/
def received (s : State) (port : Nat) (f : Frame) (k : State → State) : State :=
  if frameGood f then k (arrive s port f) else frameReplay port false s

/-- A frame for another package travels on, and its credits go back as it leaves the receiving buffer (R347, R349); until it can, it waits
there. A package that has dropped out sends no plan frame on (R379). -/
def forward (s : State) (port : Nat) (f : Frame) : State :=
  if s.hz.drop.dropped && planFrame f then creditBack s port f
  else if canForward s f (some port) then creditBack (sendRouted s f (some port)) port f
  else holdFrame s port f

/-- A frame for another package travels on (R349); one for this package is taken by `k`. -/
def routed (s : State) (port : Nat) (f : Frame) (k : State → State) : State :=
  received s port f fun s => if f.dst ≠ s.cfg.live.package then forward s port f else k s

/-- Whether a frame's SPID is the live one (R188, R350). -/
def spidOk (s : State) (f : Frame) : Bool := f.spid = s.cfg.live.spid

/-- Whether a frame names a sync object that its tenant does not own. -/
def groupBad (s : State) (f : Frame) : Bool := !noGroup f.stream && planeSyncOwner s.cfg.live f.group.toNat ≠ f.tenant

/-- A frame that fails a check of R350 is discarded, counts as landed, and is reported to its source. -/
def refuseFrame (s : State) (port : Nat) (f : Frame) (st : Status) : State :=
  let s := if f.type ≠ 0x01 || noGroup f.stream then s else if fFinal f then finalDiscarded s port f else countLanded s port f
  creditBack (sendStatus s f st) port f

/-! ### Pulls (R354; logs 43 and 48) -/

/-- Base of the ADDR fields that answer a SERVE request: a COPY's local destination at the requester, else 0. -/
def serveBase (d : BitVec 512) (requester : BitVec 13) : Nat :=
  if dOpcode d = opCopy && dDstSpace d = 0 && dDst d / 2 ^ 44 = requester.toNat then dDst d % 2 ^ 44 else 0

/-- Bytes that a SERVE request reads. -/
def serveLen (d : BitVec 512) : Nat := if dOpcode d = opConvert then operandBytes (dSfmt d) (dCount d) else dCount d

/-- The operation that awaits a frame's data. -/
def pullOf (s : State) (f : Frame) : Option Op :=
  s.fe.ops.find? fun o => o.pull && o.phase = .running && o.stream = f.stream.toNat && o.tenant = f.tenant && dSrc o.desc / 2 ^ 44 = f.src.toNat

/-- Whether all the bytes of a pull have come. -/
def pullWhole (o : Op) : Bool := decide (serveLen o.desc ≤ (o.pieces.map fun x => x.2.length).sum)

/-- Bytes of a pull in order. -/
def pulledBytes (o : Op) : List Byte :=
  (List.range o.pieces.length).foldl (fun acc _ =>
    match o.pieces.find? fun x => x.1 = acc.length with | some x => acc ++ x.2 | none => acc) []

/-- Once a pull's data is whole its command's row goes on: a COPY whose frames have landed here is at its end, and any other command keeps
the data to convert, write or send on (logs 36 and 48). -/
def pullOver (s : State) (h : Word) : State :=
  match findOp s h with
  | none => s
  | some o =>
    if !pullWhole o then s
    else
      let n := (pulledBytes o).length
      let rest := if landsDirect s o then [] else [(0, pulledBytes o)]
      updOp s h fun x => { x with pull := false, remote := 1, pieces := rest, res1 := BitVec.ofNat 64 n }

/-- What a frame of a pull refuses of R350: the tenant's ownership and the mapping of the bytes that it writes here. -/
def pullRefusal (s : State) (o : Op) (off : Nat) (f : Frame) : Option Status :=
  let a := (localAddr s.cfg.live (dDst o.desc)).getD 0 + off
  let n := f.payload.length
  if groupBad s f then some stBounds
  else if !landsDirect s o || dDstSpace o.desc = 1 || n = 0 then none
  else if !dOwned s f.tenant a n then some stBounds
  else if !dMapped s a n then some stRange else none

/-- A frame of data for a waiting command: it lands at once where it can (R83), and is kept for the command otherwise. -/
def takePull (s : State) (port : Nat) (f : Frame) (o : Op) : State :=
  let off := f.addr.toNat - serveBase o.desc s.cfg.live.package
  let keep := fun (s : State) => updOp s o.handle fun x => { x with pieces := addPiece x.pieces off f.payload }
  if !spidOk s f then holdFrame s port f
  else match pullRefusal s o off f with
  | some st =>
    let s := updOp s o.handle fun x => { x with status := if x.status = stOk then st else x.status }
    settle (pullOver (keep (refuseFrame s port f st)) o.handle)
  | none =>
    match (if landsDirect s o then landPiece s o off f.payload else some s) with
    | none => holdFrame s port f
    | some s => settle (pullOver (creditBack (keep s) port f) o.handle)

/-! ### WRITE -/

/-- The first check of R350 that a frame of data fails; then that of R236, since a frame does not say whether a COPY or CONVERT sent it
(DESIGN CHOICE, log 138). -/
def dataRefusal (s : State) (f : Frame) : Option Status :=
  let a := f.addr.toNat
  let n := f.payload.length
  if groupBad s f || (n ≠ 0 && !dOwned s f.tenant a n) then some stBounds
  else if n ≠ 0 && !dMapped s a n then some stRange
  else if n ≠ 0 && shardBusy s a n then some stBusy
  else none

/-- The payload of a WRITE frame lands: refetches end, and digests it touches are recomputed (R561, R568). -/
def landWrite (s : State) (port : Nat) (f : Frame) : State :=
  let a := f.addr.toNat
  let n := f.payload.length
  let s := if noGroup f.stream then dWrite s a f.payload
    else if fFinal f then finalArrives s port f
    else countLanded (dWrite s a f.payload) port f
  refetchLanded (recomputeTouched s a n) a n

/-- A WRITE frame at its target. -/
def takeWrite (port : Nat) (f : Frame) (s : State) : State :=
  match pullOf s f with
  | some o => takePull s port f o
  | none =>
    if !spidOk s f || countsFull s f then holdFrame s port f
    else match dataRefusal s f with
    | some st => refuseFrame s port f st
    | none =>
      if writeHeld s none f.addr.toNat f.payload.length then holdFrame s port f
      else settle (creditBack (landWrite s port f) port f)

/-! ### Steps and attempts (R368) -/

/-- What a plan frame is to the target. -/
inductive StepOf where
  | ahead
  | current
  | stale
deriving DecidableEq, Repr

/-- Compare marks: ATTEMPT whole where `exact`, else ATTEMPT div 2. -/
def stepOf (s : State) (f : Frame) (exact_ : Bool) : StepOf :=
  match nmGet? s.step.marks f.tenant.toNat with
  | none => .ahead
  | some (step, att) =>
    let d := (f.step - step).toNat
    let a := if exact_ then f.attempt.toNat else f.attempt.toNat / 2
    let b := if exact_ then att else att / 2
    if d = 0 then (if b < a then .ahead else if a = b then .current else .stale)
    else if d < 2 ^ 31 then .ahead else .stale

/-- What a frame of a collective command is to the target (R777). -/
def collOf (s : State) (f : Frame) : StepOf :=
  match collAt s f.tenant f.plan.toNat with
  | some c => if c.number = f.step.toNat then .current else if f.step.toNat < c.number then .stale else .ahead
  | none =>
    let waiting := (s.step.colls.find? fun c => c.tenant = f.tenant && c.plan = f.plan.toNat).map (·.number)
    if f.step.toNat < waiting.getD (collCount s f.tenant f.plan.toNat) then .stale else .ahead

/-- Whether a plan frame is discarded because this package has dropped out (R379). -/
def noPlans (s : State) : Bool := s.hz.drop.dropped

/-! ### ACC and SET (R362, R365, R384) -/

/-- Address that a plan frame's payload is for. -/
def planAddr (s : State) (f : Frame) : Nat :=
  if fCmd f then ((collAt s f.tenant f.plan.toNat).elim 0 fun c => c.src) + f.addr.toNat else f.addr.toNat

/-- The checks of R350 on an ACC or SET frame. -/
def accRefusal (s : State) (a : Nat) (f : Frame) : Option Status :=
  let n := f.payload.length
  if groupBad s f || !dOwned s f.tenant a n then some stBounds
  else if !dMapped s a n then some stRange
  else match tileRunAt s.cfg.live a with
    | some r => if r.tenant = f.tenant && decide (a + n ≤ r.base + r.tiles * accTileBytes r.fmt) then none else some stBadField
    | none => some stBadField

/-- A SET frame that this package only forwards as a stand-in: the phase and role. -/
def standinPhase (s : State) (f : Frame) (tile : Nat) : Option (CPhase × Role) :=
  if f.type ≠ 0x03 then none
  else match planUse s tile with
    | none => none
    | some u => (tilePhases s u.plan u.tile).find? fun x =>
        x.1.op = 2 && x.1.standin.isSome && x.2.k ≠ 0 && (if x.2.plus then x.1.minus else x.1.plus) = f.src

/-- Elements of an ACC or SET frame, by element of their tile. -/
def frameElems (fmt first : Nat) (bs : List Byte) : List (Nat × Nat) :=
  let w := accElemBytes fmt
  (List.zipIdx (chunks w bs)).map fun x =>
    (first + x.2, if fmt = 0 then leNat x.1 else (toSigned (8 * w) (leNat x.1) % ((2 ^ 64 : Nat) : Int)).toNat)

/-- An ACC or SET frame joins the plan tickets of its tile, or goes on its way. -/
def joinTile (s : State) (port : Nat) (f : Frame) (a : Nat) : State :=
  match tileRunAt s.cfg.live a with
  | none => s
  | some r =>
    let tb := accTileBytes r.fmt
    let tile := r.base + (a - r.base) / tb * tb
    match standinPhase s f tile with
    | some x =>
      let s := if x.2.k + 1 < x.2.n then
          (planUse s tile).elim s fun u => sendPhase s x.1 x.2.plus u.tile 0 { f with
            src := s.cfg.live.package, pticket := BitVec.ofNat 32 (peerTicket s u.plan u.tile x) }
        else s
      creditBack s port f
    | none =>
      updTile s tile fun d => { d with plan := d.plan ++ [
        { ticket := f.pticket.toNat, src := .plan port f, set := f.type = 0x03, sat := r.sat, final := false
          elems := frameElems r.fmt ((a - tile) / accElemBytes r.fmt) f.payload }] }

/-- An ACC or SET frame at its target. -/
def takeAcc (port : Nat) (f : Frame) (s : State) : State :=
  if noPlans s then creditBack s port f
  else if !spidOk s f then holdFrame s port f
  else if fCmd f then
    match collOf s f with
      | .ahead => holdFrame s port f
      | .stale => staleFrame s port f
      | .current => match accRefusal s (planAddr s f) f with
        | some st => refuseFrame s port f st
        | none => joinTile s port f (planAddr s f)
  else match accRefusal s f.addr.toNat f with
    | some st => refuseFrame s port f st
    | none => match stepOf s f false with
      | .ahead => holdFrame s port f
      | .stale => staleFrame s port f
      | .current => joinTile s port f f.addr.toNat

/-! ### NARROW (R360, R367) -/

/-- The gather buffer of a tenant whose range holds a frame's payload, with its index. -/
def gatherAt (s : State) (t : BitVec 4) (a n : Nat) : Option (GatherBuffer × Nat) :=
  (List.zipIdx s.cfg.live.dmap.gathers).find? fun x => x.1.tenant = t && decide (x.1.base ≤ a) && decide (a + n ≤ x.1.base + x.1.bytes)

/-- Address in the copy that INACTIVE selects (R365). -/
def narrowTarget (s : State) (f : Frame) (a : Nat) (x : GatherBuffer × Nat) : Nat :=
  gatherCopy s x.2 x.1 (!fInactive f) + (a - x.1.base)

/-- The checks of R350 on a NARROW frame. -/
def narrowRefusal (s : State) (a : Nat) (f : Frame) : Option Status :=
  if groupBad s f then some stBounds
  else match gatherAt s f.tenant a f.payload.length with
  | some x =>
    let b := narrowTarget s f a x
    if !dOwned s f.tenant b f.payload.length then some stBounds
    else if !dMapped s b f.payload.length then some stRange else none
  | none =>
    if !dOwned s f.tenant a f.payload.length then some stBounds
    else if !dMapped s a f.payload.length then some stRange else some stBadField

/-- A step's narrow tile is whole once the piece that ends it has come: pieces of a tile keep their order on one ring pair (R359). -/
def narrowTileDone (s : State) (f : Frame) (i : Nat) : State :=
  match s.step.runs.find? fun r => r.started && r.tenant = f.tenant with
  | none => s
  | some r =>
    match runPlan s r, nmGet? s.cfg.live.cplans f.plan.toNat with
    | some g, some cp =>
      let fin := f.addr.toNat + f.payload.length - cp.base
      (List.zipIdx g.layers).foldl (fun s l =>
        if l.1.buffer = i && l.1.gather = some f.plan.toNat then
          (List.zipIdx cp.narrowOffs).foldl (fun s e =>
            if e.1.1 + e.1.2 = fin then narrowPresent s r.handle l.2 l.1 (f.plan.toNat, cp) e.2 else s) s
        else s) s
    | _, _ => s

/-- A NARROW frame is written into its copy, in the write set where its GATHER belongs to a group (R284), once its home takes the write. -/
def writeNarrow (s : State) (grp : Option Nat) (f : Frame) (a : Nat) : GroupWrite :=
  match gatherAt s f.tenant a f.payload.length with
  | none => .ok s
  | some x =>
    let b := narrowTarget s f a x
    match grp with
    | some g => groupWrite s g b f.payload
    | none => if writeHeld s none b f.payload.length then .wait s else .ok (refetchLanded (dWrite s b f.payload) b f.payload.length)

/-- A NARROW frame of a GATHER command. -/
def takeGather (s : State) (port : Nat) (f : Frame) (c : CollRun) : State :=
  let a := c.dst + f.addr.toNat
  match narrowRefusal s a f with
  | some st => refuseFrame s port f st
  | none =>
    match writeNarrow s ((findOp s c.handle).bind (groupOf s)) f a with
    | .wait t => holdFrame { s with step := t.step } port f
    | .limit t => settle (creditBack (endGather { s with step := t.step } c.handle) port f)
    | .ok s =>
      let fin := f.addr.toNat + f.payload.length
      let s := if fin % gatherTile c = 0 then gatherPresent s c.handle (fin / max 1 (gatherTile c) - 1) else s
      settle (creditBack s port f)

/-- A NARROW frame of a step plan's gather into a slot: it waits until that gather has begun here (R407). -/
def takeSlot (s : State) (port : Nat) (f : Frame) (x : StepRun × Nat × SlotGather × CPlan × Nat) : State :=
  if x.1.slots ≤ x.2.1 then holdFrame s port f
  else match writeNarrow s none f f.addr.toNat with
    | .wait _ => holdFrame s port f
    | .limit _ => holdFrame s port f
    | .ok s =>
      let ends := match x.2.2.2.1.narrowOffs[x.2.2.2.2]? with
        | some e => decide (f.addr.toNat + f.payload.length = x.2.2.2.1.base + e.1 + e.2)
        | none => false
      settle (creditBack (if ends then slotPresent s x.1.handle x.2.1 x.2.2.1 x.2.2.2.1 x.2.2.2.2 else s) port f)

/-- A NARROW frame at its target. -/
def takeNarrow (port : Nat) (f : Frame) (s : State) : State :=
  if noPlans s then creditBack s port f
  else if !spidOk s f then holdFrame s port f
  else if fCmd f then
    match collOf s f, collAt s f.tenant f.plan.toNat with
      | .current, some c => takeGather s port f c
      | .stale, _ => staleFrame s port f
      | _, _ => holdFrame s port f
  else match narrowRefusal s f.addr.toNat f with
    | some st => refuseFrame s port f st
    | none => match stepOf s f (fSpec f) with
      | .ahead => holdFrame s port f
      | .stale => staleFrame s port f
      | .current => match (if fSpec f || fInactive f then none else slotOf s f.tenant f.plan.toNat f.addr.toNat f.payload.length) with
       | some x => takeSlot s port f x
       | none => match writeNarrow s none f f.addr.toNat with
        | .wait _ => holdFrame s port f
        | .limit _ => holdFrame s port f
        | .ok t => settle (creditBack (narrowTileDone t f ((gatherAt s f.tenant f.addr.toNat f.payload.length).elim 0 (·.2))) port f)

/-! ### TRIPLE and VERDICT -/

/-- The tree in progress that a frame belongs to. -/
def treeOf (s : State) (f : Frame) : Option TreeRun :=
  s.step.trees.find? fun t => t.tenant = f.tenant && t.plan = f.plan.toNat && t.seq = f.step && t.attempt = f.attempt.toNat &&
    (match t.use with | .norm _ => fCmd f | .step _ => !fCmd f | .between _ => !fCmd f | .recovery => false)

/-- A command sweep of the tenant that a between-pass frame may belong to is still to come to its tree (log 61). -/
def sweepTree (s : State) (f : Frame) : Bool :=
  s.fe.ops.any fun o => o.tenant = f.tenant && o.phase = .running && (dOpcode o.desc = opSweepSpec || dOpcode o.desc = opSweepRedo) &&
    dStepNo o.desc % 2 ^ 32 = f.step.toNat

/-- What a tree frame with no tree here is: of a step or command still to come, or superseded. -/
def treeStep (s : State) (f : Frame) : StepOf :=
  if fCmd f then (if collOf s f = .stale then .stale else .ahead)
  else
    let four := match nmGet? s.cfg.live.cplans f.plan.toNat with | some cp => decide (cp.kind = 4) | none => false
    let x := stepOf s f four
    if four && sweepTree s f then .ahead
    else if x = .current && !four && s.step.runs.any fun r => r.tenant = f.tenant && r.verdict.isSome then .stale
    else x

/-- A TRIPLE or VERDICT frame at its target. -/
def takeTree (port : Nat) (f : Frame) (s : State) : State :=
  if noPlans s then creditBack s port f
  else if !spidOk s f then holdFrame s port f
  else match treeOf s f with
    | some t => match treePlan s t with
      | some cp => settle (creditBack (if f.type = 0x08 then treeUp s t cp f else treeDown s t cp f) port f)
      | none => holdFrame s port f
    | none => if treeStep s f = .stale then staleFrame s port f else holdFrame s port f

/-! ### SERVE and STATUS (R354) -/

/-- The answer to a SERVE: WRITE frames of the requester's stream, the last with FINAL. -/
def serveFrames (s : State) (f : Frame) (d : BitVec 512) (bytes : List Byte) : List Frame :=
  let base := { frameBlank s 0x01 f.src with tenant := f.tenant, stream := f.stream }
  withFinal 0 (writeFrames base (chunks 16384 bytes) (serveBase d f.src))

/-- Offsets at which a served range is poisoned, one for each of its granules. -/
def poisonOffsets (s : State) (a n : Nat) : List Nat :=
  if piecesPoison s a n then
    (blocksOf 64 a n).filterMap fun b => let x := max a (64 * b); if s.mem.poison.contains (gatherMap s x / 64) then some (x - a) else none
  else []

/-- A SERVE frame at its target; what it finds poisoned it reports granule by granule, the STATUS frame's ADDR naming it as the data's does
(DESIGN CHOICE, log 48). -/
def takeServe (port : Nat) (f : Frame) (s : State) : State :=
  let d := BitVec.ofNat 512 (leNat (f.payload.take 64))
  let a := dSrc d % 2 ^ 44
  let n := serveLen d
  if !spidOk s f then holdFrame s port f
  else if groupBad s f || !dReadable s f.tenant a n then refuseFrame s port f stBounds
  else if !dMapped s a n then refuseFrame s port f stRange
  else
    let s := (pieces s a n).foldl (fun s x => detectRead s x.1 x.2) s
    if piecesHeld s a n then holdFrame s port f
    else
      let fresh := piecesFresh s a n
      let bad := poisonOffsets s a n
      let s := countUninit s f.tenant fresh
      let s := (serveFrames s f d (zeroPoison s a (homeBytes s a n))).foldl (fun s g => sendRouted s g none) s
      let s := bad.foldl (fun s k => sendStatus s { f with addr := BitVec.ofNat 44 (serveBase d f.src + k) } stPoison) s
      let s := if bad.isEmpty && decide (0 < fresh) && unwrStatus s f.tenant then sendStatus s f stUnwritten else s
      settle (creditBack s port f)

/-- Whether a command sends frames by which a target can refuse it: data or a SERVE, or those of a collective command or a PLAN_RUN. -/
def sendsFrames (o : Op) : Bool := o.pull || decide (0 < o.remote) || ((isColl o || dOpcode o.desc = opPlanRun) && decide (2 ^ 31 ≤ o.stream))

/-- A STATUS frame: the command that sent the stream completes with the first code it receives; a refused pull has no data to wait
for. -/
def takeStatus (port : Nat) (f : Frame) (s : State) : State :=
  let st : Status := BitVec.ofNat 16 (payAt f.payload 0 2)
  let mine := fun (o : Op) => o.phase = .running && o.started && sendsFrames o && o.stream = f.stream.toNat
  let s := match s.fe.ops.find? mine with
    | some o => updOp s o.handle fun x => { x with
        status := if x.status = stOk then st else x.status
        spoiled := if st = stPoison then x.spoiled ++ [f.addr.toNat - serveBase x.desc s.cfg.live.package] else x.spoiled
        signalled := x.signalled && payAt f.payload 2 1 % 2 = 0
        pull := if x.pull && !(st = stUnwritten || st = stPoison) then false else x.pull }
    | none => s
  creditBack s port f

/-! ### DROP and RECOVER -/

/-- A DROP frame (R379, R380, R383). -/
def takeDrop (port : Nat) (f : Frame) (s : State) : State :=
  settle (joinRound (learnDrop (creditBack s port f) (BitVec.ofNat 13 f.aux.toNat) (fCut f) (some port)))

/-- Whether a frame comes from the member towards the root of the last phase this package takes part in. -/
def fromParent (cp : CPlan) (src : BitVec 13) : Bool :=
  match (upPhases cp).getLast? with
  | some p => p.pos ≠ 0 && (if p.pos ≤ treeHalf p then p.minus else p.plus) = src
  | none => false

/-- A RECOVER frame of the recovery round (R381, R382). -/
def takeRecover (port : Nat) (f : Frame) (s : State) : State :=
  match treeBy s .recovery with
  | none => if s.hz.drop.dropped || s.hz.drop.halt then creditBack s port f else holdFrame s port f
  | some t => match treePlan s t with
    | some cp => settle (creditBack (if fromParent cp f.src then treeDown s t cp f else treeUp s t cp f) port f)
    | none => holdFrame s port f

/-! ### The commands -/

/-- Frames of one flow of pieces: the tiles of a gather, or the values of a tree, from one member (R359). -/
def sameFlow (f g : Frame) : Bool :=
  [0x04, 0x08, 0x09].contains f.type.toNat && f.type = g.type && f.src = g.src && f.tenant = g.tenant && f.plan = g.plan && f.step = g.step &&
  f.attempt = g.attempt && fCmd f = fCmd g

/-- A frame waits behind those of its flow that came before it and are held, so the piece that ends a tile or a value comes last. -/
def inOrder (port : Nat) (f : Frame) (k : State → State) (s : State) : State :=
  if s.hz.held.any fun x => sameFlow f x.2 then holdFrame s port f else k s

/-- What a frame of each type does at its target. -/
def takeFrame (port : Nat) (f : Frame) (s : State) : State :=
  match f.type with
  | 0x01 => takeWrite port f s
  | 0x02 => takeAcc port f s
  | 0x03 => takeAcc port f s
  | 0x04 => takeNarrow port f s
  | 0x08 => takeTree port f s
  | 0x09 => takeTree port f s
  | 0x0A => takeServe port f s
  | 0x0B => takeStatus port f s
  | 0x0C => takeDrop port f s
  | 0x0D => takeRecover port f s
  | _ => s

/-- WRITE (R350, R351). -/
def execWrite (port : Fin 18) (f : Frame) (s : State) : Host.Outcome State Fault Refusal :=
  .next (routed s port { f with type := 0x01 } (takeWrite port { f with type := 0x01 }))

/-- ACC (R362). -/
def execAcc (port : Fin 18) (f : Frame) (s : State) : Host.Outcome State Fault Refusal :=
  .next (routed s port { f with type := 0x02 } (takeAcc port { f with type := 0x02 }))

/-- SET (R365). -/
def execSet (port : Fin 18) (f : Frame) (s : State) : Host.Outcome State Fault Refusal :=
  .next (routed s port { f with type := 0x03 } (takeAcc port { f with type := 0x03 }))

/-- NARROW (R367). -/
def execNarrow (port : Fin 18) (f : Frame) (s : State) : Host.Outcome State Fault Refusal :=
  .next (routed s port { f with type := 0x04 } (inOrder port { f with type := 0x04 } (takeNarrow port { f with type := 0x04 })))

/-- TRIPLE (R369). -/
def execTriple (port : Fin 18) (f : Frame) (s : State) : Host.Outcome State Fault Refusal :=
  .next (routed s port { f with type := 0x08 } (inOrder port { f with type := 0x08 } (takeTree port { f with type := 0x08 })))

/-- VERDICT (R371). -/
def execVerdict (port : Fin 18) (f : Frame) (s : State) : Host.Outcome State Fault Refusal :=
  .next (routed s port { f with type := 0x09 } (inOrder port { f with type := 0x09 } (takeTree port { f with type := 0x09 })))

/-- SERVE (R354). -/
def execServe (port : Fin 18) (f : Frame) (s : State) : Host.Outcome State Fault Refusal :=
  .next (routed s port { f with type := 0x0A } (takeServe port { f with type := 0x0A }))

/-- STATUS (R350). -/
def execStatus (port : Fin 18) (f : Frame) (s : State) : Host.Outcome State Fault Refusal :=
  .next (routed s port { f with type := 0x0B } (takeStatus port { f with type := 0x0B }))

/-- DROP (R380). -/
def execDrop (port : Fin 18) (f : Frame) (s : State) : Host.Outcome State Fault Refusal :=
  .next (received s port { f with type := 0x0C } (takeDrop port { f with type := 0x0C }))

/-- RECOVER (R382). -/
def execRecover (port : Fin 18) (f : Frame) (s : State) : Host.Outcome State Fault Refusal :=
  .next (routed s port { f with type := 0x0D } (takeRecover port { f with type := 0x0D }))

/-- CREDIT (R347). -/
def execCredit (port : Fin 18) (f : Frame) (s : State) : Host.Outcome State Fault Refusal :=
  .next (received s port { f with type := 0x0F } id)

/-- LINK: the partner's package number and SPID (R718). -/
def execLink (port : Fin 18) (f : Frame) (s : State) : Host.Outcome State Fault Refusal :=
  .next (received s port { f with type := 0x10 } fun s => updPort s port fun p => { p with peer := f.src, peerSpid := f.spid })

/-- BAD_FRAME_TYPE: discarded and counted in HZ_REPLAYS (R346). -/
def execBadFrameType (port : Fin 18) (f : Frame) (s : State) : Host.Outcome State Fault Refusal :=
  .next (received s port f fun s => creditBack (updPort s port fun p => { p with replays := satInc p.replays }) port f)

/-- A held frame that is held again keeps its place in its receiving buffer. -/
def keepPlace (i n : Nat) (x : Nat × Frame) (s : State) : State :=
  if s.hz.held.length = n && s.hz.held.getLast? = some x then { s with hz := { s.hz with held := s.hz.held.dropLast.insertIdx i x } } else s

/-- A held frame is looked at again. -/
def takeHeld (port : Nat) (f : Frame) (s : State) : State := if f.dst ≠ s.cfg.live.package then forward s port f else takeFrame port f s

/-- HELD_FRAME_RELEASE: a held frame is looked at again (R188, R347, R352, R368). -/
def releaseHeld (i : Nat) (s : State) : State :=
  match s.hz.held[i]? with
  | none => s
  | some (port, f) =>
    if (s.hz.held.take i).any fun x => sameFlow f x.2 then s
    else keepPlace i s.hz.held.length (port, f) (takeHeld port f { s with hz := { s.hz with held := s.hz.held.eraseIdx i } })

/-- HELD_FRAME_RELEASE (R368). -/
def execHeldFrameRelease (index : Nat) (s : State) : Host.Outcome State Fault Refusal := .next (releaseHeld index s)

/-- STREAM_COUNT_TIMEOUT: a count without a frame for 100 ms closes (R353). -/
def execStreamCountTimeout (src : BitVec 13) (stream : Word) (group : BitVec 14) (s : State) : Host.Outcome State Fault Refusal :=
  .next (match s.hz.counts.find? fun c => c.src = src && c.stream = stream && c.group = group with
    | some c => closeCount s c
    | none => s)

/-! ### Ports -/

/-- FRAME_REPLAY (R344). -/
def execFrameReplay (port : Fin 18) (uncorrectable : Bool) (s : State) : Host.Outcome State Fault Refusal :=
  .next (frameReplay port uncorrectable s)

/-- The lanes a port can run on (R343). -/
def laneWidth (bad : List Nat) : BitVec 2 :=
  if bad.isEmpty then 3 else if bad.all fun l => 4 ≤ l then 1 else if bad.all fun l => l < 4 then 2 else 0

/-- HAZEL_LANE_FAILURE: the port retrains on the half that is whole, or leaves service (R343). -/
def laneFailure (port lane : Nat) (s : State) : State :=
  let s := updPort s port fun p => { p with badLanes := insertNat lane p.badLanes }
  let w := laneWidth (portOf s port).badLanes
  if w = 0 then portOut s port else updPort s port fun p => { p with width := if p.up then w else p.width }

/-- HAZEL_LANE_FAILURE (R343). -/
def execHazelLaneFailure (port : Fin 18) (lane : Fin 8) (s : State) : Host.Outcome State Fault Refusal := .next (laneFailure port lane s)

/-- The partner that the live SYSTEM section, or the live fallback case, names for a port (R719). -/
def expectedPeer (s : State) (port : Nat) : Option (BitVec 13) :=
  let p := s.cfg.live
  (p.system.ringDim[port / 2]?.getD none).map fun d =>
    let plus := decide (port % 2 = 0)
    partnerOf s d plus

/-- Credits of every channel of a link whose partner still holds some frames. -/
def linkCredits (held : List Frame) : NMap Nat :=
  (List.range 4).map fun vc => (vc, vcCredits vc - ((held.filter fun f => f.vc.toNat = vc).map creditsOf).sum)

/-- Frames that wait at ports out of service of a port's side go by it (R357). -/
def adoptFrames (s : State) (port : Nat) : State :=
  match s.cfg.live.system.ringDim[port / 2]?.getD none with
  | none => s
  | some d => ((sidePorts s.cfg.live d (decide (port % 2 = 0))).filter fun q => q ≠ port && !(portOf s q).up).foldl (fun s q =>
      moveFrames (updPort s q fun p => { p with sendq := [] }) port (portOf s q).sendq) s

/-- HAZEL_PORT_TRAINED: with the partner that the live configuration names the port is neighbour-trained and sends its LINK frame, and
what the partner has not received is sent again; with another it carries nothing (R704, R718, R719). -/
def portTrained (port : Nat) (peer : BitVec 13) (spid : DWord) (width : BitVec 2) (s : State) : State :=
  if !keepHigh s (port / 2) || (portOf s port).out || width = 0 then s
  else
  let s := { s with units := { s.units with boot := { s.units.boot with resets := s.units.boot.resets.filter fun r => r ≠ 16 + port } } }
  if expectedPeer s port = some peer then
    let (s, back) := undelivered s port
    let s := updPort s port fun p => { p with
      up := true, width := width, los := false, peer := peer, peerSpid := spid, across := false, credits := linkCredits p.unacked, replayRun := 0
      badLanes := if width = 1 then [4, 5, 6, 7] else if width = 2 then [0, 1, 2, 3] else []
      sendq := back ++ p.sendq }
    let near := (s.cfg.live.system.ringDim[port / 2]?.getD none).map fun d => neighbour s.cfg.live d (decide (port % 2 = 0))
    let s := updPort s port fun p => { p with across := near ≠ some peer }
    joinRound (adoptFrames (sendOn s port { frameBlank s 0x10 peer with vc := 4 }) port)
  else
    let s := updPort s port fun p => { p with up := false, peer := peer, peerSpid := spid, width := width, los := false }
    { s with units := { s.units with boot := { s.units.boot with miswired := true } } }

/-- HAZEL_PORT_TRAINED (R719). -/
def execHazelPortTrained (port : Fin 18) (peer : BitVec 13) (spid : DWord) (width : BitVec 2) (s : State) :
    Host.Outcome State Fault Refusal := .next (settle (portTrained port peer spid width s))

/-- LOSS_OF_SIGNAL (R380). -/
def execLossOfSignal (dim : Fin 3) (plus : Bool) (s : State) : Host.Outcome State Fault Refusal :=
  .next (settle (joinRound (lossOfSignal dim.val plus s)))

/-- LINK_TRAIN_TIMEOUT: a link that this package expects across a closed bypass has not trained (R381). -/
def linkTimeout (port : Nat) (s : State) : State :=
  match s.hz.drop.pending with
  | none => s
  | some y =>
    if (portsFacing s.cfg.live y).contains port && !linkSettled s port then
      settle (joinRound (updDrop s fun d => { d with bad := true, late := insertNat port d.late }))
    else s

/-- LINK_TRAIN_TIMEOUT (R381). -/
def execLinkTrainTimeout (port : Fin 18) (s : State) : Host.Outcome State Fault Refusal := .next (linkTimeout port.val s)

end Sys2Proof.Machine
end

