-- ==== Sys2Proof/Machine/RegMap.lean ====
section
/-! DEFINITION. The control window (*Register windows*): which tenant may touch which register, what each register reads, and what
a write leaves in its RW fields. Writes that do more than store are commands of their own. -/

namespace Sys2Proof.Machine

/-! ### Requesters and answers -/

/-- The tenant that a requester acts as (R593, R729, R764). -/
def reqTenant (s : State) : Requester → BitVec 4
  | .host _ t _ => t
  | .i3c => s.cfg.live.control
  | .tap => s.cfg.live.control

/-- Number of a requester's latches (R731): a tenant's, the I3C path's, the test port's. -/
def reqNumber : Requester → Nat
  | .host _ t _ => t.toNat
  | .i3c => 16
  | .tap => 17

/-- The request that an RSP answers. -/
def rspFor (m : Fin 64) (t : BitVec 4) (tag : BitVec 16) : HostReq := ⟨m, t, 0, 0, tag, 0, []⟩

/-- Answer a register read (R112, R729, R764). -/
def answerRead (s : State) (r : Requester) (st : Status) (v : Word) : State :=
  match r with
  | .host m t tag => respond s (rspFor m t tag) st (leBytes 4 v.toNat)
  | .i3c => { s with units := { s.units with i3c := ⟨leBytes 4 v.toNat ++ [st.setWidth 8], false⟩ } }
  | .tap => { s with units := { s.units with tap := { s.units.tap with dr := v.toNat + st.toNat % 256 * 2 ^ 32, drLen := 40 } } }

/-- Answer a register write. -/
def answerWrite (s : State) (r : Requester) (st : Status) : State :=
  match r with
  | .host m t tag => respond s (rspFor m t tag) st []
  | .i3c => { s with units := { s.units with i3c := ⟨[st.setWidth 8], false⟩ } }
  | .tap => s

/-! ### Windows and access (R725, R726, R593) -/

/-- Offset of sync-object entry 0. -/
def syncWindow : Nat := 0x01000000

/-- Offset of the shadow view. -/
def shadowWindow : Nat := 0x03000000

/-- Whether an offset lies in a range of Table 1. -/
def offMapped (off : Nat) : Bool :=
  decide (off < 0x00712000) || inRange off 0x00800000 0x1000 || inRange off syncWindow 0x100000 ||
  inRange off doorbellPage 0x100000 || inRange off shadowWindow 0x900000

/-- Who may touch a register (Table 2 of *Tenants and contexts*). -/
inductive RegClass where
  | tenant (t : BitVec 4)
  | sync (k : Nat)
  | doorbell (q : Nat)
  | husk
  | other
deriving DecidableEq, Repr

/-- The class of an offset. -/
def regClass (off : Nat) : RegClass :=
  if inRange off 0x10000 0x1000 then .tenant (BitVec.ofNat 4 ((off - 0x10000) / 0x100))
  else if inRange off syncWindow 0x100000 then .sync ((off - syncWindow) / 0x40)
  else if inRange off doorbellPage 0x100000 then .doorbell ((off - doorbellPage) / 0x1000)
  else if inRange off 0x00800000 0x1000 then .husk
  else .other

/-- Whether a tenant may read a register. -/
def mayRead (s : State) (t : BitVec 4) (off : Nat) : Bool :=
  match regClass off with
  | .tenant u => t = u || t = s.cfg.live.control
  | .sync k => t = planeSyncOwner s.cfg.live k || t = s.cfg.live.control
  | .doorbell _ => true
  | .husk => true
  | .other => true

/-- Whether a tenant may write a register. HUB_TEN_NUM_SEL is judged by its own rule, SQ_TAIL by R124. -/
def mayWrite (s : State) (t : BitVec 4) (off : Nat) : Bool :=
  match regClass off with
  | .tenant u => t = u || t = s.cfg.live.control
  | .sync k => t = planeSyncOwner s.cfg.live k || t = s.cfg.live.control
  | .doorbell q => off % 0x1000 = 0 || t = (planeQueue s.cfg.live q).tenant
  | .husk => false
  | .other => off = 0x1050 || t = s.cfg.live.control

/-- The status of a request that the module group, the alignment or the map turns away (R113, R768, R726). -/
def regRefusal (s : State) (r : Requester) (off : Nat) : Option Status :=
  match r with
  | .host m t tag =>
    if !reqAllowed s (rspFor m t tag) then some stBounds
    else if off % 4 ≠ 0 then some stAlign
    else if !offMapped off then some stRange
    else none
  | .i3c => if off % 4 ≠ 0 then some stAlign else if !offMapped off then some stRange else none
  | .tap => if off % 4 ≠ 0 then some stAlign else if !offMapped off then some stRange else none

/-- The status of a refused read. -/
def readDenied (s : State) (r : Requester) (off : Nat) : Option Status :=
  match regRefusal s r off with
  | some st => some st
  | none => if mayRead s (reqTenant s r) off then none else some stBounds

/-- The status of a refused write. -/
def writeDenied (s : State) (r : Requester) (off : Nat) : Option Status :=
  match regRefusal s r off with
  | some st => some st
  | none => if mayWrite s (reqTenant s r) off then none else some stPriv

/-- Modules in service on a spine link, by its number (R35). -/
def spineMods (s : State) (link : Nat) : Nat := nmGet 0 s.units.boot.spine link

/-- The spine link of a die's register window: hub to base die n, or bridge m to hub. -/
def windowLink (off : Nat) : Option Nat :=
  if off < 0x100000 then none
  else if off < 0x500000 then some (off / 0x100000 - 1)
  else if off < 0x700000 then some (12 + (off / 0x100000 - 5))
  else none

/-- Modules of a spine link that carry: those in service but for one under a margin run (R742). -/
def carryMods (s : State) (link : Nat) : Nat := spineMods s link - (s.units.runs.filter fun r => r.started && r.link = some link).length

/-- Whether a window's die cannot be reached over the spine (R728). -/
def dieLost (s : State) (off : Nat) : Bool :=
  match windowLink off with | some l => decide (carryMods s l = 0) | none => false

/-- An access waits for its die; the reply to one over I3C is not ready (R728, R730). -/
def waitReg (s : State) (h : HeldReg) : State :=
  let s := { s with fe := { s.fe with heldReg := s.fe.heldReg ++ [h] } }
  if h.req = .i3c then { s with units := { s.units with i3c := ⟨[], true⟩ } } else s

/-- A register write by a requester: refused, left waiting for its die, or carried out and answered (R727, R728). -/
def writeReg (r : Requester) (off : Nat) (v : Word) (act : State → State × Status) (s : State) : State :=
  match writeDenied s r off with
  | some st => answerWrite s r st
  | none =>
    if dieLost s off then waitReg s ⟨r, off, some v⟩
    else let x := act s; answerWrite x.1 r x.2

/-! ### Fields -/

/-- A field of `w` bits from bit `l` of a word. -/
def fld (v : Word) (l w : Nat) : Nat := v.toNat / 2 ^ l % 2 ^ w

/-- A value placed at bit `l`. -/
def at_ (l v : Nat) : Nat := v * 2 ^ l

/-- A bit as a number. -/
def bit (b : Bool) : Nat := if b then 1 else 0

/-- A 32-bit word from a number. -/
def word (n : Nat) : Word := BitVec.ofNat 32 n

/-- Registers that hold what was written, in the HUB window: cold value and RW bits. -/
def plainHub (off : Nat) : Option (Word × Word) :=
  match off with
  | 0x0018 => some (0x2710, 0xFFFFFF)
  | 0x001C => some (0, 0xFFFFFFFF)
  | 0x0070 => some (0, 0xFFFFFFFF)
  | 0x0074 => some (0, 0xFFF)
  | 0x00A0 => some (0x3E8, 0xFFFFF)
  | 0x00A4 => some (0, 0xFFFFFFFF)
  | 0x1000 => some (0, 0xFFFF)
  | 0x1010 => some (0, 0x1FF)
  | 0x1040 => some (0, 0xFF)
  | 0x1050 => some (0, 0x3F)
  | 0x2004 => some (0x3F, 0x3F)
  | 0x2018 => some (0, 0x3FF)
  | 0x3000 => some (0x0230FF1F, 0x03FFFFFF)
  | 0x3018 => some (0, 0xFFFFFFFF)
  | 0x301C => some (0x6400, 0xFFFF00)
  | 0x3024 => some (0x55, 0x7F)
  | 0x3108 => some (0, 0xFFFFFFFF)
  | 0x3114 => some (0, 1)
  | _ => none

/-- The same for an offset in a tenant block. -/
def plainTenant (off : Nat) : Option (Word × Word) :=
  match off with
  | 0x00 => some (0, 1)
  | 0x04 => some (0, 0xFFFFFFFF)
  | 0x14 => some (0, 0xFFFFFFFF)
  | 0x18 => some (0, 0xFFFFFFFF)
  | 0x1C => some (0, 0xFFFFFFFF)
  | 0x2C => some (0, 0xFFFFFFFF)
  | _ => none

/-- The same for an offset in an SBD window. -/
def plainSbd (off : Nat) : Option (Word × Word) :=
  match off with
  | 0x100 => some (0, 0x3F)
  | 0x200 => some (0x48, 0x7F)
  | 0x204 => some (0, 0xFFFFFFFF)
  | 0x208 => some (0, 0xFFFFFFFF)
  | 0x20C => some (0, 0xFFFFFFFF)
  | 0x210 => some (0x10018, 0x1FFFF)
  | 0x300 => some (0x7FC0, 0xFFFFFF)
  | 0x310 => some (0xFE0, 0xFF2FFF)
  | 0x320 => some (0, 0xFFFF)
  | 0x400 => some (0x10A, 0x1FF)
  | 0x408 => some (0, 0xFFFFFFFF)
  | 0x40C => some (0, 0xFFFFFFFF)
  | 0x410 => some (0, 0xFFFFFFFF)
  | 0x500 => some (0, 0xFFFFFFFF)
  | 0x504 => some (0, 0xFFFFFFFF)
  | 0x508 => some (0, 0xFFFFFFFF)
  | 0x600 => some (0, 0x3FF)
  | 0x700 => some (0, 0xFFFFFFFF)
  | _ => none

/-- The same for an offset in a TB window. -/
def plainTb (off : Nat) : Option (Word × Word) :=
  match off with
  | 0x104 => some (0, 0x1F)
  | 0x200 => some (1, 3)
  | 0x204 => some (0, 0xFFFFFF00)
  | 0x300 => some (0xFE0, 0xFF3FFF)
  | 0x320 => some (0, 0x7F)
  | 0x600 => some (0, 0x3FF)
  | _ => none

/-- Cold value and RW (or LK) bits of a register that holds what was written (Table 4 of *Read me first*). -/
def plainReg (off : Nat) : Option (Word × Word) :=
  if off < 0x4000 then plainHub off
  else if inRange off 0x10000 0x1000 then plainTenant (off % 0x100)
  else if inRange off 0x100000 0x400000 then plainSbd (off % 0x100000)
  else if inRange off 0x500000 0x200000 then plainTb (off % 0x100000)
  else none

/-- The die of an SBD or TB window: 0 to 3, or 4 + m. -/
def windowDie (off : Nat) : Nat := off / 0x100000 - 1

/-! ### What registers show -/

/-- The first run of a tenant. -/
def tenantRun (s : State) (t : BitVec 4) : Option StepRun := s.step.runs.find? fun r => r.started && r.tenant = t

/-- PHASE of HUB_STEP_STATE; where one phase passes into the next is the model's reading (DESIGN CHOICE, log 88). -/
def stepPhase (s : State) (t : BitVec 4) : Nat :=
  match tenantRun s t with
  | none => 0
  | some r =>
    match runPlan s r with
    | none => 0
    | some g =>
      if r.dropped || (r.flipped && allGathered r g) then 7
      else if r.flipped then 6
      else match r.verdict with
        | some v => if v.outcome = 0 then 6 else if v.outcome = 1 && !(g.shards.all fun n => settledShard s n) then 5 else 6
        | none =>
          if r.entered then 4
          else if g.shards.any fun n => (sweepOf s n).isSome then 3
          else if 0 < r.replays then 8
          else if g.shards.any fun n => match nmGet? s.cfg.live.shards n with
            | some c => (List.range (tileCount c)).any fun t => tileReduced s (accAddr c t)
            | none => false then 2
          else 1

/-- HUB_STEP_STATE (Table 9 of *Speculative update and the commit sweep*). -/
def stepState (s : State) (t : BitVec 4) : Word :=
  let v := nmGet? s.step.verdicts t.toNat
  word ((v.map (·.outcome)).getD 3 + at_ 4 (stepPhase s t) + at_ 8 ((v.map (·.hint.toNat)).getD 0) +
    at_ 16 (satTo 0xFFFF (nmGet 0 s.step.heldCount t.toNat)))

/-- Commands of a tenant Waiting or Running. -/
def tenantOps (s : State) (t : BitVec 4) : Nat := ((liveOps s).filter fun o => o.tenant = t).length

/-- Whether fetch of a queue has a descriptor to take. -/
def fetchDue (s : State) (q : Nat) : Bool := let c := qOf s q; decide (c.h ≠ c.p)

/-- Whether fetch of a tenant is held by OPS_MAX (R591). -/
def quotaStall (s : State) (t : BitVec 4) : Bool :=
  decide ((planeTenant s.cfg.live t.toNat).opsMax ≤ tenantOps s t) &&
  s.cfg.live.queues.any fun e => e.2.en && e.2.tenant = t && fetchDue s e.1

/-- HUB_TEN_STATUS. -/
def tenStatus (s : State) (t : BitVec 4) : State × Word :=
  (s, word (bit (planeTenant s.cfg.live t.toNat).enabled + at_ 1 (bit (decide (0 < tenantOps s t))) + at_ 2 (bit (guestWaiting s t)) +
    at_ 3 (bit (quotaStall s t)) + at_ 4 (satTo 0x1FFF (tenantOps s t)) +
    at_ 17 (s.step.txgs.filter fun x => x.tenant = t).length))

/-- HUB_TEN_QUOTA. -/
def tenQuota (s : State) (t : BitVec 4) : Word :=
  let e := planeTenant s.cfg.live t.toNat
  word (e.opsMax % 2 ^ 13 + at_ 16 (e.txgMax % 2 ^ 7) + at_ 24 (e.weight % 16))

/-- The latest descriptor of a queue's slot that a doorbell has covered, none where there is none yet. -/
def latestOf (s : State) (q slot : Nat) : Option Word :=
  let c := qOf s q
  let n := sqEntries s q
  if n = 0 || (c.l = 0 && c.p.toNat ≤ slot) then none
  else some (c.p - 1 - BitVec.ofNat 32 ((c.p.toNat + 2 ^ 32 - 1 - slot) % n))

/-- The queue whose handle range holds an index. -/
def queueOfIndex (p : Plane) (t : BitVec 4) (i : Nat) : Option Nat :=
  (p.queues.find? fun e => e.2.en && e.2.tenant = t && inRange i e.2.hbase.toNat e.2.sqEntries.toNat).map (·.1)

/-- HUB_HANDLE_STATE (R735). -/
def handleState (s : State) (t : BitVec 4) (h : Word) : Word :=
  let i := h.toNat % 2 ^ 16
  match (if h.toNat / 2 ^ 28 = t.toNat then queueOfIndex s.cfg.live t i else none) with
  | none => 7
  | some q =>
    let par := planeQueue s.cfg.live q
    let c := qOf s q
    match latestOf s q (i - par.hbase.toNat) with
    | none => 7
    | some p =>
      if handleOf par c.l c.p p ≠ h then 7
      else if (p - c.h).toNat < (c.p - c.h).toNat then 0
      else match s.fe.ops.find? fun o => o.queue = q && o.number = p with
        | none => 7
        | some o => match o.phase with
          | .waiting => word (1 + at_ 8 (dOpcode o.desc))
          | .running => word (2 + at_ 8 (dOpcode o.desc))
          | .done => word (3 + at_ 8 (dOpcode o.desc) + at_ 16 o.status.toNat)
          | .retired => word (4 + at_ 8 (dOpcode o.desc) + at_ 16 o.status.toNat)

/-- A register of a tenant block. -/
def readTenant (s : State) (t : BitVec 4) (off : Nat) : State × Word :=
  match off with
  | 0x08 => (s, stepState s t)
  | 0x0C => (s, ((nmGet? s.step.verdicts t.toNat).map (·.norm)).getD 0)
  | 0x10 => (s, ((nmGet? s.step.verdicts t.toNat).map (·.clip)).getD 0x3F800000)
  | 0x20 => (s, word (satTo 0xFFFF (s.cfg.live.shards.filter fun e => e.2.tenant = t && (shardDyn s e.1).halted).length))
  | 0x24 => tenStatus s t
  | 0x28 => (s, tenQuota s t)
  | 0x30 => (s, handleState s t (regGet s (tenOff t 0x2C) 0))
  | 0x34 => (s, (ringOf s t.toNat).head)
  | _ => (s, match plainTenant off with | some f => regGet s (tenOff t off) f.1 &&& f.2 | none => 0)

/-- PHASE of HUB_BOOT_STATUS, SYSTEM_READY included (R722). -/
def bootPhase (s : State) : Nat :=
  let ready := s.cfg.live.isImage && (List.range 9).all fun n =>
    (s.cfg.live.system.ringDim[n]?.getD none).isNone ||
    [2 * n, 2 * n + 1].all fun k => (portOf s k).up && (portOf s k).peerSpid = s.cfg.live.spid
  if s.units.boot.phase = 5 && ready then 6 else s.units.boot.phase

/-- HUB_BOOT_STATUS. -/
def bootStatus (s : State) : Word :=
  let b := s.units.boot
  word (bootPhase s + at_ 3 (bit b.join) + at_ 4 (b.fail % 16) + at_ 8 (bit ((List.range 16).any (groupUp s))) +
    at_ 9 (bit b.miswired) + at_ 10 (bit b.fwSlot) + at_ 16 b.warms.toNat)

/-- HUB_CFG_STATUS. -/
def cfgStatus (s : State) : Word :=
  let c := s.cfg
  word (bit c.live.isImage + at_ 1 (bit c.staged) + at_ 2 (bit c.isSealed) + at_ 3 (bit c.wait.isSome) +
    at_ 4 (bit s.hz.drop.cas.isSome) + at_ 5 (bit c.lkDrop) + at_ 6 (bit c.pairBad) + at_ 16 c.lastSt.toNat)

/-- HUB_EPOCH_QUERY (R300). -/
def epochQuery (s : State) : Word :=
  let q := regGet s 0x1000 0 &&& 0xFFFF
  match nmGet? s.cfg.live.shards q.toNat with
  | none => q
  | some c =>
    let d := shardDyn s q.toNat
    let st := match d.st with | .clean => 0 | .sweeping => 1 | .written => 2 | .redoing => 3 | .ready => 4 | .held => 5
    word (q.toNat + at_ 16 (bit (d.epoch && !capMode c)) + at_ 17 st + at_ 20 (bit (capMode c)) + at_ 21 1)

/-- A half of the open-group mask. -/
def txgOpen (s : State) (half : Nat) : Word :=
  word ((List.range 32).foldl (fun a k => a + at_ k (bit (s.step.txgs.any fun g => g.group = 32 * half + k))) 0)

/-- HUB_SYS_DIM_n. -/
def sysDim (s : State) (n : Nat) : Word :=
  match s.cfg.live.system.dims[n]? with
  | some d => if s.cfg.live.isImage then word (d.1 % 2 ^ 14 + at_ 16 (d.2 % 2 ^ 13)) else 1
  | none => 1

/-- HUB_SYS_RINGS. -/
def sysRings (s : State) : Word :=
  word ((List.range 3).foldl (fun a d => a + at_ (9 * d) ((ringSet s.cfg.live d).foldl (fun b n => b + 2 ^ n) 0)) 0)

/-- HUB_BYPASS_STATUS. -/
def bypassStatus (s : State) : Word :=
  let d := s.hz.drop
  word ((d.cas.map (·.toNat)).getD 0 + at_ 13 (bit d.cas.isSome) + at_ 14 (bit d.halt) + at_ 15 (bit (d.halt && d.cut)) +
    at_ 16 d.drops.toNat)

/-- A numeric total that HUB_TEN_NUM_SEL selects. -/
def selectedTotal (s : State) : Nat :=
  let v := regGet s 0x1050 0
  let c := nmGet countsZero s.units.totals (fld v 0 4)
  match fld v 4 2 with | 0 => c.sat | 1 => c.flush | 2 => c.nan | _ => c.inf

/-- The rate of a pacer domain (R676). -/
def domainRate (s : State) (d : Nat) : Nat :=
  let lim := regGet s 0x3000 0x0230FF1F
  let floor := fld lim 0 8
  let p := s.units.power
  if s.units.acorns.failed.contains 9 then floor
  else max floor (min (min (fld lim 8 8) (nmGet 255 p.droop d)) (min (nmGet 255 p.thermal d) p.power))

/-- Throttle episodes end where a domain is no longer below the POLICY floor (R684). -/
def endEpisodes (s : State) : State :=
  { s with units := { s.units with power := { s.units.power with
    episode := s.units.power.episode.filter fun d => domainRate s d < s.cfg.live.policy.throttleFloor } } }

/-- HUB_PACE_STATUS. -/
def paceStatus (s : State) : Word :=
  let p := s.units.power
  let ceil := fld (regGet s 0x3000 0x0230FF1F) 8 8
  word (bit ((List.range 7).any fun d => decide (nmGet 255 p.droop d < ceil)) + at_ 1 (bit ((List.range 7).any fun d => decide (nmGet 255 p.thermal d < ceil))) +
    at_ 2 (bit (decide (p.power < ceil))) + at_ 3 (bit (p.tenants.any fun e => decide (e.2 < ceil))) + at_ 4 (bit p.capMiss) +
    at_ 5 (bit ((List.range 7).any fun d => decide (domainRate s d < s.cfg.live.policy.throttleFloor))))

/-- The highest of some temperature readings. -/
def topTemp (s : State) (l : List Nat) : Nat := l.foldl (fun m d => max m (nmGet 0 s.units.power.temps d).toNat) 0

/-- Halt and service bits of an Acorn. -/
def acornBits (a : Acorn) : Nat := bit a.up + at_ 1 (bit a.mismatch) + at_ 2 (bit a.selftest)

/-- HUB_CUPULE_STATUS; the time left on a running lease is free (timing). -/
def cupuleStatus (s : State) : State × Word :=
  let c := s.units.acorns.cupule
  let x := takeNat s
  let left := if c.holder = 0 || !c.lease then 0 else x.2 % 3001
  (x.1, word (c.holder % 4 + at_ 2 (bit c.deferent) + at_ 3 (bit c.parity) + at_ 4 (c.lastBy % 4) + at_ 6 (bit s.units.fuses.leadSel) +
    at_ 16 left))

/-- HUB_SPINE_MODS_LO and _HI. -/
def spineWord (s : State) (hi : Bool) : Word :=
  let f := fun (first w l : Nat) => (List.range 4).foldl (fun a n => a + at_ (l + w * n) (spineMods s (first + n) % 2 ^ w)) 0
  if hi then word (f 8 3 0 + at_ 12 (spineMods s 12 % 4) + at_ 14 (spineMods s 13 % 4)) else word (f 0 4 0 + f 4 3 16)

/-- A word of a byte list. -/
def wordAt (bs : List Byte) (k : Nat) : Word := word (leNat (padTo 4 0 ((bs.drop (4 * k)).take 4)))

/-- Levels on the keep outputs. -/
def keepLevels (s : State) : Nat := (List.range 9).foldl (fun a n => a + at_ n (bit (keepHigh s n))) 0

/-- A register of the HUB window below the queue blocks that holds more than what was written. -/
def readHub (s : State) (off : Nat) : State × Word :=
  match off with
  | 0x0000 => (s, 0xEC0AE040)
  | 0x0004 => (s, word (s.cfg.live.package.toNat + at_ 16 (s.cfg.live.sysSize % 2 ^ 14)))
  | 0x0014 => (s, cfgStatus s)
  | 0x0020 => (s, s.cfg.live.spid.setWidth 32)
  | 0x0024 => (s, (s.cfg.live.spid >>> 32).setWidth 32)
  | 0x0080 => (s, bootStatus s)
  | 0x0084 => (s, word (s.units.boot.svn.toNat + at_ 12 s.units.fuses.svnMin.toNat + at_ 24 s.units.boot.abi.toNat))
  | 0x008C => (s, word (at_ 8 (bit (!s.units.boot.resets.isEmpty))))
  | 0x0090 => (s, spineWord s false)
  | 0x0094 => (s, spineWord s true)
  | 0x1000 => (s, epochQuery s)
  | 0x1004 => (s, txgOpen s 0)
  | 0x1008 => (s, txgOpen s 1)
  | 0x1014 => (s, word (keepLevels s + at_ 9 (bit s.hz.drop.wdog) + at_ 10 (bit (s.hz.drop.dropped || s.units.boot.join))))
  | 0x1018 => (s, bypassStatus s)
  | 0x1020 => (s, sysDim s 0)
  | 0x1024 => (s, sysDim s 1)
  | 0x1028 => (s, sysDim s 2)
  | 0x102C => (s, sysRings s)
  | 0x1044 => (s, (qOf s (regGet s 0x1040 0).toNat).cursor.setWidth 32)
  | 0x1048 => (s, ((qOf s (regGet s 0x1040 0).toNat).cursor >>> 32).setWidth 32)
  | 0x1060 => (s, word (if s.cfg.live.isImage then (freeFrames s 0).length else 0))
  | 0x1064 => (s, word (if s.cfg.live.isImage then (freeFrames s 1).length else 0))
  | 0x2000 => (s, (regGet s 0x2000 0 &&& 0x3F) ||| word (at_ 8 (bit s.units.acorns.fatal)))
  | 0x2008 => (s, (regGet s 0x2008 0 &&& 3) ||| word (at_ 16 (satTo 0x3FFF (plistUsed s 0))))
  | 0x200C => (s, word (plistUsed s 1))
  | 0x2010 => (s, s.units.integ.ceLast)
  | 0x2014 => (s, s.units.integ.logSeq)
  | 0x3004 => (s, word (domainRate s 0 + at_ 8 (domainRate s 1) + at_ 16 (domainRate s 2) + at_ 24 (domainRate s 3)))
  | 0x3008 => (s, word (domainRate s 4 + at_ 8 (domainRate s 5) + at_ 16 (domainRate s 6)))
  | 0x300C => (s, paceStatus s)
  | 0x3010 => (s, word (s.units.power.short.toNat + at_ 16 s.units.power.long.toNat))
  | 0x3014 => (s, word (topTemp s [0] + at_ 8 (topTemp s [1, 2, 3, 4]) + at_ 16 (topTemp s [8, 9, 10, 11]) + at_ 24 (topTemp s [5, 6])))
  | 0x3020 => (s, word (s.units.power.state % 4 + at_ 2 (bit s.units.power.refused) + at_ 4 (s.units.power.why % 8) +
      at_ 16 (s.units.power.doze.foldl (fun a g => a + 2 ^ g) 0)))
  | 0x3028 => (s, word s.units.power.pipDraw.toNat)
  | 0x3100 => (s, if s.units.acorns.cupule.deferent then 0 else s.units.acorns.cupule.epoch)
  | 0x3104 => cupuleStatus s
  | 0x310C => (s, word (acornBits s.units.acorns.a + at_ 8 (acornBits s.units.acorns.b) + at_ 12 (bit s.units.acorns.fwFlash) +
      at_ 16 s.units.acorns.unitFail.toNat + at_ 24 s.units.acorns.recovers.toNat))
  | 0x3110 => (s, word (s.units.acorns.a.reach.toNat + at_ 16 s.units.acorns.b.reach.toNat))
  | 0x311C => (s, word (at_ 16 (bit s.units.acorns.running)))
  | _ =>
    if inRange off 0x40 0x30 then (s, wordAt s.cfg.live.digest ((off - 0x40) / 4))
    else if inRange off 0x2020 0x20 then
      (s, wordAt (nmGet [] s.units.integ.log ((regGet s 0x2018 0).toNat % 1024)) ((off - 0x2020) / 4))
    else (s, match plainHub off with | some f => regGet s off f.1 &&& f.2 | none => 0)

/-- The word of a queue block of a plane (Table 8). -/
def queueWord (p : Plane) (cq : Nat) (q off : Nat) : Word :=
  let e := planeQueue p q
  match off with
  | 0x00 => word (bit e.en + at_ 4 e.tenant.toNat + at_ 8 e.group.toNat + at_ 12 e.weight.toNat)
  | 0x04 => word e.sqEntries.toNat
  | 0x08 => word e.hbase.toNat
  | 0x0C => word e.cqEntries.toNat
  | 0x10 => word (e.sqBase.toNat % 2 ^ 32 / 2 ^ 12 * 2 ^ 12)
  | 0x14 => word (e.sqBase.toNat / 2 ^ 32)
  | 0x18 => word (cq % 2 ^ 32 / 32 * 32)
  | 0x1C => word (cq / 2 ^ 32)
  | _ => 0

/-- The word of HUB_SYNC_OWNER_k of a plane. -/
def ownerWord (p : Plane) (k : Nat) : Word :=
  word ((List.range 8).foldl (fun a j => a + at_ (4 * j) (planeSyncOwner p (8 * k + j)).toNat) 0)

/-- An SH register as the shadow view shows it (R177). -/
def shadowWord (s : State) (x : Nat) : Word :=
  if inRange x 0x4000 0x2000 then
    queueWord s.cfg.shadow (planeQueue s.cfg.shadow ((x - 0x4000) / 0x20)).cqBase.toNat ((x - 0x4000) / 0x20) (x % 0x20)
  else if inRange x 0x8000 0x2000 then ownerWord s.cfg.shadow ((x - 0x8000) / 4)
  else 0

/-- Waits and gates on a sync object. -/
def syncWaiters (s : State) (k : Nat) : Nat :=
  (s.fe.ops.filter fun o => (o.phase = .running && o.started && dOpcode o.desc = opWait && dField o.desc 24 2 = k && o.met.isNone) ||
    (o.phase = .waiting && dPreWait o.desc && dPreSync o.desc = k && !gateOpen s o)).length

/-- Set a latch of a requester. -/
def setLatch (s : State) (r : Requester) (entry : Nat) (v : Word) : State :=
  { s with latches := nmSet s.latches (reqNumber r * 2 ^ 16 + entry) v }

/-- A latch of a requester. -/
def latchOf (s : State) (r : Requester) (entry : Nat) : Word := nmGet 0 s.latches (reqNumber r * 2 ^ 16 + entry)

/-- Latch entry of a sync object's staged low word. -/
def stagedEntry (k : Nat) : Nat := 2 ^ 14 + k

/-- Latch entry of HUB_TEN_NUM_HI. -/
def totalEntry : Nat := 2 ^ 15

/-- A read of VALUE_LO latches VALUE_HI for the requester (R731). -/
def readValueLo (s : State) (r : Requester) (k : Nat) : State × Word :=
  let v := syncGet s k
  (setLatch s r k ((v >>> 32).setWidth 32), v.setWidth 32)

/-- A read of HUB_TEN_NUM_LO latches HUB_TEN_NUM_HI for the requester (R607, R610). -/
def readTenNumLo (s : State) (r : Requester) : State × Word :=
  let n := selectedTotal s
  (setLatch s r totalEntry (word (n / 2 ^ 32)), word n)

/-- A register of a sync-object entry (Table 12). -/
def readSync (s : State) (r : Requester) (k off : Nat) : State × Word :=
  match off with
  | 0x00 => readValueLo s r k
  | 0x04 => (s, latchOf s r k)
  | 0x14 => (s, word ((planeSyncOwner s.cfg.live k).toNat + at_ 16 (satTo 0xFFF (syncWaiters s k))))
  | _ => (s, 0)

/-- A field of a doorbell page (Table 6 of *Host port, commands and handles*). -/
def readDoorbell (s : State) (q off : Nat) : Word :=
  let c := qOf s q
  let par := planeQueue s.cfg.live q
  match off with
  | 0x04 => c.h
  | 0x08 => c.c
  | 0x0C => c.t
  | 0x10 =>
    word (bit par.en + at_ 1 (bit (s.fe.ops.any fun o => o.queue = q && o.phase = .done && !cqRoom s q)) +
      at_ 2 (bit (fetchDue s q && !slotFree s q c.h)) + at_ 3 (bit (fetchDue s q && opsStalled s par.tenant)) +
      at_ 4 (bit (s.fe.ops.any fun o => o.queue = q && o.phase = .waiting && barred s.fe.ops o)) + at_ 8 (bit c.badDb))
  | _ => 0

/-- DONE, REFUSED and ERRORS of a margin result register, and DONE of a retire status register, whose cold value differs. -/
def marginWord (s : State) (off : Nat) : Word := regGet s off 0

/-- A register of an SBD window. -/
def readSbd (s : State) (n off : Nat) : State × Word :=
  let base := dieBase n
  let ch := chanOf s (64 * n + (regGet s (base + 0x100) 0).toNat % 64)
  let c := 64 * n + (regGet s (base + 0x100) 0).toNat % 64
  match off with
  | 0x000 => (s, (s.units.ues.avail >>> (64 * n)).setWidth 32)
  | 0x004 => (s, (s.units.ues.avail >>> (64 * n + 32)).setWidth 32)
  | 0x008 => let f := nmGet (0, 0, false) s.units.ues.faults n; (s, word (f.1 % 2 ^ 16 + at_ 16 (f.2.1 % 2 ^ 9) + at_ 25 (bit f.2.2)))
  | 0x104 => (s, word (bit (ch.inService && !ch.failed) + at_ 1 (bit (s.units.proc.contains c)) + at_ 2 (bit ch.retrain) +
      at_ 3 (bit ch.failed) + at_ 4 (ch.spares % 16) + at_ 8 (bit ch.hot) + at_ 9 ((ch.behind.foldl (fun m e => max m e.2) 0) % 8) +
      at_ 16 ch.temp.toNat))
  | 0x108 => (s, ch.ce)
  | 0x10C => (s, ch.ue)
  | 0x110 => (s, word (ch.retries.toNat + at_ 16 ch.repairs.toNat + at_ 23 ch.lastLane.toNat))
  | 0x304 => (s, marginWord s (base + 0x304))
  | 0x314 => (s, marginWord s (base + 0x314))
  | 0x324 => (s, (regGet s (base + 0x324) 0x200 &&& 0x300) ||| word (satTo 255 (nmGet [] s.units.fuses.retired n).length))
  | 0x404 => (s, word ((s.units.proc.filter fun k => k / 64 = n).length % 128 + at_ 7 (bit (s.units.pips.runs.any fun e => e.1 / 64 = n && (chanOf s e.1).hot && s.units.pips.waits.any fun w => w.1 = e.1 && !w.2)) +
      at_ 8 (bit (s.units.pips.waits.any fun w => w.1 / 64 = n && w.2)) + at_ 9 (bit (s.units.pips.runs.any fun e => e.1 / 64 = n))))
  | 0x600 => (s, regGet s (base + 0x600) 0 &&& 0x403FF)
  | 0x604 => (s, regGet s (base + 0x604) 0)
  | 0x800 => (s, word ((List.range 16).foldl (fun a k =>
      let m := nmGet ⟨false, 0, false⟩ s.fe.modules (16 * n + k)
      a + at_ k (bit m.up) + at_ (16 + k) (bit m.out)) 0))
  | _ => (s, match plainSbd off with | some f => regGet s (base + off) f.1 &&& f.2 | none => 0)

/-- Whether the migration engine of a bridge is copying. -/
def engineBusy (s : State) (m : Nat) : Bool := (movesUnderWay s).any fun x => moveEngine s x = m

/-- A register of a TB window. TB_MIG_STATUS.SWEEP_WAIT is a matter of timing and free while a copy and a sweep run together. -/
def readTb (s : State) (m off : Nat) : State × Word :=
  let base := dieBase (4 + m)
  let c := 32 * m + (regGet s (base + 0x104) 0).toNat % 32
  let t := s.units.tier
  match off with
  | 0x000 => (s, (s.units.ues.avail >>> (256 + 32 * m)).setWidth 32)
  | 0x008 => let f := nmGet (0, 0, false) s.units.ues.faults (4 + m); (s, word (f.1 % 2 ^ 16 + at_ 16 (f.2.1 % 2 ^ 9) + at_ 25 (bit f.2.2)))
  | 0x100 => (s, word (t.lpChannels % 64 + at_ 8 t.lpRate.toNat + at_ 16 (bit (t.selfRefresh.contains m)) + at_ 17 (bit (t.hubLost.contains m))))
  | 0x108 =>
    let x := takeNat s
    (x.1, word (bit (c % 32 < t.lpChannels && !t.lpFailed.contains c) + at_ 1 (bit (t.lpFailed.contains c)) + at_ 4 (x.2 % 16)))
  | 0x10C => let f := nmGet (0, 0, 0) t.lecc c; (s, word (f.1 % 2 ^ 16 + at_ 16 (f.2.1 % 256) + at_ 24 (f.2.2 % 256)))
  | 0x204 =>
    let x := takeBit s
    let wait := engineBusy s m && !s.step.sweeps.isEmpty && x.2
    (x.1, (regGet s (base + 0x204) 0 &&& 0xFFFFFF00) ||| word (bit (engineBusy s m) + at_ 1 (bit wait)))
  | 0x304 => (s, marginWord s (base + 0x304))
  | 0x324 => (s, (regGet s (base + 0x324) 0x200 &&& 0x300) ||| word (satTo 255 (nmGet [] s.units.fuses.retired (4 + m)).length))
  | 0x600 => (s, regGet s (base + 0x600) 0 &&& 0x403FF)
  | 0x604 => (s, regGet s (base + 0x604) 0)
  | _ => (s, match plainTb off with | some f => regGet s (base + off) f.1 &&& f.2 | none => 0)

/-- A register of a Hazel port window. -/
def readHz (s : State) (p off : Nat) : Word :=
  let x := portOf s p
  match off with
  | 0x000 => word (bit x.up + at_ 1 x.width.toNat + at_ 3 (bit x.los) + at_ 4 (bit x.across) +
      at_ 5 (bit (s.hz.held.any fun h => h.1 = p && h.2.plan ≠ BitVec.allOnes 32 && h.2.spid ≠ s.cfg.live.spid)) +
      at_ 6 (bit x.out) + at_ 16 x.peer.toNat)
  | 0x010 => x.fecCorr
  | 0x014 => x.fecUncorr
  | 0x018 => x.replays
  | 0x01C => x.stale
  | 0x020 => x.creditWait
  | _ => 0

/-- A register of the HUSK mirror; LINK is the hub's own (R664). -/
def readMirror (s : State) (off : Nat) : Word :=
  let v := nmGet 0 s.units.mirror.words off
  if off = 4 then (v &&& 0xFFFFFFFE) ||| word (bit s.units.mirror.link) else v

/-- What a register reads, with what the read changes: a latch, or a free value used. -/
def regRead (s : State) (r : Requester) (off : Nat) : State × Word :=
  if off = 0x1054 then readTenNumLo s r
  else if off = 0x1058 then (s, latchOf s r totalEntry)
  else if off < 0x4000 then readHub s off
  else if off < 0x6000 then
    let q := (off - 0x4000) / 0x20
    (s, queueWord s.cfg.live (cqBase s q) q (off % 0x20))
  else if off < 0x8000 then (s, 0)
  else if off < 0xA000 then (s, ownerWord s.cfg.live ((off - 0x8000) / 4))
  else if off < 0x10000 then (s, 0)
  else if off < 0x11000 then readTenant s (BitVec.ofNat 4 ((off - 0x10000) / 0x100)) (off % 0x100)
  else if off < 0x100000 then (s, 0)
  else if off < 0x500000 then readSbd s (windowDie off) (off % 0x100000)
  else if off < 0x700000 then readTb s (windowDie off - 4) (off % 0x100000)
  else if off < 0x712000 then (s, readHz s ((off - 0x700000) / 0x1000) (off % 0x1000))
  else if inRange off 0x800000 0x1000 then (s, readMirror s (off - 0x800000))
  else if inRange off syncWindow 0x100000 then readSync s r ((off - syncWindow) / 0x40) (off % 0x40)
  else if inRange off doorbellPage 0x100000 then (s, readDoorbell s ((off - doorbellPage) / 0x1000) (off % 0x1000))
  else if inRange off shadowWindow 0x900000 then (s, shadowWord s (off - shadowWindow))
  else (s, 0)

/-- A register read by a requester: refused, left waiting for its die, or answered. -/
def readReg (r : Requester) (off : Nat) (act : State → State × Word) (s : State) : State :=
  match readDenied s r off with
  | some st => answerRead s r st 0
  | none =>
    if dieLost s off then waitReg s ⟨r, off, none⟩
    else let x := act s; answerRead x.1 r stOk x.2

/-! ### What a plain write stores -/

/-- The value of an RW word after a write, its other bits as they stand. -/
def mergeWord (old v mask : Word) : Word := (old &&& ~~~mask) ||| (v &&& mask)

/-- The RW bits of a register whose fields live in units rather than in its word. -/
def unitRw (off : Nat) : Word :=
  if off = 0x0080 then 0xFFFF0000
  else if off = 0x1018 then 0xFFFF0000
  else if off = 0x310C then 0xFF000000
  else if inRange off 0x100000 0x400000 then
    (match off % 0x100000 with | 0x008 => 0xFFFF | 0x108 => 0xFFFFFFFF | 0x10C => 0xFFFFFFFF | 0x110 => 0x7FFFFF | _ => 0)
  else if inRange off 0x500000 0x200000 then (match off % 0x100000 with | 0x008 => 0xFFFF | 0x10C => 0xFFFFFFFF | _ => 0)
  else if inRange off 0x700000 0x12000 then (if [0x010, 0x014, 0x018, 0x01C, 0x020].contains (off % 0x1000) then 0xFFFFFFFF else 0)
  else 0

/-- COUNT of a die's UE-fault register. -/
def setFaults (s : State) (d n : Nat) : State :=
  let f := nmGet (0, 0, false) s.units.ues.faults d
  { s with units := { s.units with ues := { s.units.ues with faults := nmSet s.units.ues.faults d (n, f.2.1, f.2.2) } } }

/-- Store the RW fields of a register whose fields live in units. -/
def unitWrite (s : State) (off : Nat) (v : Word) : State :=
  if off = 0x0080 then { s with units := { s.units with boot := { s.units.boot with warms := BitVec.ofNat 16 (fld v 16 16) } } }
  else if off = 0x1018 then updDrop s fun d => { d with drops := BitVec.ofNat 16 (fld v 16 16) }
  else if off = 0x310C then { s with units := { s.units with acorns := { s.units.acorns with recovers := BitVec.ofNat 8 (fld v 24 8) } } }
  else if inRange off 0x100000 0x400000 then
    let n := windowDie off
    let c := 64 * n + (regGet s (dieBase n + 0x100) 0).toNat % 64
    match off % 0x100000 with
    | 0x008 => setFaults s n (fld v 0 16)
    | 0x108 => updChan s c fun x => { x with ce := v }
    | 0x10C => updChan s c fun x => { x with ue := v }
    | 0x110 => updChan s c fun x => { x with retries := BitVec.ofNat 16 (fld v 0 16), repairs := BitVec.ofNat 7 (fld v 16 7) }
    | _ => s
  else if inRange off 0x500000 0x200000 then
    let d := windowDie off
    match off % 0x100000 with
    | 0x008 => setFaults s d (fld v 0 16)
    | 0x10C =>
      let c := 32 * (d - 4) + (regGet s (dieBase d + 0x104) 0).toNat % 32
      { s with units := { s.units with tier := { s.units.tier with lecc := nmSet s.units.tier.lecc c (fld v 0 16, fld v 16 8, fld v 24 8) } } }
    | _ => s
  else if inRange off 0x700000 0x12000 then
    let p := (off - 0x700000) / 0x1000
    match off % 0x1000 with
    | 0x010 => updPort s p fun x => { x with fecCorr := v }
    | 0x014 => updPort s p fun x => { x with fecUncorr := v }
    | 0x018 => updPort s p fun x => { x with replays := v }
    | 0x01C => updPort s p fun x => { x with stale := v }
    | 0x020 => updPort s p fun x => { x with creditWait := v }
    | _ => s
  else s

/-- Write a value into the RW fields of a register that `mask` names. -/
def storeReg (s : State) (off : Nat) (v mask : Word) : State :=
  match plainReg off with
  | some f => regSet s off (mergeWord (regGet s off f.1) v (f.2 &&& mask))
  | none => if unitRw off &&& mask = 0 then s else unitWrite s off (mergeWord (regRead s .tap off).2 v mask)

/-- Clear the RW1C bits that a write of ones names (R20). -/
def clearBits (s : State) (off : Nat) (v : Word) : State :=
  match off with
  | 0x0014 => { s with cfg := { s.cfg with
      lkDrop := s.cfg.lkDrop && !v.getLsbD 5, pairBad := s.cfg.pairBad && !v.getLsbD 6 } }
  | 0x0080 => { s with units := { s.units with boot := { s.units.boot with miswired := s.units.boot.miswired && !v.getLsbD 9 } } }
  | 0x2000 => regSet s 0x2000 (regGet s 0x2000 0 &&& ~~~(v &&& 0x3F))
  | 0x2008 => regSet s 0x2008 (regGet s 0x2008 0 &&& ~~~(v &&& 3))
  | 0x300C => { s with units := { s.units with power := { s.units.power with capMiss := s.units.power.capMiss && !v.getLsbD 4 } } }
  | 0x3020 => { s with units := { s.units with power := { s.units.power with refused := s.units.power.refused && !v.getLsbD 2 } } }
  | 0x3104 => { s with units := { s.units with acorns := { s.units.acorns with
      cupule := { s.units.acorns.cupule with parity := s.units.acorns.cupule.parity && !v.getLsbD 3 } } } }
  | _ =>
    if inRange off 0x100000 0x600000 then
      match off % 0x100000 with
      | 0x304 => regSet s off (regGet s off 0 &&& ~~~(v &&& 2))
      | 0x314 => if off < 0x500000 then regSet s off (regGet s off 0 &&& ~~~(v &&& 2)) else s
      | 0x324 => regSet s off (regGet s off 0x200 &&& ~~~(v &&& 0x100))
      | 0x600 => regSet s off (regGet s off 0 &&& ~~~(v &&& 0x40000))
      | _ => s
    else s

end Sys2Proof.Machine
end

