-- ==== Sys2Proof/Machine/CfgImage.lean ====
section
/-! DEFINITION. The Limbelia image: staging, authentication, the checks of CFG_COMMIT, the quiet point and the switch, and the
register writes that touch the shadow plane, the seal and the paired fields (*The Limbelia image*). -/

namespace Sys2Proof.Machine

/-! ### File layout (R168, Tables 3 and 4) -/

/-- `n` bytes of a byte list from byte `b`. -/
def cut (bs : List Byte) (b n : Nat) : List Byte := (bs.drop b).take n

/-- `n` bytes of a byte list from byte `b`, little-endian. -/
def num (bs : List Byte) (b n : Nat) : Nat := leNat (cut bs b n)

/-- A directory entry. -/
structure DirEntry where
  type  : Nat
  sver  : Nat
  items : Nat
  off   : Nat
  bytes : Nat
deriving DecidableEq, Repr

/-- The directory of an image. -/
def dirOf (img : List Byte) : List DirEntry :=
  (List.range (num img 40 2)).map fun k =>
    let b := 128 + 32 * k
    ⟨num img b 2, num img (b + 2) 2, num img (b + 4) 4, num img (b + 8) 8, num img (b + 16) 8⟩

/-- Limits of a section: bytes, and entries where Table 1 gives their number (those of DMAP lie in its contents, `dmapGood`); none for a type
outside Table 1. -/
def sectionLimit (type : Nat) : Option (Nat × Option Nat) :=
  match type with
  | 0x01 => some (2 ^ 16, none)
  | 0x02 => some (2 ^ 20, some 16)
  | 0x03 => some (2 ^ 14, some 256)
  | 0x04 => some (2 ^ 14, some 16384)
  | 0x05 => some (2 ^ 20, none)
  | 0x06 => some (2 ^ 23, some 65536)
  | 0x07 => some (2 ^ 24, some 256)
  | 0x08 => some (2 ^ 16, some 256)
  | 0x09 => some (2 ^ 26, some 1024)
  | 0x0A => some (2 ^ 26, some 4096)
  | 0x0B => some (2 ^ 28, some 8191)
  | 0x0C => some (2 ^ 24, some 1024)
  | 0x0D => some (2 ^ 12, none)
  | 0x0E => some (2 ^ 12, none)
  | 0x0F => some (2 ^ 20, some 65536)
  | 0xF0 => some (2 ^ 14, none)
  | 0xFF => some (2 ^ 12, none)
  | _ => none

/-- Whether a section is within its limit. -/
def withinLimit (e : DirEntry) : Bool :=
  match sectionLimit e.type with
  | none => false
  | some l => decide (e.bytes ≤ l.1) && (match l.2 with | some n => decide (e.items ≤ n) | none => true)

/-- Sections lie at multiples of 4 KiB in ascending TYPE order, from `at_` on, without overlap. -/
def sectionsOrdered : Nat → Nat → List DirEntry → Bool
  | _, _, [] => true
  | lo, ty, e :: l => decide (e.off % 4096 = 0) && decide (lo ≤ e.off) && decide (ty < e.type + 1) && sectionsOrdered (e.off + e.bytes) (e.type + 1) l

/-- The directory entry of a type. -/
def entryOf (img : List Byte) (type : Nat) : Option DirEntry := (dirOf img).find? fun e => e.type = type

/-- Where the SIGNATURE section starts. -/
def signatureAt (img : List Byte) : Nat := ((entryOf img 0xFF).map (·.off)).getD img.length

/-- IFLAGS.DELTA. -/
def isDelta (img : List Byte) : Bool := num img 6 2 % 2 = 1

/-- Check 1: the header and the directory (R168, R173; log 84); what its last limit asks of the contents of DMAP is `dmapGood`. -/
def headerGood (img : List Byte) : Bool :=
  let d := dirOf img
  let has := fun t => d.any fun e => e.type = t
  num img 0 4 = 0x3149424C && num img 4 2 = 1 && num img 6 2 < 4 && num img 8 8 = img.length && num img 44 4 = 128 &&
  num img 25 1 < 0x20 && num img 42 2 = 0 && num img 96 32 = 0 && decide (img.length ≤ 2 ^ 29) &&
  (isDelta img || num img 48 48 = 0) &&
  sectionsOrdered (128 + 32 * d.length) 0 d && d.all withinLimit &&
  (match d.getLast? with | some e => e.type = 0xFF && e.off + e.bytes = img.length | none => false) && has 0xF0 &&
  (if isDelta img then !has 5 else (List.range 15).all fun k => has (k + 1))

/-- Contents of a section. -/
def sectionBytes (img : List Byte) (type : Nat) : List Byte :=
  match entryOf img type with | some e => cut img e.off e.bytes | none => []

/-- The image digest (R169). -/
def imageDigest (img : List Byte) : List Byte := sha384 (img.take (signatureAt img))

/-- Checks 2 to 4: the root key, the signer's certificate and the image's signature (Table 5). -/
def signaturesGood (root : List Byte) (img : List Byte) : Bool :=
  let c := sectionBytes img 0xF0
  sha384 (cut c 0 97) = root && verifySig (cut c 0 97) (sha384 (cut c 97 109)) (cut c 206 96) &&
  verifySig (cut c 97 97) (imageDigest img) (cut (sectionBytes img 0xFF) 0 96)

/-- Checks 5 to 7: SVN, the signer's permissions, the firmware interface. -/
def versionsGood (s : State) (img : List Byte) : Bool :=
  let c := sectionBytes img 0xF0
  let svn := num img 28 4
  let perm := num c 202 4
  decide (num c 194 4 ≤ svn) && decide (svn ≤ num c 198 4) && decide ((regGet s 0x1C 0).toNat ≤ svn) &&
  (if isDelta img then perm / 2 % 2 = 1 else perm / 4 % 2 = 1) && (num img 6 2 / 2 % 2 = 0 || perm % 2 = 1) &&
  decide (num img 32 4 ≤ s.units.boot.abi.toNat)

/-! ### Planes -/

/-- The entries of FORMATS, 256 bytes each (Table 8 of *Number formats and arithmetic*). -/
def readFormats (items : Nat) (bs : List Byte) : NMap FormatEntry :=
  (List.range items).map fun k =>
    let b := 256 * k
    (k, ⟨num bs b 1, num bs (b + 1) 1, num bs (b + 2) 1 = 1, word (num bs (b + 4) 4)⟩)

/-- Entries of a section that follow one another without gaps (log 84), each read by `one`, which gives its length too. -/
def readEntries {α : Type} (one : List Byte → Nat × α) : Nat → Nat → List Byte → NMap α
  | 0, _, _ => []
  | n + 1, k, bs => let x := one bs; (k, x.2) :: readEntries one n (k + 1) (bs.drop x.1)

/-- 64-bit words of a byte string. -/
def dwordsAt (bs : List Byte) (b n : Nat) : List DWord := (List.range n).map fun k => BitVec.ofNat 64 (num bs (b + 8 * k) 8)

/-- A UEPROG entry: header and stages (Tables 1 and 3 of *Update engines and parameter state*). -/
def readUeProgram (bs : List Byte) : Nat × UeProgram :=
  let n0 := num bs 1 1
  let n1 := if num bs 0 1 = 2 then num bs 2 1 else 0
  (256 + 8 * (n0 + n1),
    { fields := BitVec.ofNat 5 (num bs 3 1), lrSrc := num bs 4 1 = 1, intKind := num bs 5 1 = 1, kEma := num bs 8 4
      cplan := if num bs 12 4 = 0xFFFFFFFF then none else some (num bs 12 4)
      ks := (List.range 16).map fun k => word (num bs (16 + 4 * k) 4)
      pass0 := dwordsAt bs 256 n0, pass1 := dwordsAt bs (256 + 8 * n0) n1 })

/-- A PIPPROG entry: header and operation words (Tables 4 and 5 of *Pips: logic in the sense amplifiers*). -/
def readPipProgram (bs : List Byte) : Nat × PipProgram :=
  (64 + 8 * num bs 0 4,
    { hot := num bs 6 1 % 2 = 1, maxA := num bs 8 2, maxB := num bs 10 2, maxC := num bs 12 2, absTop := num bs 14 2
      ops := dwordsAt bs 64 (num bs 0 4) })

/-- A phase entry (Table 6 of *Hazel fabric and memory-side collectives*). -/
def readPhase (bs : List Byte) (b : Nat) : CPhase :=
  let pkg := fun (v : Nat) => BitVec.ofNat 13 v
  { op := num bs b 1, dim := num bs (b + 1) 1, rings := BitVec.ofNat 9 (num bs (b + 2) 2), span := num bs (b + 4) 2, pos := num bs (b + 6) 2
    first := num bs (b + 8) 4, count := num bs (b + 12) 4
    plus := pkg (num bs (b + 16) 2), plusRtd := num bs (b + 16) 2 / 2 ^ 15 % 2 = 1
    minus := pkg (num bs (b + 18) 2), minusRtd := num bs (b + 18) 2 / 2 ^ 15 % 2 = 1, part := num bs (b + 20) 2
    standin := if num bs (b + 22) 2 % 2 ^ 13 = 0x1FFF then none else some (pkg (num bs (b + 22) 2)) }

/-- A CPLANS entry: header and phases (Tables 5 and 6 of the same chapter); where a gather's narrow tiles lie the tables do not say
(log 51). -/
def readCPlan (bs : List Byte) : Nat × CPlan :=
  let n := num bs 1 1
  (64 + 32 * n,
    { kind := num bs 0 1, rotate := num bs 2 1, contrib := num bs 3 1 = 1, tiles := num bs 4 4, base := num bs 8 8, frame := num bs 16 4
      group := BitVec.ofNat 14 (num bs 20 2), phases := (List.range n).map fun k => readPhase bs (64 + 32 * k), narrowOffs := [] })

/-- A plane with one section in place of its own. What bytes mean that no table of the manual lays out is `Config.imageSection` (log 84). -/
def applySection (p : Plane) (type items : Nat) (bytes : List Byte) : Plane :=
  let q := (Config.imageSection type bytes p).getD p
  match type with
  | 0x01 => { p with system := q.system }
  | 0x02 => { p with control := q.control, groups := q.groups, granules := q.granules, tenants := q.tenants }
  | 0x03 => { p with queues := q.queues }
  | 0x04 => { p with syncs := q.syncs }
  | 0x05 => { p with dmap := q.dmap }
  | 0x06 => { p with shards := q.shards }
  | 0x07 => { p with ueprogs := readEntries readUeProgram items 0 bytes }
  | 0x08 => { p with formats := readFormats items bytes }
  | 0x09 => { p with stepplans := q.stepplans }
  | 0x0A => { p with cplans := (readEntries readCPlan items 0 bytes).map fun e =>
      (e.1, { e.2 with narrowOffs := (nmGet? q.cplans e.1).elim [] fun c => c.narrowOffs }) }
  | 0x0B => { p with fallback := q.fallback }
  | 0x0C => { p with pipprogs := readEntries readPipProgram items 0 bytes }
  | 0x0D => { p with power := q.power }
  | 0x0E => { p with policy := q.policy }
  | 0x0F => { p with regs := q.regs }
  | _ => p

/-- A plane with an image's header and sections (R170). -/
def applyImage (p : Plane) (img : List Byte) : Plane :=
  let q := (dirOf img).foldl (fun q e => applySection q e.type e.items (cut img e.off e.bytes)) p
  { q with
    isImage := true, spid := BitVec.ofNat 64 (num img 16 8), package := BitVec.ofNat 13 (num img 24 2), sysSize := num img 26 2
    svn := word (num img 28 4), sealing := num img 6 2 / 2 % 2 = 1, digest := imageDigest img
    baseDigest := if isDelta img then cut img 48 48 else [] }

/-- The live plane without the plans of a fallback case. -/
def ownPlane (s : State) : Plane := s.cfg.base.getD s.cfg.live

/-- Whether the DMAP of an image keeps to its limits: 2,432 regions and 64 shared regions (R168, Table 1). -/
def dmapGood (p : Plane) (img : List Byte) : Bool :=
  let d := (applyImage p img).dmap
  decide (d.policies.length ≤ 2432) && decide (d.shared.length ≤ 64)

/-- The checks of Table 6; what they read of sections comes after the signatures have been verified (R172). -/
def imageGood (s : State) (img : List Byte) : Bool :=
  headerGood img && signaturesGood s.units.fuses.rootHash img && versionsGood s img && dmapGood (ownPlane s) img

/-! ### The image store (R166, R170) -/

/-- Address of a bank of the image store. -/
def bankAddr (s : State) (b : Bool) : Nat := imageStoreBase s.cfg.live + (if b then 2 ^ 29 else 0)

/-- What a bank holds, by the length in its header. -/
def bankImage (s : State) (b : Bool) : List Byte :=
  let n := leNat (dRead s (bankAddr s b + 8) 8)
  dRead s (bankAddr s b) (min n (2 ^ 29))

/-- Remove every byte of a bank. -/
def clearBank (s : State) (b : Bool) : State :=
  let a := bankAddr s b
  { s with mem := { s.mem with
      cells := s.mem.cells.filter (fun c => c.1 < a) ++ s.mem.cells.filter (fun c => a + 2 ^ 29 ≤ c.1)
      poison := s.mem.poison.filter fun g => g < a / 64 || (a + 2 ^ 29) / 64 ≤ g } }

/-- Sections laid out at 4 KiB steps from an offset: directory entries with the bytes before each padded. -/
def layOut : Nat → List (DirEntry × List Byte) → List (DirEntry × List Byte)
  | _, [] => []
  | a, x :: l => ({ x.1 with off := a }, x.2) :: layOut ((a + x.2.length + 4095) / 4096 * 4096) l

/-- The bytes of a directory entry. -/
def dirBytes (e : DirEntry) : List Byte :=
  leBytes 2 e.type ++ leBytes 2 e.sver ++ leBytes 4 e.items ++ leBytes 8 e.off ++ leBytes 8 e.bytes ++ leBytes 8 0

/-- Insert a section by ascending TYPE, in place of one of the same TYPE. -/
def putSection (l : List (DirEntry × List Byte)) (x : DirEntry × List Byte) : List (DirEntry × List Byte) :=
  match l with
  | [] => [x]
  | y :: l' => if x.1.type < y.1.type then x :: y :: l' else if x.1.type = y.1.type then x :: l' else y :: putSection l' x

/-- An image's sections with their contents. -/
def sectionsOf (img : List Byte) : List (DirEntry × List Byte) := (dirOf img).map fun e => (e, cut img e.off e.bytes)

/-- A section of the live bank as it is live: QUEUES and SYNC as SH writes have left them (R170). -/
def liveSection (p : Plane) (x : DirEntry × List Byte) : DirEntry × List Byte :=
  let q := applySection p x.1.type x.1.items x.2
  if x.1.type = 0x03 && q.queues ≠ p.queues || x.1.type = 0x04 && q.syncs ≠ p.syncs then
    let bs := Config.sectionOf x.1.type p
    ({ x.1 with bytes := bs.length }, bs)
  else x

/-- The merged image of a delta over a live plane with its bank (R170). -/
def mergeImage (p : Plane) (base delta : List Byte) : List Byte :=
  let all := (sectionsOf delta).foldl putSection ((sectionsOf base).map (liveSection p))
  let l := layOut ((128 + 32 * all.length + 4095) / 4096 * 4096) all
  let len := (l.map fun x => x.1.off + x.2.length).foldl max 0
  let head := cut delta 0 6 ++ leBytes 2 (num delta 6 2 / 2 * 2) ++ leBytes 8 len ++ cut delta 16 24 ++ leBytes 2 l.length ++ cut delta 42 86
  l.foldl (fun acc x => padTo x.1.off 0 acc ++ x.2) (head ++ l.flatMap fun x => dirBytes x.1)

/-- What staging writes into the bank. -/
def stagedBytes (s : State) (img : List Byte) : List Byte :=
  if isDelta img then mergeImage (ownPlane s) (if s.cfg.live.isImage then bankImage s s.cfg.bank else []) img else img

/-- Record a bank digest. -/
def setDigest (s : State) (b : Bool) (d : List Byte) : State :=
  { s with cfg := if b then { s.cfg with digest1 := d } else { s.cfg with digest0 := d } }

/-! ### CFG_STAGE -/

/-- An authenticated image becomes the shadow plane and the staged bank (R166, R175). -/
def stageImage (s : State) (img : List Byte) : State :=
  let b := !s.cfg.bank
  let bytes := stagedBytes s img
  let s := setDigest (dWrite (clearBank s b) (bankAddr s b) bytes) b (sha384 bytes)
  { s with cfg := { s.cfg with shadow := applyImage (ownPlane s) img, staged := true, image := true } }

/-- A failed check: the shadow plane is the live one, the bank is cleared, nothing is staged (R171, R175). -/
def stageFails (s : State) : State :=
  let s := clearBank s (!s.cfg.bank)
  { s with cfg := { s.cfg with shadow := ownPlane s, staged := false, image := false } }

/-- Unit of Table 2 of *Acorns, the Cupule and recovery* that is the configuration loader. -/
def loaderUnit : Nat := 8

/-- CFG_STAGE. -/
def tryCfgStage (s : State) (o : Op) : Outcome :=
  if s.cfg.wait.isSome then .wait
  else if s.units.acorns.failed.contains loaderUnit then .done s (resSt stBusy)
  else match readOperand s o 0 (dSrc o.desc) (dCount o.desc) with
    | none => .wait
    | some x => if imageGood x.s (cleanBytes x) then .done (stageImage x.s (cleanBytes x)) resOk else .done (stageFails x.s) (resSt stCfgAuth)

/-! ### The checks of CFG_COMMIT (R178, R190) -/

/-- A rule that gives ST_BAD_LEN (R121, Table 17 of *Host port, commands and handles*). -/
def planeBadLen (p : Plane) : Bool :=
  p.queues.any (fun e => e.2.en && (e.2.sqEntries = 0 || e.2.cqEntries = 0)) ||
  p.stepplans.any (fun e => e.2.layers.isEmpty && e.2.shards.isEmpty) ||
  p.cplans.any (fun e => e.2.phases.isEmpty) || p.fallback.any fun c => c.plans.any fun e => e.2.phases.isEmpty

/-- A ring size that R736 allows. -/
def ringSize (n : Nat) : Bool := [16, 32, 64, 128, 256, 512, 1024, 2048, 4096, 8192, 16384, 32768, 65536].contains n

/-- Queues that exist, with their numbers. -/
def queuesOf (p : Plane) : List (Nat × QueueParams) := p.queues.filter fun e => e.2.en

/-- Two queues whose handle ranges overlap (R121). -/
def rangesOverlap (p : Plane) : Bool :=
  (queuesOf p).any fun a => (queuesOf p).any fun b =>
    decide (a.1 < b.1) && meets a.2.hbase.toNat a.2.sqEntries.toNat b.2.hbase.toNat b.2.sqEntries.toNat

/-- Ranges that DMAP places, with its pools. -/
def placedRanges (d : DMap) : List (Nat × Nat) :=
  (d.owned.map fun r => (r.base, r.bytes)) ++ (d.shared.map fun r => (r.base, r.bytes)) ++
  (d.gathers.flatMap fun g => (g.copy0, g.bytes) :: (match g.copy1 with | some c => [(c, g.bytes)] | none => [])) ++
  (d.relays.map fun r => (r.base, r.tiles * accTileBytes r.fmt)) ++
  ((d.fastPool ++ d.capPool).map fun r => (r * 2 ^ 30, 2 ^ 30))

/-- A rule that gives ST_LIMIT (R121, R716, R736). -/
def planeLimit (s : State) (p : Plane) : Bool :=
  (queuesOf p).any (fun e => !ringSize e.2.sqEntries.toNat || !ringSize e.2.cqEntries.toNat) || rangesOverlap p ||
  (placedRanges p.dmap).any fun r => decide (capBase ≤ r.1) && decide (capEnd s < r.1 + r.2)

/-- Whether a range lies in a tenant's partition. -/
def inPartition (p : Plane) (t : BitVec 4) (a n : Nat) : Bool := (blocksOf (2 ^ 26) a n).all fun g => granuleOwner p g = some t

/-- Whether a tenant exists in a plane. -/
def enabled (p : Plane) (t : BitVec 4) : Bool := (planeTenant p t.toNat).enabled

/-- Pair 1. -/
def pair1 (p : Plane) : Bool :=
  (queuesOf p).all fun e => e.2.hbase.toNat % e.2.sqEntries.toNat = 0 && decide (e.2.hbase.toNat + e.2.sqEntries.toNat ≤ 65536)

/-- Pair 2: rings in partitions, and nothing of a tenant that does not exist (R586). -/
def pair2 (p : Plane) : Bool :=
  (queuesOf p).all (fun e => inPartition p e.2.tenant e.2.sqBase.toNat (64 * e.2.sqEntries.toNat) && enabled p e.2.tenant) &&
  p.granules.all (fun r => r.count = 0 || enabled p r.owner) && p.syncs.all (fun e => enabled p e.2) &&
  (enabled p 0 || decide (16384 ≤ p.syncs.length)) && p.shards.all (fun e => enabled p e.2.tenant) &&
  p.stepplans.all fun e => enabled p e.2.tenant

/-- Pair 3. -/
def pair3 (p : Plane) : Bool := (queuesOf p).all fun e => (nmGet 0 p.groups e.2.group.toNat).getLsbD e.2.tenant.toNat

/-- Pair 4: a capacity-mode shard has an undo area in its tenant's partition, with a reserve where it speculates (R277). -/
def pair4 (p : Plane) : Bool :=
  p.shards.all fun e => match e.2.mode with
    | .dual => true
    | .capacity b n spec => decide (0 < n) && inPartition p e.2.tenant b (0x1000 + n * (0x1000 + fieldCount e.2 * blockBytes e.2)) &&
        (!spec || decide (0 < undoReserve e.2))

/-- Pair 5. -/
def pair5 (p : Plane) : Bool := p.shards.all fun e => decide (e.2.accBase + tileCount e.2 * accTileBytes e.2.accFmt ≤ fastEnd p)

/-- Pair 6. -/
def pair6 (p : Plane) : Bool := p.pipprogs.all fun e => decide (e.2.absTop ≤ p.dmap.pRows)

/-- Pair 7. -/
def pair7 (p : Plane) : Bool := decide ((p.power.tenants.map (·.2)).sum ≤ p.power.package) && decide (p.power.package ≤ 560)

/-- Pair 8. -/
def pair8 (p : Plane) : Bool :=
  let sum := fun (a n : Nat) => ((List.range n).map fun k => stagingOf p (a + k)).sum
  ((List.range 4).all fun n => decide (sum (64 * n) 64 ≤ 2 ^ 25)) && (List.range 2).all fun m => decide (sum (256 + 32 * m) 32 ≤ 2 ^ 24)

/-- Pair 9: every referenced index exists. -/
def pair9 (p : Plane) : Bool :=
  let coll := fun (i : Option Nat) => match i with | some k => (nmGet? p.cplans k).isSome | none => true
  p.stepplans.all (fun e => e.2.shards.all (fun n => (nmGet? p.shards n).isSome) && coll e.2.norm &&
    e.2.relays.all (fun r => decide (r < p.dmap.relays.length)) && e.2.pips.all (fun n => (nmGet? p.pipprogs n).isSome) &&
    e.2.slots.all (fun q => coll (some q.plan) && decide (q.slot < p.dmap.gathers.length) && decide (q.own < p.dmap.gathers.length)) &&
    e.2.layers.all fun l => coll l.reduce && coll l.gather && (l.gather.isNone || decide (l.buffer < p.dmap.gathers.length))) &&
  p.shards.all (fun e => (nmGet? p.ueprogs e.2.prog).isSome) && p.ueprogs.all fun e => coll e.2.cplan

/-- Pair 10. -/
def pair10 (s : State) (p : Plane) : Bool := !s.cfg.image || p.baseDigest.isEmpty || p.baseDigest = s.cfg.live.digest

/-- LK register fields. -/
def lkRegs : List Nat := [0x1C, 0x3114]

/-- Pair 11. -/
def pair11 (s : State) (p : Plane) : Bool :=
  !s.cfg.isSealed || (p.control = s.cfg.live.control && (List.range 16).all (fun g => nmGet 0 p.groups g = nmGet 0 s.cfg.live.groups g) &&
    p.regs.all fun e => !lkRegs.contains e.offset || (e.value &&& e.mask) = (regGet s e.offset 0 &&& e.mask))

/-- Pair 12. -/
def pair12 (s : State) (p : Plane) : Bool := !s.cfg.live.isImage || p.dmap = s.cfg.live.dmap

/-- Every pair of Table 7. -/
def pairsGood (s : State) (p : Plane) : Bool :=
  pair1 p && pair2 p && pair3 p && pair4 p && pair5 p && pair6 p && pair7 p && pair8 p && pair9 p && pair10 s p && pair11 s p && pair12 s p

/-- The first failure of step 2. -/
def commitFailure (s : State) : Option Status :=
  let p := s.cfg.shadow
  if planeBadLen p then some stBadLen
  else if planeLimit s p then some stLimit
  else if !pairsGood s p then some stCfgPair
  else none

/-! ### Affected tenants (R161, R179) -/

/-- Keys whose values differ between two maps. -/
def changedKeys {α : Type} [DecidableEq α] (a b : NMap α) : List Nat :=
  ((a.map (·.1)) ++ (b.map (·.1))).filter fun k => nmGet? a k ≠ nmGet? b k

/-- Queues whose parameters differ. -/
def queuesChanged (a b : Plane) : List Nat := (List.range 256).filter fun q => planeQueue a q ≠ planeQueue b q

/-- Sync objects whose owners differ. -/
def syncsChanged (a b : Plane) : List Nat :=
  ((a.syncs.map (·.1)) ++ (b.syncs.map (·.1))).filter fun k => planeSyncOwner a k ≠ planeSyncOwner b k

/-- A change that affects every tenant: classes P, S and B, and the header fields of R162. -/
def changesAll (a b : Plane) : Bool :=
  decide (a.system ≠ b.system) || decide (a.control ≠ b.control) || decide (a.groups ≠ b.groups) || decide (a.granules ≠ b.granules) ||
  decide (a.tenants ≠ b.tenants) || decide (a.dmap ≠ b.dmap) || decide (a.ueprogs ≠ b.ueprogs) || decide (a.formats ≠ b.formats) ||
  decide (a.cplans ≠ b.cplans) || decide (a.fallback ≠ b.fallback) || decide (a.pipprogs ≠ b.pipprogs) || decide (a.power ≠ b.power) ||
  decide (a.policy ≠ b.policy) || decide (a.regs ≠ b.regs) || decide (a.package ≠ b.package) || decide (a.sysSize ≠ b.sysSize) ||
  decide (a.spid ≠ b.spid)

/-- Owners of what class T sections change, before and after. -/
def changedOwners (a b : Plane) : List (BitVec 4) :=
  ((queuesChanged a b).flatMap fun k => [(planeQueue a k).tenant, (planeQueue b k).tenant]) ++
  ((syncsChanged a b).flatMap fun k => [planeSyncOwner a k, planeSyncOwner b k]) ++
  ((changedKeys a.shards b.shards).flatMap fun k => ((nmGet? a.shards k).toList ++ (nmGet? b.shards k).toList).map (·.tenant)) ++
  ((changedKeys a.stepplans b.stepplans).flatMap fun k => ((nmGet? a.stepplans k).toList ++ (nmGet? b.stepplans k).toList).map (·.tenant))

/-- The affected tenants of a commit of the shadow plane. -/
def affected (s : State) : List Nat :=
  let a := ownPlane s
  let b := s.cfg.shadow
  (List.range 16).filter fun t => changesAll a b || (changedOwners a b).contains (BitVec.ofNat 4 t)

/-- CFG_COMMIT. -/
def tryCfgCommit (s : State) (o : Op) : Outcome :=
  if !tenantDone s.fe.ops o || s.cfg.wait.isSome then .wait
  else if s.units.acorns.failed.contains loaderUnit then .done s (resSt stBusy)
  else if !s.cfg.staged then .done s { resOk with empty := true }
  else match commitFailure s with
    | some st => .done s (resSt st)
    | none => .go { s with cfg := { s.cfg with wait := some ⟨o.handle, affected s⟩ } }

/-- CFG_COMMIT (R178). -/
def execCfgCommit (handle : Word) (s : State) : Host.Outcome State Fault Refusal := .next (runCommand opCfgCommit tryCfgCommit handle s)

/-! ### The quiet point (R180) -/

/-- Queues whose parameters a commit changes. -/
def changedQueues (s : State) : List Nat := queuesChanged (ownPlane s) s.cfg.shadow

/-- Test instructions that do not act while an image is live (Table 6 of *Signals, electrical limits and test access*). -/
def testOnly (ir : BitVec 8) : Bool := [0x03, 0x04, 0x05, 0x10, 0x18].contains ir.toNat

/-- Operations that the quiet point does not count: the commit itself, what it holds back, and commands that wait for it
(log 90). -/
def behindCommit (s : State) (w : CommitWait) (o : Op) : Bool :=
  o.handle = w.handle || dOpcode o.desc = opCfgStage || dOpcode o.desc = opCfgCommit ||
  (o.phase = .waiting && s.fe.ops.any fun x => x.handle = w.handle && x.phase = .running && x.queue = o.queue && decide (x.order < o.order))

/-- The quiet point of the commit that waits, and no test instruction in its way (R760). -/
def quietPoint (s : State) (w : CommitWait) : Bool :=
  w.tenants.all (fun t =>
    (liveOps s).all (fun o => o.tenant.toNat ≠ t || behindCommit s w o) &&
    s.step.runs.all (fun r => r.tenant.toNat ≠ t || !(findOp s r.handle).any opLive) &&
    s.cfg.live.shards.all (fun e => e.2.tenant.toNat ≠ t || [ShardState.clean, .held].contains (shardDyn s e.1).st)) &&
  (changedQueues s).all (fun q => let c := qOf s q; c.p = c.h && c.t = c.c) &&
  !(s.cfg.image && testOnly s.units.tap.ir && !s.units.tap.refused)

/-! ### The switch (R183) -/

/-- Give new shards their initial epoch bits, and forget those that are gone. -/
def switchShards (s : State) (old new : Plane) : State :=
  let kept := fun (n : Nat) (c : ShardCfg) => match nmGet? old.shards n with
    | some d => decide (d.stateBase = c.stateBase) && d.tenant = c.tenant
    | none => false
  let next := new.shards.map (fun e => (e.1, if kept e.1 e.2 then shardDyn s e.1 else { shardZero with epoch := e.2.epoch0 }))
  { s with step := { s.step with shards := next } }

/-- The tenant that a granule belongs to, or belonged to last where it belongs to none at present. -/
def lastOwner (s : State) (old : Plane) (g : Nat) : Option (BitVec 4) :=
  match granuleOwner old g with | some a => some a | none => nmGet? s.cfg.former g

/-- Granules that pass from one tenant to another, be it by way of a time in which they belonged to none (R96). -/
def movedGranules (s : State) (old new : Plane) : List Nat :=
  if old.granules = new.granules then []
  else (List.range granuleCount).filter fun g => match lastOwner s old g, granuleOwner new g with
    | some a, some b => decide (a ≠ b)
    | _, _ => false

/-- Granules that belong to none under a new plane, with their last tenants. -/
def formerOwners (s : State) (old new : Plane) : NMap (BitVec 4) :=
  if old.granules = new.granules then s.cfg.former
  else (List.range granuleCount).filterMap fun g =>
    if (granuleOwner new g).isSome then none else (lastOwner s old g).map fun a => (g, a)

/-- A granule that changes tenants is never-written, unprotected and unpinned (R96, R185, R436, R497). -/
def moveGranule (s : State) (g : Nat) : State :=
  let s := unprotect (freshen s (g * 16384) 16384) (g * 2 ^ 26) (2 ^ 26)
  updTier s fun t => { t with pins := t.pins.filter fun u => u / 1024 ≠ g }

/-- A queue that changes starts with counts of 0 (R122, R184, R536); Done commands of it whose records are not written go with the old counts,
and no record follows (DESIGN CHOICE, log 147). -/
def resetQueue (s : State) (q : Nat) : State :=
  let s := updQ s q fun _ => qZero
  { s with fe := { s.fe with ops := s.fe.ops.filter fun o => o.queue ≠ q || opLive o } }

/-- Whether FLOOR, CEIL and CAP_W obey the rules of HUB_PACE_LIMITS (R191). -/
def paceGood (v : Word) : Bool := decide (fld v 0 8 ≤ fld v 8 8) && decide (100 ≤ fld v 16 10) && decide (fld v 16 10 ≤ 560)

/-- Write HUB_PACE_LIMITS whole, or ignore the write (R191). -/
def setPace (s : State) (v : Word) : State :=
  if paceGood v then endEpisodes (regSet s 0x3000 (v &&& 0x03FFFFFF)) else { s with cfg := { s.cfg with pairBad := true } }

/-- HUB_CFG_MIN_SVN only rises (R194). -/
def raiseSvn (s : State) (v : Word) : State := if (regGet s 0x1C 0).toNat ≤ v.toNat then regSet s 0x1C v else s

/-- A register preset of REGS (R164). -/
def applyPreset (s : State) (e : RegPreset) : State :=
  if e.offset = 0x3000 then setPace s (mergeWord (regGet s 0x3000 0x0230FF1F) e.value e.mask)
  else if e.offset = 0x1C then raiseSvn s (mergeWord (regGet s 0x1C 0) e.value e.mask)
  else if e.offset = 0x1010 then idlePorts (storeReg s e.offset e.value e.mask)
  else if inRange e.offset doorbellPage 0x100000 && e.offset % 0x1000 = 0x008 then
    let q := (e.offset - doorbellPage) / 0x1000
    setCqHead s q (mergeWord (qOf s q).c e.value e.mask)
  else if inRange e.offset 0x10000 0x1000 && e.offset % 0x100 = 0x34 then
    let t := (e.offset - 0x10000) / 0x100
    setEvtHead s t (mergeWord (ringOf s t).head e.value e.mask)
  else storeReg s e.offset e.value e.mask

/-- The shadow plane as it goes live; under a fallback case that no new image replaces, with the case's plans. -/
def nextLive (s : State) : Plane :=
  let p := s.cfg.shadow
  match (if s.cfg.image then none else s.hz.drop.cas.bind (fallbackCase p)) with
  | some c => fallbackPlane p c
  | none => p

/-- A new image ends the fallback state (R196, R197). -/
def endFallback (s : State) : State :=
  updDrop s fun d => { d with learned := [], late := [], pending := none, bad := false, halt := false, cut := false, cas := none }

/-- The bank of a new image goes live; its bytes stay at the place of its bank when a new P_ROWS moves the store (log 84). -/
def switchBank (s : State) (old : Nat) : State :=
  let b := !s.cfg.bank
  let bytes := leNat (dRead s (old + (if b then 2 ^ 29 else 0) + 8) 8)
  let img := dRead s (old + (if b then 2 ^ 29 else 0)) (min bytes (2 ^ 29))
  let s := { s with cfg := { s.cfg with bank := b } }
  if imageStoreBase s.cfg.live = old then s else dWrite s (bankAddr s b) img

/-- PHASE reaches IMAGE_LIVE at the first commit of an image (R722). -/
def imagePhase (s : State) : State :=
  if s.units.boot.phase = 4 then { s with units := { s.units with boot := { s.units.boot with phase := 5 } } } else s

/-- A tenant whose event ring moves starts with an empty ring (R771). -/
def switchRings (s : State) (old new : Plane) : State :=
  (List.range 16).foldl (fun s t =>
    if (planeTenant old t).eventRing = (planeTenant new t).eventRing then s else setRing s t { ringOf s t with head := (ringOf s t).seq }) s

/-- A run whose PLAN_RUN a WARM reset has ended keeps on while its step plan stays as it is (log 102). -/
def keepRuns (s : State) (old new : Plane) : State :=
  { s with step := { s.step with runs := s.step.runs.filter fun r => nmGet? old.stepplans r.plan = nmGet? new.stepplans r.plan } }

/-- A quiet timeout that POLICY changes stands in HUB_CFG_QUIET from the commit on (Table 1; DEDUCED, log 128). -/
def policyQuiet (s : State) (old new : Plane) : State :=
  if old.policy.quietTimeout = new.policy.quietTimeout then s else regSet s 0x18 (word (new.policy.quietTimeout % 2 ^ 24))

/-- Step 4 of R178. The banks of the image store are exchanged where one of them holds a staged image; a commit of SH writes alone leaves
the live image in its bank (DESIGN CHOICE: R183 does not tell the two apart; log 148). No step runs yet under step plans that have just
become live (R368). -/
def switchPlanes (s : State) : State :=
  let old := ownPlane s
  let new := nextLive s
  let store := imageStoreBase s.cfg.live
  let img := s.cfg.image
  let qs := changedQueues s
  let s := switchShards s old new
  let s := if old.dmap = new.dmap then s else { s with step := { s.step with copy1 := [], slotUses := [] } }
  let moved := movedGranules s old new
  let s := { s with cfg := { s.cfg with former := formerOwners s old new } }
  let s := keepRuns (moved.foldl moveGranule s) old new
  let s := switchRings (qs.foldl resetQueue s) old new
  let base := if s.hz.drop.cas.isSome && !img then some s.cfg.shadow else none
  let s := { s with cfg := { s.cfg with live := new, base := base } }
  let s := if old.spid = new.spid then s else { s with step := { s.step with collSeq := [] } }
  let s := if img then imagePhase (endFallback (switchBank s store)) else s
  let s := if img && new.sealing then { s with cfg := { s.cfg with isSealed := true } } else s
  let s := if old.stepplans = new.stepplans then s else { s with step := { s.step with marks := [] } }
  let s := new.regs.foldl applyPreset (policyQuiet s old new)
  { s with cfg := { s.cfg with staged := false, image := false, shadow := ownPlane s } }

/-! ### Register writes that meet the planes (R175 to R177, R187) -/

/-- DISCARD (R176). -/
def discardShadow (s : State) : State := { s with cfg := { s.cfg with shadow := ownPlane s, staged := false, image := false } }

/-- Whether an offset holds SH fields (Tables 8 and 9 of *Register windows*). -/
def shOffset (off : Nat) : Bool := inRange off 0x4000 0x2000 || inRange off 0x8000 0x2000

/-- A queue's parameters after a write to its block. -/
def writeQueue (e : QueueParams) (off : Nat) (v : Word) : QueueParams :=
  match off with
  | 0x00 => { e with en := v.getLsbD 0, tenant := BitVec.ofNat 4 (fld v 4 4), group := BitVec.ofNat 4 (fld v 8 4), weight := BitVec.ofNat 4 (fld v 12 4) }
  | 0x04 => { e with sqEntries := BitVec.ofNat 17 (fld v 0 17) }
  | 0x08 => { e with hbase := BitVec.ofNat 16 (fld v 0 16) }
  | 0x0C => { e with cqEntries := BitVec.ofNat 17 (fld v 0 17) }
  | 0x10 => { e with sqBase := BitVec.ofNat 44 (e.sqBase.toNat / 2 ^ 32 * 2 ^ 32 + fld v 12 20 * 2 ^ 12) }
  | 0x14 => { e with sqBase := BitVec.ofNat 44 (e.sqBase.toNat % 2 ^ 32 + fld v 0 12 * 2 ^ 32) }
  | 0x18 => { e with cqBase := BitVec.ofNat 44 (e.cqBase.toNat / 2 ^ 32 * 2 ^ 32 + fld v 5 27 * 32) }
  | 0x1C => { e with cqBase := BitVec.ofNat 44 (e.cqBase.toNat % 2 ^ 32 + fld v 0 12 * 2 ^ 32) }
  | _ => e

/-- A plane after a write to an SH register. -/
def writeSh (p : Plane) (off : Nat) (v : Word) : Plane :=
  if inRange off 0x4000 0x2000 then
    let q := (off - 0x4000) / 0x20
    { p with queues := nmSet p.queues q (writeQueue (planeQueue p q) (off % 0x20) v) }
  else if inRange off 0x8000 0x2000 then
    let k := (off - 0x8000) / 4
    { p with syncs := (List.range 8).foldl (fun m j => nmSet m (8 * k + j) (BitVec.ofNat 4 (fld v (4 * j) 4))) p.syncs }
  else p

/-- An SH write changes the shadow plane, which is then staged (R175, R176). -/
def writeShadow (s : State) (off : Nat) (v : Word) : State :=
  { s with cfg := { s.cfg with shadow := writeSh s.cfg.shadow off v, staged := true } }

/-- Carry out an SH write or a DISCARD. -/
def planeWrite (s : State) (off : Nat) (v : Word) : State :=
  if off = 0x10 then (if v.getLsbD 0 then discardShadow s else s) else writeShadow s off v

/-- A CFG_STAGE that is Running (R187). -/
def stageRunning (s : State) : Bool := s.fe.ops.any fun o => o.phase = .running && dOpcode o.desc = opCfgStage

/-- Writes held by a stage or a commit take effect once neither holds them, and are answered, in their order (R187, R727). -/
def releaseWrites (s : State) : State :=
  let l := s.cfg.heldWr
  if s.cfg.wait.isSome || stageRunning s then s
  else l.foldl (fun s x => answerWrite (planeWrite s x.2.1 x.2.2) x.1 stOk) { s with cfg := { s.cfg with heldWr := [] } }

/-- The end of a CFG_COMMIT: fetch resumes, its record follows, and what it held goes on. -/
def endCommit (s : State) (w : CommitWait) (st : Status) : State :=
  let s := { s with cfg := { s.cfg with wait := none } }
  let s := match findOp s w.handle with
    | some o => finishOp s o (resSt st)
    | none => s
  settle (releaseWrites s)

/-- QUIET_POINT_SWITCH: at the quiet point the shadow plane goes live. -/
def quietSwitch (s : State) : State :=
  match s.cfg.wait with
  | none => s
  | some w => if quietPoint s w then dropIdle (serveHeld (endCommit (switchPlanes s) w stOk)) else s

/-- QUIET_POINT_SWITCH (R183). -/
def execQuietPointSwitch (s : State) : Host.Outcome State Fault Refusal := .next (quietSwitch s)

/-- QUIET_TIMEOUT: the quiet point was not reached in time (R182). -/
def quietTimeout (s : State) : State :=
  match s.cfg.wait with
  | none => s
  | some w => if quietPoint s w then s else endCommit s w stBusy

/-- QUIET_TIMEOUT (R182). -/
def execQuietTimeout (s : State) : Host.Outcome State Fault Refusal := .next (quietTimeout s)

/-- A register write that a commit past step 2 holds, or an SH write that a CFG_STAGE holds (R187). -/
def holdsWrite (s : State) (off : Nat) : Bool := (s.cfg.wait.isSome && (off = 0x10 || shOffset off)) || (stageRunning s && shOffset off)

/-- An SH write or a DISCARD by a requester. -/
def planeRegWrite (r : Requester) (off : Nat) (v : Word) (s : State) : State :=
  if holdsWrite s off && (writeDenied s r off).isNone then
    let s := { s with cfg := { s.cfg with heldWr := s.cfg.heldWr ++ [(r, off, v)] } }
    if r = .i3c then { s with units := { s.units with i3c := ⟨[], true⟩ } } else s
  else writeReg r off v (fun s => (planeWrite s off v, stOk)) s

/-- CFG_STAGE (R171); SH writes that it held follow it (R187). -/
def execCfgStage (handle : Word) (s : State) : Host.Outcome State Fault Refusal :=
  .next (releaseWrites (runData opCfgStage tryCfgStage handle s))

/-- DISCARD (R176). -/
def execDiscard (req : Requester) (value : Word) (s : State) : Host.Outcome State Fault Refusal := .next (planeRegWrite req 0x10 value s)

/-- SH_WRITE (R175); an offset that holds no SH field is no SH write. -/
def execShWrite (req : Requester) (offset value : Word) (s : State) : Host.Outcome State Fault Refusal :=
  .next (if shOffset offset.toNat then planeRegWrite req offset.toNat value s else s)

/-- PACE_LIMITS_WRITE (R191). -/
def execPaceLimitsWrite (req : Requester) (value : Word) (s : State) : Host.Outcome State Fault Refusal :=
  .next (writeReg req 0x3000 value (fun s => (setPace s value, stOk)) s)

/-- A write to an LK field that the seal locks (R192). -/
def lkDropped (s : State) (off : Nat) : State :=
  raiseEventFree { s with cfg := { s.cfg with lkDrop := true } } s.cfg.live.control.toNat evLkDrop (BitVec.ofNat 64 off) 0

/-- HUB_LEAD_CFG after a write. -/
def setLeadCfg (s : State) (v : Word) : State := if s.cfg.isSealed then lkDropped s 0x3114 else regSet s 0x3114 (v &&& 1)

/-- LK_WRITE of HUB_LEAD_CFG (R192). -/
def execLkWrite (req : Requester) (value : Word) (s : State) : Host.Outcome State Fault Refusal :=
  .next (writeReg req 0x3114 value (fun s => (setLeadCfg s value, stOk)) s)

/-- HUB_CFG_MIN_SVN after a write. -/
def setMinSvn (s : State) (v : Word) : State := if s.cfg.isSealed then lkDropped s 0x1C else raiseSvn s v

/-- MIN_SVN_WRITE (R194). -/
def execMinSvnWrite (req : Requester) (value : Word) (s : State) : Host.Outcome State Fault Refusal :=
  .next (writeReg req 0x1C value (fun s => (setMinSvn s value, stOk)) s)

end Sys2Proof.Machine
end

