-- ==== Sys2Proof/Machine/Pim.lean ====
section
/-! DEFINITION. Pips (*Pips: logic in the sense amplifiers*): the primitive row operations, atoms, processor mode and PIM_RUN. -/

namespace Sys2Proof.Machine

/-! ### Operation words (Tables 5 and 6) -/

def pwOp (w : DWord) : Nat := w.toNat / 2 ^ 56
def pwSrc (w : DWord) : Nat := w.toNat / 2 ^ 40 % 2 ^ 16
def pwDst (w : DWord) : Nat := w.toNat / 2 ^ 24 % 2 ^ 16
def pwMask (w : DWord) : Bool := w.getLsbD 23
def pwEnd (w : DWord) : Bool := w.getLsbD 22

/-- What the operands of a program refer to on one channel of a run. -/
structure PipEnv where
  chan  : Nat             -- package channel
  baseA : Nat
  baseB : Nat
  baseC : Nat
  mask  : Nat             -- banks that a masked word writes
  imm   : Nat             -- ARG2
  seed  : Nat             -- names what the stored compute rows hold at the start of the atom
deriving DecidableEq, Repr

/-- An atom in execution: the package, its compute rows by bank × 16 + code, and whether a source row was uncorrectable. -/
structure Atom where
  s    : State
  comp : NMap (BitVec 8192)
  bad  : Bool

/-- P-space row that an operand names, none for the others. -/
def operandRow (e : PipEnv) (x : Nat) : Option Nat :=
  let i := x % 2 ^ 13
  match x / 2 ^ 13 with
  | 0 => some i
  | 1 => some (e.baseA + i)
  | 2 => some (e.baseB + i)
  | 3 => some (e.baseC + i)
  | _ => none

/-- P-space address of a row of a bank of the channel. -/
def envRow (e : PipEnv) (bank row : Nat) : Nat := pAddr (e.chan / 64) (e.chan % 64) bank row

/-- A stored compute row; undefined from an atom's start to its first write (R449). -/
def compRow (e : PipEnv) (a : Atom) (bank code : Nat) : BitVec 8192 :=
  nmGet (Config.undefinedCompute e.seed (bank * 16 + code)) a.comp (bank * 16 + code)

/-- The value of a source operand in a bank (R455, Table 1). -/
def readRowOp (e : PipEnv) (a : Atom) (bank x : Nat) : BitVec 8192 :=
  let i := x % 2 ^ 13
  match operandRow e x with
  | some r => pRow a.s (envRow e bank r)
  | none =>
    match x / 2 ^ 13 with
    | 4 => if i = 0 then 0 else if i = 1 then BitVec.allOnes 8192 else if i = 6 then ~~~ compRow e a bank 5 else compRow e a bank i
    | 5 => if e.imm / 2 ^ (i % 64) % 2 = 1 then BitVec.allOnes 8192 else 0
    | 6 => if e.imm / 2 ^ (i % 64) % 2 = 1 then 0 else BitVec.allOnes 8192
    | _ => Config.undefinedCompute e.seed (bank * 16 + 15)

/-- Write a destination operand in a bank: a P-space row, a stored compute row, or none. -/
def writeRowOp (e : PipEnv) (x : Nat) (a : Atom) (w : Nat × BitVec 8192) : Atom :=
  match operandRow e x with
  | some r => { a with s := pWrite a.s (envRow e w.1 r) w.2 }
  | none =>
    if x / 2 ^ 13 = 4 && [2, 3, 4, 5, 7, 8].contains (x % 2 ^ 13) then { a with comp := nmSet a.comp (w.1 * 16 + x % 2 ^ 13) w.2 }
    else a

/-- Write values into the banks that the word may write. -/
def writeBanks (e : PipEnv) (w : DWord) (x : Nat) (vals : List (Nat × BitVec 8192)) (a : Atom) : Atom :=
  (vals.filter fun v => !pwMask w || e.mask / 2 ^ v.1 % 2 = 1).foldl (writeRowOp e x) a

/-- A compute row as an operand. -/
def compOperand (code : Nat) : Nat := 4 * 2 ^ 13 + code

/-- Bitwise majority. -/
def maj3 (x y z : BitVec 8192) : BitVec 8192 := (x &&& y) ||| (x &&& z) ||| (y &&& z)

/-- Rows that a word's source operand activates in P-space: whether one is uncorrectable (R472). -/
def sourceBad (e : PipEnv) (a : Atom) (w : DWord) : Bool :=
  (pwOp w = 1 || pwOp w = 4 || pwOp w = 5) &&
  match operandRow e (pwSrc w) with
  | some r => !a.s.mem.pbad.isEmpty && (List.range 48).any fun b => a.s.mem.pbad.contains (envRow e b r)
  | none => false

/-- A word's P-space source rows are activated and checked (R472). -/
def activateSource (e : PipEnv) (a : Atom) (w : DWord) : Atom :=
  if pwOp w = 1 || pwOp w = 4 || pwOp w = 5 then
    match operandRow e (pwSrc w) with
    | some r => { a with s := ((List.range 48).map fun b => envRow e b r).foldl activateRow a.s }
    | none => a
  else a

/-- One primitive row operation on every bank: sources are read before any row is written (Table 2, R450, R453). -/
def pipWord (e : PipEnv) (a : Atom) (w : DWord) : Atom :=
  let banks := List.range 48
  let a := activateSource e a w
  let a := { a with bad := a.bad || sourceBad e a w }
  let read := fun x => banks.map fun b => readRowOp e a b x
  let put := fun x (vals : List (BitVec 8192)) a => writeBanks e w x (banks.zip vals) a
  match pwOp w with
  | 1 => put (pwDst w) (read (pwSrc w)) a
  | 2 =>
    let m := banks.map fun b => maj3 (compRow e a b 2) (compRow e a b 3) (compRow e a b 4)
    put (pwDst w) m (put (compOperand 4) m (put (compOperand 3) m (put (compOperand 2) m a)))
  | 3 =>
    let x := banks.map fun b => compRow e a b 7 ^^^ compRow e a b 8
    put (pwDst w) x (put (compOperand 7) x a)
  | 4 => let v := read (pwSrc w); put (pwDst w) (v.drop 47 ++ v.take 47) a
  | 5 => let v := read (pwSrc w); put (pwDst w) (v.drop 1 ++ v.take 1) a
  | _ => a

/-! ### Atoms -/

/-- The words of the atom at the front of a list, the END word included. -/
def atomOf : List DWord → List DWord
  | [] => []
  | w :: l => if pwEnd w then [w] else w :: atomOf l

/-- Row-operation times of an atom (R465). -/
def atomTimes (l : List DWord) : Nat := (l.map fun w => if pwOp w = 4 || pwOp w = 5 then 2 else 1).sum

/-- The program of a PIM_RUN. -/
def pimProgram (p : Plane) (d : BitVec 512) : List DWord :=
  match nmGet? p.pipprogs (dField d 24 4) with | some g => g.ops | none => []

/-- What a PIM_RUN's operands refer to on a channel (R456). -/
def pimEnv (d : BitVec 512) (chan seed : Nat) : PipEnv :=
  let a := dField d 40 8
  ⟨chan, a % 2 ^ 13, a / 2 ^ 16 % 2 ^ 13, a / 2 ^ 32 % 2 ^ 13, dField d 48 8 % 2 ^ 48, dField d 56 8, seed⟩

/-- The next atom of the run on a channel. -/
def nextAtom (s : State) (r : PipRun) : List DWord :=
  match findOp s r.handle with
  | some o => atomOf ((pimProgram s.cfg.live o.desc).drop r.next)
  | none => []

/-- A run on a channel waits under the heat rule (R468). -/
def heatWait (s : State) (c : Nat) : Bool :=
  match nmGet? s.units.pips.runs c with
  | some r => (chanOf s c).hot && 24 < atomTimes (nextAtom s r)
  | none => false

/-- Processor mode of a channel with a run as the heat rule has it (R468, Table 7). -/
def heatMode (s : State) (c : Nat) : State :=
  if (nmGet? s.units.pips.runs c).isSome then
    if heatWait s c || s.units.acorns.fatal then setProc s c false
    else if (nmGet? s.units.pips.waits c).isNone then setProc s c true else s
  else s

/-- The channels of a PIM_RUN. -/
def pimChannels (d : BitVec 512) : List Nat := pChannels d

/-- Whether the sequencers honour HOLD on a stack (R469, R479). -/
def holdEnabled (s : State) (st : Nat) : Bool := (regGet s (dieBase st + 0x400) 0x10A).getLsbD 8

/-- A PIM_RUN is Done once no channel runs it (R458). -/
def pimOver (s : State) (h : Word) : State :=
  if s.units.pips.runs.any fun e => e.2.handle = h then s
  else match findOp s h with
    | some o => finishOp s o (resSt o.status)
    | none => s

/-- The tenants whose P-space holds a channel. -/
def pOwners (p : Plane) (c : Nat) : List Nat := (tenantsOf p).filter fun t => (planeTenant p t).pChannels.getLsbD c

/-- A channel's run stops with an uncorrectable sector: counted, reported to the owner of the rows, the command to end with ST_POISON
(R472). -/
def pimPoisoned (s : State) (c : Nat) (h : Word) : State :=
  let s := updChan s c fun x => { x with ue := satInc x.ue }
  let s := (pOwners s.cfg.live c).foldl (fun s t => raiseEventOpen s t evUe h) s
  updOp s h fun o => { o with status := stPoison, event := true }

/-- The run leaves a channel, which stays in processor mode only under HOLD (Table 7). -/
def leaveRun (s : State) (c : Nat) (hold : Bool) : State :=
  let s := updPips s fun p => { p with
    runs := nmErase p.runs c, waits := nmErase p.waits c, yields := p.yields.filter fun x => x ≠ c
    held := if hold then insertNat c p.held else p.held }
  setProc (if hold then s else catchUp s c) c hold

/-- Start a run on one channel, with the refresh round due first; on a failed channel it stops at once. -/
def startOn (h : Word) (hold : Bool) (s : State) (c : Nat) : State :=
  if (chanOf s c).failed then pimPoisoned s c h
  else
    let s := updPips s fun p => { p with
      runs := nmSet p.runs c ⟨h, 0, hold && holdEnabled s (c / 64)⟩, held := p.held.filter fun x => x ≠ c }
    heatMode (boundaryRefs s c (atomTimes (nextAtom s ⟨h, 0, false⟩))) c

/-- PIM_RUN: it starts on its channels together, once no other run is at work on one of them (log 79). -/
def tryPimRun (s : State) (o : Op) : Outcome :=
  let cs := pimChannels o.desc
  if cs.isEmpty then .done s { status := stOk, empty := true }
  else if s.units.acorns.fatal then .wait
  else if cs.any fun c => (nmGet? s.units.pips.runs c).isSome || (chanOf s c).retrain || s.units.margin.contains c then .wait
  else
    let s := updOp s o.handle fun x => { x with status := stOk }
    let s := cs.foldl (startOn o.handle (dBits o.desc 54 0 1 = 1)) s
    .go (pimOver s o.handle)

/-- PIM_RUN (R456). -/
def execPimRun (handle : Word) (s : State) : Host.Outcome State Fault Refusal := .next (runCommand opPimRun tryPimRun handle s)

/-- A yield, or a hold under the budget (a choice left to the device): the channel stays in memory mode until its next atom (R463, R470). -/
def boundaryWait (s : State) (c : Nat) : State :=
  if s.units.pips.yields.contains c then
    let s := updPips s fun p => { p with yields := p.yields.filter fun x => x ≠ c, waits := nmSet p.waits c false }
    regCount (setProc s c false) (dieBase (c / 64) + 0x40C) 1
  else
    let (s, b) := takeBit s
    if b then setProc (updPips s fun p => { p with waits := nmSet p.waits c true }) c false else s

/-- After an atom: the run ends, stops or goes on, with the boundary's refresh, yield and waits. -/
def afterAtom (s : State) (c : Nat) (r : PipRun) (len : Nat) (bad : Bool) : State :=
  let s := regCount s (dieBase (c / 64) + 0x408) 1
  let next := r.next + len
  let more := match findOp s r.handle with
    | some o => decide (next < (pimProgram s.cfg.live o.desc).length)
    | none => false
  let s :=
    if bad then leaveRun (pimPoisoned s c r.handle) c false
    else if more then
      let s := boundaryRefs s c (atomTimes (nextAtom s { r with next := next }))
      heatMode (boundaryWait (updPips s fun p => { p with runs := nmSet p.runs c { r with next := next } }) c) c
    else leaveRun s c (r.hold && !s.units.pips.yields.contains c)
  settle (serveHeld (pimOver s r.handle))

/-- The run on a channel that fails stops at once (R472). -/
def stopRun (s : State) (c : Nat) : State :=
  match nmGet? s.units.pips.runs c with
  | some r => pimOver (leaveRun (pimPoisoned s c r.handle) c false) r.handle
  | none => s

/-- ATOM_COMPLETE: the next atom of the run on a channel, whole. -/
def atomComplete (c : Nat) (s : State) : State :=
  match nmGet? s.units.pips.runs c with
  | none => s
  | some r =>
    match findOp s r.handle with
    | none => s
    | some o =>
      if heatWait s c || (chanOf s c).retrain || s.units.acorns.fatal then s
      else
        let (s, seed) := ({ s with free := s.free + 1 }, s.free)
        let s := setProc (updPips s fun p => { p with waits := nmErase p.waits c }) c true
        let l := nextAtom s r
        let a := l.foldl (pipWord (pimEnv o.desc c seed)) ⟨s, [], false⟩
        afterAtom a.s c r l.length a.bad

/-- ATOM_COMPLETE (R466). -/
def execAtomComplete (channel : Fin 256) (s : State) : Host.Outcome State Fault Refusal := .next (atomComplete channel.val s)

/-- YIELD_TIMEOUT: a held access has waited for YIELD µs on a channel with a run (R463). -/
def yieldTimeout (c : Nat) (s : State) : State :=
  if (nmGet? s.units.pips.runs c).isSome && s.units.proc.contains c then updPips s fun p => { p with yields := insertNat c p.yields } else s

/-- YIELD_TIMEOUT (R463). -/
def execYieldTimeout (channel : Fin 256) (s : State) : Host.Outcome State Fault Refusal := .next (yieldTimeout channel.val s)

end Sys2Proof.Machine
end

