-- ==== Sys2Proof/Machine/Channels.lean ====
section
/-! DEFINITION. Fast-tier channels (*Stacks, channels and the hint cache*): parity retries and retrains, refresh, patrol; the
corrected-error window and refetch deadlines; and the modules of the host ports as they fail and train. -/

namespace Sys2Proof.Machine

/-- An error-log record whose WHERE and DETAIL the manual does not give: free values (log 42). -/
def logRecordOpen (s : State) (kind die unit tenant : Nat) : State :=
  let x := takeNat s
  logRecordFree x.1 kind die unit (x.2 % 2 ^ 64) tenant

/-! ### Parity retries (R429 to R431) -/

/-- A channel that no spare can repair is failed until a COLD or WARM reset retrains it (R431). -/
def failChannel (s : State) (c : Nat) : State :=
  stopRun (logRecordOpen (updChan s c fun x => { x with failed := true, inService := false }) 0x07 (1 + c / 64) (c % 64) 0xF) c

/-- The retrain of a channel's lanes ends: a spare replaces each lane found failed while spares remain (R414, R430), and a channel with a
failed lane left is failed (R431). -/
def retrainEnd (s : State) (c : Nat) (lanes : List Nat) : State :=
  let l := lanes.eraseDups
  let used := l.take (8 - (chanOf s c).spares)
  let s := updChan s c fun x => { x with
    retrain := false, repairs := BitVec.ofNat 7 (satTo 0x7F (x.repairs.toNat + 1)), spares := x.spares + used.length
    lastLane := (used.getLast?.map (BitVec.ofNat 9)).getD x.lastLane }
  let s := logRecordOpen s 0x06 (1 + c / 64) (c % 64) 0xF
  if used.length < l.length then failChannel s c else s

/-- Whether transfers go over a channel's lanes at all. -/
def lanesBusy (s : State) (c : Nat) : Bool := !(chanOf s c).failed && !memAsleep s && !s.units.margin.contains c

/-- PARITY_RETRY: a failed attempt is reissued at most 4 times; the fifth that fails holds the channel's requests and starts a retrain, at
whose end they go on in their order. Every kind of transfer is treated alike (R429, R430). -/
def parityRetry (c : Nat) (attempt : Attempt) (s : State) : State :=
  let x := chanOf s c
  if !lanesBusy s c then s
  else match attempt with
  | .fails =>
    if x.retrain then s
    else if x.attempts < 4 then updChan s c fun x => { x with
      attempts := x.attempts + 1, retries := BitVec.ofNat 16 (satTo 0xFFFF (x.retries.toNat + 1)) }
    else updChan s c fun x => { x with attempts := 0, retrain := true }
  | .passes => if x.retrain then s else updChan s c fun x => { x with attempts := 0 }
  | .retrained lanes => if x.retrain then settle (serveHeld (retrainEnd s c lanes)) else s

/-- PARITY_RETRY (R429). -/
def execParityRetry (channel : Fin 256) (_ : Transfer) (attempt : Attempt) (s : State) : Host.Outcome State Fault Refusal :=
  .next (parityRetry channel.val attempt s)

/-! ### Refresh (R422 to R424) -/

/-- The array refreshes itself in RETAIN. A REF that falls due while a Pip sequence holds the channel is postponed, up to 4 to a bank; with
4 postponed one is issued, so 4 stay owed (R423). Otherwise the REF is issued with those owed. -/
def refreshBank (c b : Nat) (s : State) : State :=
  if memAsleep s then s
  else if s.units.proc.contains c then updChan s c fun x => { x with behind := nmSet x.behind b (min 4 (nmGet 0 x.behind b + 1)) }
  else updChan s c fun x => { x with behind := nmErase x.behind b }

/-- REFRESH (R422). -/
def execRefresh (channel : Fin 256) (bank : Fin 48) (s : State) : Host.Outcome State Fault Refusal :=
  .next (refreshBank channel.val bank.val s)

/-- Package channels of an array die (R410). -/
def dieChannels (stack die : Nat) : List Nat := (List.range 8).map fun k => 64 * stack + 8 * die + k

/-- The die's channels take its highest reading, and refresh in the 16 ms window from above 85 °C until 82 °C or below. -/
def setTemp (temp : BitVec 8) (s : State) (c : Nat) : State :=
  heatMode (updChan s c fun x => { x with
    temp := temp, hot := if 85 < temp.toNat then true else if temp.toNat ≤ 82 then false else x.hot }) c

/-- HOT_REFRESH_WINDOW (R422, R468). -/
def execHotRefreshWindow (stack : Fin 4) (die : Fin 8) (temp : BitVec 8) (s : State) : Host.Outcome State Fault Refusal :=
  .next (settle (serveHeld ((dieChannels stack.val die.val).foldl (setTemp temp) s)))

/-! ### Patrol (R428) -/

/-- A patrol read of one sector of a row: what lies there is D-space data, a P-space row, or nobody's (R426 to R428, R472, R548). -/
def patrolSector (ch row bank : Nat) (s : State) (k : Nat) : State :=
  let id := sectorId ch bank row k
  let user := 32768 - s.cfg.live.dmap.pRows
  if (nmGet? s.mem.flips id).isNone then s
  else if 32768 ≤ row then readIdle (List.replicate 32 0) ch s id
  else if user ≤ row then
    let a := pAddr (ch / 64) (ch % 64) bank (row - user)
    let had := s.mem.pbad.contains a
    let s := activateSector a s k
    if !had && s.mem.pbad.contains a then updChan s ch fun x => { x with ue := satInc x.ue } else s
  else match (sectorAddr s.cfg.live ch row bank k).bind (residentAt s) with
    | some a => readStored s a
    | none => readIdle (List.replicate 32 0) ch s id

/-! ### Upsets (R425, R484, R556; log 127) -/

/-- Symbols of a stored sector change. -/
def flipSector (s : State) (id : Nat) (flips : List (Nat × Byte)) : State :=
  let old := nmGet (List.replicate 36 0) s.mem.flips id
  let e := (List.zipIdx old).map fun x => (flips.filter fun f => f.1 = x.2).foldl (fun v f => v ^^^ f.2) x.1
  { s with mem := { s.mem with flips := if e.all (· = 0) then nmErase s.mem.flips id else nmSet s.mem.flips id e } }

/-- An uncorrectable word in an SRAM that holds no whole granule is logged (R556; log 127). -/
def logSram (s : State) (die : Nat) : State := logRecordFree s 0x0C die 0 0 0xF

/-- DIE of Table 7 of a home: a base die or a bridge. -/
def homeLogDie (die : Nat) : Nat := die + 1

/-- An uncorrectable error in a cached sector: a dirty one poisons its granule at the home, a clean one is dropped (R556). -/
def cacheUpset (s : State) (l : CacheLine) (k : Nat) : State :=
  let old := sectorOf l k
  let s := setCache s (s.units.cache.map fun x => if x = l then setUnder (setSector x k .invalid) k [] else x)
  if old = .dirty && l.visitor.isNone then poisonGranule 0x0C s (l.line * 128 + 64 * k)
  else if old = .invalid then s else logSram s (homeLogDie l.die)

/-- The bytes of elements that an SRAM has lost: canonical NaN, or 0 in an integer tile (R556, Table 2). -/
def lostBytes (fmt n : Nat) : List Byte := (List.replicate n (if fmt = 0 then fpNan.toNat else 0)).flatMap (leBytes (accElemBytes fmt))

/-- An uncorrectable error in the chunk of an adder's buffer: its elements load as canonical NaN (R556). -/
def adderUpset (s : State) (chunk : Nat) : State :=
  if !inAdder s (256 * chunk) then s
  else match tileRunAt s.cfg.live (256 * chunk) with
    | some r => logSram (dWrite s (256 * chunk) (lostBytes r.fmt (256 / accElemBytes r.fmt))) (homeLogDie (homeDie s (256 * chunk)))
    | none => s

/-- An uncorrectable error in a held contribution: its elements load as canonical NaN, 0 in an integer tile. -/
def reorderUpset (s : State) (h : Word) : State :=
  if !(s.step.tiles.any fun e => e.2.held.any fun c => c.src = .accum h) then s
  else
    let lost := fun (tile : Nat) (c : Contribution) =>
      let int := (tileRunAt s.cfg.live tile).elim false fun r => r.fmt ≠ 0
      if c.src = .accum h then { c with elems := c.elems.map fun x => (x.1, if int then 0 else fpNan.toNat) } else c
    logSram { s with step := { s.step with tiles := s.step.tiles.map fun e => (e.1, { e.2 with held := e.2.held.map (lost e.1) }) } } 0

/-- An uncorrectable error in a buffered push piece: what it carries is lost (R556). -/
def pushUpset (s : State) (q : Nat) (id : BitVec 16) (off : BitVec 20) : State :=
  let hit := fun (x : PushPiece) => x.queue = q && x.pushId = id && x.offset = off
  let given := fun (o : Op) => claims o ⟨q, id, off, o.tenant, []⟩
  if s.fe.push.any hit || s.fe.ops.any fun o => given o && o.pieces.any fun x => x.1 = off.toNat then
    logSram { s with fe := { s.fe with
      push := s.fe.push.map fun x => if hit x then { x with data := [] } else x
      ops := s.fe.ops.map fun o =>
        if given o then { o with pieces := o.pieces.map fun x => if x.1 = off.toNat then (x.1, []) else x } else o } } (homeLogDie (queueDie s.cfg.live q))
  else s

/-- An uncorrectable error in a group's write-set store dooms the group, with EV_UE to its tenant (R556, R285). -/
def writeSetUpset (s : State) (g : Nat) : State :=
  match txgOf s g with
  | some x => raiseEventOpen (logSram (doomGroup s g) (homeLogDie (queueDie s.cfg.live x.queue))) x.tenant.toNat evUe 0
  | none => s

/-- What time has done to the stored bits. -/
def upset (s : State) (u : Upset) : State :=
  match u with
  | .sector ch bank row k flips => if row < 32776 && k < 32 then flipSector s (sectorId ch.val bank.val row k) flips else s
  | .link m ch rank bank row column fails corr =>
    { s with units := { s.units with tier := { s.units.tier with
        links := nmSet s.units.tier.links (burstId (32 * m.val + ch.val) ⟨column, bank.val, rank.val, row⟩) (fails, corr) } } }
  | .sram (.cache die line second) =>
    match s.units.cache.find? fun l => l.die = die.val && l.line = line && sectorOf l (if second then 1 else 0) ≠ .invalid with
    | some l => cacheUpset s l (if second then 1 else 0)
    | none => s
  | .sram (.writeSet g) => writeSetUpset s g.val
  | .sram (.adder chunk) => adderUpset s chunk
  | .sram (.reorder h) => reorderUpset s h
  | .sram (.push q id off) => pushUpset s q.val id off
  | .sram (.corrected die n) => if n = 0 then s else countCorrected s (320 + die.val) n

/-- PATROL_READ: skipped in processor mode and where patrol is off; what time has done to the stored bits happens first, whether or not the
channel is patrolled. -/
def patrolRead (ch row bank : Nat) (upsets : List Upset) (s : State) : State :=
  let s := upsets.foldl upset s
  if s.units.proc.contains ch || (chanOf s ch).failed || memAsleep s || !(regGet s (dieBase (ch / 64) + 0x210) 0x10018).getLsbD 16 then settle s
  else settle ((List.range 32).foldl (patrolSector ch row bank) s)

/-- PATROL_READ (R428). -/
def execPatrolRead (channel : Fin 256) (row : Nat) (bank : Fin 48) (upsets : List Upset) (s : State) : Host.Outcome State Fault Refusal :=
  .next (patrolRead channel.val row bank.val upsets s)

/-! ### Windows and deadlines -/

/-- CE_WINDOW_END: the count of the window that ends is shown, and a new window begins (R564). -/
def execCeWindowEnd (s : State) : Host.Outcome State Fault Refusal :=
  .next { s with units := { s.units with integ := { s.units.integ with
    ceLast := word (satTo 0xFFFFFFFF s.units.integ.ceNow), ceNow := 0, ceBy := [], ceRaised := false } } }

/-- REFETCH_DEADLINE: reads that a refetch holds complete under Table 2, with EV_UE to the owner of a gather copy (R561, Table 3). -/
def refetchDeadline (g : Nat) (s : State) : State :=
  if s.units.integ.refetch.any fun r => r.granule = g && !r.late then
    let s := { s with units := { s.units with integ := { s.units.integ with
      refetch := s.units.integ.refetch.map fun r => if r.granule = g then { r with late := true } else r } } }
    let s := logRecordFree s 0x04 0 0 (64 * g) 0xF
    settle (serveHeld (match refetchOwner s g with | some t => raiseUe s (some t) (64 * g) | none => s))
  else s

/-- REFETCH_DEADLINE (R561). -/
def execRefetchDeadline (granule : BitVec 38) (s : State) : Host.Outcome State Fault Refusal := .next (refetchDeadline granule.toNat s)

/-! ### Host-port modules (R110, R120, R704, R714) -/

/-- A host-port module. -/
def moduleOf (s : State) (k : Nat) : HostModule := nmGet ⟨false, 0, false⟩ s.fe.modules k

/-- Change a host-port module. -/
def updModule (s : State) (k : Nat) (f : HostModule → HostModule) : State :=
  { s with fe := { s.fe with modules := nmSet s.fe.modules k (f (moduleOf s k)) } }

/-- Raise an event to the tenants allowed on a module's group. -/
def raiseGroup (s : State) (k : Nat) (code : BitVec 16) : State :=
  ((tenantsOf s.cfg.live).filter fun t => (nmGet 0 s.cfg.live.groups (k / 4)).getLsbD t).foldl
    (fun s t => raiseEventFree s t code (BitVec.ofNat 64 k) 0) s

/-- What a module holds goes with it: its read-ahead data, and each request not yet answered, which may or may not have landed (R120). -/
def dropModule (s : State) (k : Nat) : State :=
  let s := { s with mem := { s.mem with copies := s.mem.copies.filter fun c => c.module ≠ k } }
  let of_ := fun (h : HeldReq) => match h.who with | .request _ r => r.module.val = k | .command _ => false
  if s.fe.held.any of_ || s.fe.pushWait.any fun r => r.module.val = k then
    let (s, keep) := takeBit s
    if keep then s else { s with fe := { s.fe with
      held := s.fe.held.filter fun h => !of_ h, pushWait := s.fe.pushWait.filter fun r => r.module.val ≠ k } }
  else s

/-- A module leaves service (R110). -/
def moduleOut (s : State) (k : Nat) : State :=
  let s := dropModule (updModule s k fun _ => ⟨false, 0, true⟩) k
  raiseGroup (logRecordFree s 0x0D (1 + k / 16) (k % 16) k 0xF) k evPortDown

/-- PORT_DOWN (R110). -/
def execPortDown (module : Fin 64) (s : State) : Host.Outcome State Fault Refusal :=
  .next (if moduleUp s module.val then moduleOut s module.val else s)

/-- HOST_TRANSPORT_REPLAY: the sixteenth failure in a row takes the module out of service; a replay that passes ends the row. -/
def transportReplay (k : Nat) (fails : Bool) (s : State) : State :=
  if !moduleUp s k then s
  else if !fails then updModule s k fun m => { m with fails := 0 }
  else if 16 ≤ (moduleOf s k).fails + 1 then moduleOut s k
  else updModule s k fun m => { m with fails := m.fails + 1 }

/-- HOST_TRANSPORT_REPLAY (R110). -/
def execHostTransportReplay (module : Fin 64) (fails : Bool) (s : State) : Host.Outcome State Fault Refusal :=
  .next (transportReplay module.val fails s)

/-- Writes that waited for a trained group, or for a group to leave L1, go out (R120, R686). -/
def releaseCpl (s : State) : State :=
  s.fe.heldCpl.foldl (fun s w => cplWrite s w.1 w.2.1 w.2.2) { s with fe := { s.fe with heldCpl := [] } }

/-- A PORT reset of a group is over once each of its modules has trained or stays out. -/
def groupResetOver (s : State) (g : Nat) : State :=
  if (List.range 4).all fun k => let m := moduleOf s (4 * g + k); m.up || m.out then
    { s with units := { s.units with boot := { s.units.boot with resets := s.units.boot.resets.filter fun r => r ≠ g } } }
  else s

/-- HOST_MODULE_TRAINED: the module carries traffic, with EV_PORT_UP after a PORT reset; one that exceeds repair stays out until the
next (R704, R714). -/
def moduleTrained (k : Nat) (repairable : Bool) (s : State) : State :=
  let m := moduleOf s k
  let g := k / 4
  if m.up || m.out || s.units.power.noUcie then s
  else if !repairable then
    groupResetOver (logRecordFree (updModule s k fun _ => ⟨false, 0, true⟩) 0x0D (1 + k / 16) (k % 16) k 0xF) g
  else
    let s := releaseCpl (updModule s k fun _ => ⟨true, 0, false⟩)
    let s := if s.units.boot.resets.contains g then raiseGroup s k evPortUp else s
    groupResetOver s g

/-- HOST_MODULE_TRAINED (R714). -/
def execHostModuleTrained (module : Fin 64) (repairable : Bool) (s : State) : Host.Outcome State Fault Refusal :=
  .next (moduleTrained module.val repairable s)

/-- HOST_PORT_TRAINING_RETRY: the module restarts training, and nothing else changes (R714). -/
def execHostPortTrainingRetry (_ : Fin 64) (s : State) : Host.Outcome State Fault Refusal := .next s

end Sys2Proof.Machine
end

