-- ==== Sys2Proof/Machine/Recovery.lean ====
section
/-! DEFINITION. The Acorns, the Cupule, hub units that fail, HUB_FATAL and HUB_RECOVER (*Acorns, the Cupule and recovery*; Table 6 of
*Speculative update and the commit sweep*). -/

namespace Sys2Proof.Machine

/-! ### Acorns and the Cupule -/

/-- An Acorn, B or A. -/
def acornOf (s : State) (b : Bool) : Acorn := if b then s.units.acorns.b else s.units.acorns.a

/-- Change the Acorn units. -/
def updAcorns (s : State) (f : AcornUnits → AcornUnits) : State := { s with units := { s.units with acorns := f s.units.acorns } }

/-- Change an Acorn. -/
def updAcorn (s : State) (b : Bool) (f : Acorn → Acorn) : State :=
  updAcorns s fun x => if b then { x with b := f x.b } else { x with a := f x.a }

/-- Change the Cupule. -/
def updCupule (s : State) (f : Cupule → Cupule) : State := updAcorns s fun x => { x with cupule := f x.cupule }

/-- Change the start-up state. -/
def updBoot (s : State) (f : BootUnits → BootUnits) : State := { s with units := { s.units with boot := f s.units.boot } }

/-- Change the power manager. -/
def updPower (s : State) (f : PowerUnits → PowerUnits) : State := { s with units := { s.units with power := f s.units.power } }

/-- HOLDER of an Acorn (R616). -/
def holderNo (b : Bool) : Nat := if b then 2 else 1

/-- Whether an Acorn leads: in service, and holder of a sound Cupule (R614, R624). -/
def leads (s : State) (b : Bool) : Bool :=
  (acornOf s b).up && !s.units.acorns.cupule.deferent && s.units.acorns.cupule.holder = holderNo b

/-- Whether some Acorn leads. -/
def hasLeader (s : State) : Bool := leads s false || leads s true

/-- One step of EPOCH (R616). -/
def nextEpoch (e : Word) : Word := if e = BitVec.allOnes 32 then 1 else e + 1

/-- A new EPOCH goes to every unit, and the Acorns in service read it (R619; log 93). -/
def setEpoch (s : State) (e : Word) : State :=
  let read := fun (a : Acorn) => if a.up then { a with epoch := e } else a
  updAcorns s fun x => { x with a := read x.a, b := read x.b, cupule := { x.cupule with epoch := e } }

/-- The keep watchdog is fed (R375, R376). -/
def feedDog (s : State) : State := updDrop s fun d => { d with keepLow := false }

/-- HOLDER names an Acorn, under a restarted lease; EV_LEASE where it is not the last holder (R617, R621). -/
def holdBy (s : State) (n by_ : Nat) : State :=
  let c := s.units.acorns.cupule
  let s := feedDog (updCupule s fun c => { c with holder := n, last := n, lease := true, lastBy := by_ })
  if c.last ≠ 0 && c.last ≠ n then
    let (s, w) := takeNat s
    raiseAll s evLease (BitVec.ofNat 64 w) (BitVec.ofNat 64 (s.units.acorns.cupule.epoch.toNat + n * 2 ^ 32))
  else s

/-- A grant: EPOCH advances, and HOLDER names an Acorn. -/
def grantTo (s : State) (n by_ : Nat) : State := holdBy (setEpoch s (nextEpoch s.units.acorns.cupule.epoch)) n by_

/-- The parity of the word fails on a request: the Cupule is deferent (R624). -/
def parityFails (s : State) : State := updCupule s fun c => { c with deferent := true, parity := true }

/-- A CLAIM that the element applies (Table 3). -/
def claimLease (b : Bool) (expect : Word) (s : State) : State :=
  let c := s.units.acorns.cupule
  if expect = c.epoch && (c.holder = 0 || !c.lease) then grantTo s (holderNo b) 1 else s

/-- A RENEW. -/
def renewLease (b : Bool) (expect : Word) (s : State) : State :=
  let c := s.units.acorns.cupule
  if expect = c.epoch && c.holder = holderNo b && c.lease then feedDog s else s

/-- A RELEASE. -/
def releaseLease (b : Bool) (expect : Word) (s : State) : State :=
  let c := s.units.acorns.cupule
  if expect = c.epoch && c.holder = holderNo b then
    updCupule (setEpoch s (nextEpoch c.epoch)) fun c => { c with holder := 0, lease := false }
  else s

/-- A Cupule request of an Acorn: only an Acorn in service sends one, a deferent Cupule grants nothing, and the parity is checked first
(R611, R617, R624). -/
def cupuleRequest (b parityOk : Bool) (act : State → State) (s : State) : State :=
  if !(acornOf s b).up || s.units.acorns.cupule.deferent then s
  else if !parityOk then parityFails s
  else act s

/-- CLAIM (R617, R620). -/
def execClaim (acornB : Bool) (expect : Word) (parityOk : Bool) (s : State) : Host.Outcome State Fault Refusal :=
  .next (cupuleRequest acornB parityOk (claimLease acornB expect) s)

/-- RENEW (R618). -/
def execRenew (acornB : Bool) (expect : Word) (parityOk : Bool) (s : State) : Host.Outcome State Fault Refusal :=
  .next (cupuleRequest acornB parityOk (renewLease acornB expect) s)

/-- RELEASE (R617, R623). -/
def execRelease (acornB : Bool) (expect : Word) (parityOk : Bool) (s : State) : Host.Outcome State Fault Refusal :=
  .next (cupuleRequest acornB parityOk (releaseLease acornB expect) s)

/-- LEASE_EXPIRY: the lease lapses, and a standby in service claims it with the EPOCH that it last read (R618, R622). -/
def leaseExpiry (s : State) : State :=
  let c := s.units.acorns.cupule
  if c.deferent || c.holder = 0 || !c.lease then s
  else
    let s := updCupule s fun c => { c with lease := false }
    let b := decide (c.holder = 1)
    cupuleRequest b true (claimLease b (acornOf s b).epoch) s

/-- LEASE_EXPIRY (R622). -/
def execLeaseExpiry (s : State) : Host.Outcome State Fault Refusal := .next (leaseExpiry s)

/-- Units that one reach map holds and another lacks. -/
def reachMissing (have_ lacks : BitVec 16) : Bool := have_ &&& ~~~lacks ≠ 0

/-- ACORN_PROBE: the reach map is published; a leader that twice in a row lacks a unit that the standby reaches, and has none that the
standby lacks, releases (R613, R623). -/
def acornProbe (b : Bool) (reach : BitVec 16) (s : State) : State :=
  if !(acornOf s b).up then s
  else
    let s := updAcorn s b fun a => { a with reach := reach }
    if leads s b then
      let other := (acornOf s (!b)).reach
      let n := if (acornOf s (!b)).up && reachMissing other reach then s.units.acorns.misses + 1 else 0
      if 2 ≤ n && !reachMissing reach other then
        releaseLease b (acornOf s b).epoch (updAcorns s fun x => { x with misses := 0 })
      else updAcorns s fun x => { x with misses := min n 2 }
    else s

/-- ACORN_PROBE (R613). -/
def execAcornProbe (acornB : Bool) (reach : BitVec 16) (s : State) : Host.Outcome State Fault Refusal := .next (acornProbe acornB reach s)

/-- ACORN_SELFTEST: an Acorn that fails halts (R612). -/
def execAcornSelftest (acornB : Bool) (passes : Bool) (s : State) : Host.Outcome State Fault Refusal :=
  .next (if (acornOf s acornB).up && !passes then updAcorn s acornB fun a => { a with up := false, selftest := true } else s)

/-- LOCKSTEP_MISMATCH: the checker halts the Acorn (R611). -/
def execLockstepMismatch (acornB : Bool) (s : State) : Host.Outcome State Fault Refusal :=
  .next (if (acornOf s acornB).up then updAcorn s acornB fun a => { a with up := false, mismatch := true } else s)

/-! ### HUB_FATAL and the bridges (R486, R628, R629) -/

/-- What a package does at HUB_FATAL: it drops out (R378), Pip channels return to memory mode, and the bridges go into self-refresh
(Table 5). -/
def setFatal (s : State) : State :=
  let s := updAcorns s fun x => { x with fatal := true }
  let s := s.units.proc.foldl catchUp s
  let s := dropOut (updPips { s with units := { s.units with proc := [] } } fun p => { p with held := [], waits := [] }) false
  settle (serveHeld (updTier s fun t => { t with selfRefresh := [0, 1], hubLost := [0, 1] }))

/-- HUB_FATAL: neither Acorn is in service, and no lease runs, after the firmware has first started and outside RETAIN (R628). -/
def hubFatal (s : State) : State :=
  let x := s.units.acorns
  if x.bothDown && !x.cupule.deferent && !x.cupule.lease && !x.fatal && 2 ≤ s.units.boot.phase && s.units.power.state < 2 then setFatal s
  else s

/-- HUB_FATAL (R628). -/
def execHubFatal (s : State) : Host.Outcome State Fault Refusal := .next (hubFatal s)

/-- BRIDGE_SELF_REFRESH: a bridge that HUB_FATAL or the silence of its hub link reaches puts its channels in self-refresh (R486). -/
def execBridgeSelfRefresh (bridge : Fin 2) (s : State) : Host.Outcome State Fault Refusal :=
  .next (updTier s fun t => { t with selfRefresh := insertNat bridge.val t.selfRefresh, hubLost := insertNat bridge.val t.hubLost })

/-! ### Recovery of steps (R295, Table 6 of *Speculative update and the commit sweep*) -/

/-- Whether the step that wrote a tile's tag has a commit record. -/
def tagCommitted (s : State) (c : ShardCfg) (t : Nat) : Bool :=
  let tag := leNat (dRead s (tagAddr c t) 8)
  s.step.commits.any fun r => r.tenant = c.tenant && r.stepNo.toNat = tag

/-- Whether recovery restores an undo entry's tile: it was logged, or applied under SPEC for a step with no commit record (R295). -/
def entryRestores (s : State) (c : ShardCfg) (e : Nat) : Bool :=
  let st := dRead s (undoEntryAddr c e + 4) 1
  st = [1] || (st = [2] && specMode c && !tagCommitted s c (leNat (dRead s (undoEntryAddr c e) 4)))

/-- Recovery of one undo entry (R295, Table 3 of *Replica digests, error correction and error reports*). -/
def walkEntry (n : Nat) (c : ShardCfg) (s : State) (e : Nat) : State :=
  let a := undoEntryAddr c e
  let s := if entryRestores s c e then reach s [(a, 0x1000 + fieldCount c * blockBytes c)] else s
  let st := dRead s (a + 4) 1
  let t := leNat (dRead s a 4)
  if entryRestores s c e then
    if poisonIn s a (0x1000 + fieldCount c * blockBytes c) then
      if (firstReplica s c).isSome then dWrite (dueRepair s n t) (a + 4) [0]
      else raiseUe (haltShard s n) (some c.tenant) a
    else undoRestore c s e
  else if st = [2] then dWrite s (a + 4) [0]
  else s

/-- The undo area of a shard; one that had tiles restored is not WRITTEN or READY any more: it is CLEAN, and a decided step sweeps those
tiles again. -/
def walkShard (s : State) (x : Nat × ShardCfg) : State :=
  if capMode x.2 then
    let l := List.range (undoEntries x.2)
    let any := l.any (entryRestores s x.2)
    let s := l.foldl (walkEntry x.1 x.2) s
    if any && [ShardState.written, .ready].contains (shardDyn s x.1).st then setShardState s x.1 .clean else s
  else s

/-- Every undo area, in ascending shard and entry number (R295). -/
def walkUndo (s : State) : State := s.cfg.live.shards.foldl walkShard s

/-- The sweep of a capacity-mode shard goes on from the tiles that already hold the step's result, with the between-pass vector that they
were formed with (R295; log 141). -/
def resumeSweep (s : State) (n : Nat) (c : ShardCfg) (stepNo : DWord) (kept : Option (List Word)) : State :=
  if (sweepOf s n).isSome && (List.range (tileCount c)).any (tagged s c stepNo) then
    updShard (updSweep s n fun w => { w with resume := true, pass1 := kept.isSome, between := kept }) n fun d => { d with between := kept }
  else s

/-- A shard of a decided step that is not yet WRITTEN or READY under its verdict is swept again from the committed slot. -/
def rerunShard (r : StepRun) (v : Verdict) (s : State) (n : Nat) : State :=
  if r.held.contains n || settledShard s n then s
  else match nmGet? s.cfg.live.shards n with
    | none => s
    | some c =>
      let kept := (shardDyn s n).between
      let s := dropBetween { s with step := { s.step with sweeps := s.step.sweeps.filter fun w => w.shard ≠ n } } n c
      let s := shardClean s n
      if v.outcome = 1 && fpShard s n then startOutcomeSweep s r n true v.clip
      else if (List.range (tileCount c)).all fun t => tileReduced s (accAddr c t) then
        resumeSweep (startOutcomeSweep s r n false fpOne) n c r.stepNo kept
      else s

/-- A step at a HUB_RECOVER: abandoned before its verdict; rerun under a decided one; complete past its flips. -/
def recoverRun (s : State) (r : StepRun) : State :=
  match runPlan s r, r.verdict with
  | some g, some v => if r.flipped || v.outcome = 2 then s else g.shards.foldl (rerunShard r v) s
  | _, _ => if r.started then abandonRun s r stAborted else s

/-- Transaction groups: an open one is discarded, and its waiting TXG_END ends with ST_ABORTED; an Ending one completes (R298). -/
def recoverTxg (s : State) (g : Txg) : State :=
  if g.state = .ending then applyGroup s g
  else
    let e := endOf s g
    let s := discardGroup s g
    match e with | some o => finishOp s o (resSt stAborted) | none => s

/-- Operations Running of some opcodes end with a status. -/
def endOps (s : State) (ops : List Nat) (st : Status) : State :=
  (s.fe.ops.filter fun o => o.phase = .running && ops.contains (dOpcode o.desc)).foldl (fun s o => finishOp s o (failRes o st)) s

/-- A CFG_COMMIT before its switch ends with ST_ABORTED; the shadow plane is kept (Table 8 of *The Limbelia image*). -/
def abortCommits (s : State) : State :=
  let s := match s.cfg.wait with | some w => endCommit s w stAborted | none => s
  endOps s [opCfgCommit] stAborted

/-- Copies of move units before their switch stop, and their commands end (Table 5 of *Capacity tier and migration*). -/
def abortMoves (s : State) : State :=
  let hs := s.units.tier.moves.map fun m => m.2.2
  let s := updTier s fun t => { t with moves := [] }
  (s.fe.ops.filter fun o => opLive o && hs.contains o.handle).foldl (fun s o => finishOp s o { resSt stAborted with res1 := o.res1 }) s

/-- Every PLAN_RUN of a package that has dropped out ends with ST_DROPPED (R632). -/
def dropRuns (s : State) : State :=
  if s.hz.drop.dropped then s.step.runs.foldl (fun s r => abandonRun s r stDropped) s else s

/-- Every Pip run stops after its atom, and its PIM_RUN ends with ST_ABORTED (Table 7 of *Pips: logic in the sense amplifiers*). -/
def abortPims (s : State) : State :=
  let hs := s.units.pips.runs.map fun e => e.2.handle
  let s := updPips { s with units := { s.units with proc := [] } } fun _ => ⟨[], [], [], []⟩
  (s.fe.ops.filter fun o => opLive o && hs.contains o.handle).foldl (fun s o => finishOp s o (resSt stAborted)) s

/-- Step 4 of R631. -/
def leaderRecovery (s : State) : State :=
  let s := walkUndo s
  let s := s.step.runs.foldl recoverRun s
  let s := s.step.txgs.foldl recoverTxg s
  dropRuns (abortPims (abortMoves (abortCommits s)))

/-- Steps 4 and 5 of R631: recovery, HUB_FATAL clears, the bridges leave self-refresh, and fetch resumes. Where a start-up had stopped
for want of an Acorn, it goes on (log 112). -/
def finishRecover (s : State) : State :=
  let s := leaderRecovery (if s.units.boot.phase = 7 then updBoot s fun b => { b with phase := 2 } else s)
  let s := updAcorns s fun x => { x with fatal := false, running := false, recovers := BitVec.ofNat 8 (satTo 0xFF (x.recovers.toNat + 1)) }
  let s := updTier s fun t => { t with selfRefresh := [], hubLost := [] }
  settle (serveHeld { s with units := { s.units with fetchStop := s.units.boot.warm } })

/-! ### HUB_RECOVER (R630 to R634) -/

/-- An Acorn after a restart: its halt bits clear where its self-test passes it. -/
def restarted (a : Acorn) (runs passes : Bool) (e : Word) : Acorn :=
  if !runs then { a with up := false }
  else if passes then { a with up := true, mismatch := false, selftest := false, epoch := e }
  else { a with up := false, selftest := true }

/-- Steps 2 and 3 of R631: both Acorns start from the retained copy, or from the flash where that copy fails its check, and each that
passes its self-test claims the Cupule. -/
def restartAcorns (v : RestartView) (s : State) : State :=
  let runs := v.copyOk || v.reloadOk
  let e := s.units.acorns.cupule.epoch
  let s := updAcorns s fun x => { x with
    a := restarted x.a runs v.aPasses e, b := restarted x.b runs v.bPasses e, fwFlash := if runs then !v.copyOk else x.fwFlash, misses := 0 }
  let claim := fun (b : Bool) (s : State) => cupuleRequest b true (claimLease b e) s
  if v.aFirst then claim true (claim false s) else claim false (claim true s)

/-- A RETAIN request is refused, and fetch resumes (R687). -/
def refuseRetain (why : Nat) (s : State) : State :=
  let s := updPower s fun p => { p with state := 0, refused := true, why := why }
  { s with units := { s.units with fetchStop := false } }

/-- Whether start-up is over, or stopped with no Acorn in service: no COLD or WARM reset is under way, and the boot has not stopped for
want of firmware (R705, R709, R721). -/
def startedUp (s : State) : Bool :=
  let b := s.units.boot
  if b.phase = 7 then decide (b.fail = 3) else !b.warm && decide (4 ≤ b.phase)

/-- Whether a HUB_RECOVER acts: start-up is over, and the package is not in RETAIN (R694). -/
def recoverAllowed (s : State) : Bool := startedUp s && decide (s.units.power.state < 2)

/-- HUB_RECOVER (R631). -/
def hubRecover (v : RestartView) (s : State) : State :=
  if !recoverAllowed s then s
  else
    let s := if s.units.power.state = 1 then refuseRetain 5 s else s
    let down := fun (a : Acorn) => { a with up := false }
    let s := updAcorns s fun x => { x with
      a := down x.a, b := down x.b, running := true, cupule := { x.cupule with holder := 0, lease := false, epoch := nextEpoch x.cupule.epoch } }
    let s := restartAcorns v s
    if hasLeader s then finishRecover s else s

/-- A write to a register that acts only over I3C (R626, R637, R691, R700). -/
def i3cWrite (r : Requester) (off : Nat) (act : State → State) (s : State) : State :=
  match r with
  | .host _ _ _ => answerWrite s r ((regRefusal s r off).getD stPriv)
  | .i3c => answerWrite (act s) r stOk
  | .tap => s

/-- A write of HUB_RECOVER_CTRL: GO with the confirmation value. -/
def recoverCtrl (r : Requester) (v : Word) (view : RestartView) (s : State) : State :=
  i3cWrite r 0x311C (fun s => if v.getLsbD 0 && fld v 8 8 = 0x5A then hubRecover view s else s) s

/-- HUB_RECOVER (R630). -/
def execHubRecover (cause : RecoverCause) (restart : RestartView) (s : State) : Host.Outcome State Fault Refusal :=
  .next (match cause with
    | .recoverN => hubRecover restart s
    | .recoverCtrl req value => recoverCtrl req value restart s)

/-! ### The end of the deferent state, and lead commands (R625, R626) -/

/-- The Acorn that takes the Cupule where one is named: the other where the named one is halted; 0 where both are. -/
def namedHolder (s : State) (b : Bool) : Nat :=
  if (acornOf s b).up then holderNo b else if (acornOf s (!b)).up then holderNo (!b) else 0

/-- One more than the larger of the reported epochs; with no Acorn to report, the manual gives none: a free value (log 93). -/
def reportedEpoch (s : State) : State × Word :=
  let l := [false, true].filter fun b => (acornOf s b).up
  if l.isEmpty then
    let x := takeNat s
    (x.1, word (1 + x.2 % (2 ^ 32 - 1)))
  else (s, nextEpoch (word (l.foldl (fun m b => max m (acornOf s b).epoch.toNat) 0)))

/-- The Cupule rewrites its word; a HUB_RECOVER that waited for the holder goes on (R625, R634). -/
def endDeferent (s : State) (b : Bool) (by_ : Nat) : State :=
  let n := namedHolder s b
  let x := reportedEpoch s
  let s := updCupule (setEpoch x.1 x.2) fun c => { c with deferent := false }
  if n = 0 then updCupule s fun c => { c with holder := 0, lease := false, lastBy := by_ }
  else
    let s := holdBy s n by_
    if s.units.acorns.running then finishRecover s else s

/-- DEFERENT_TIMEOUT: the LEAD_SEL strap names the holder (R625). -/
def execDeferentTimeout (s : State) : Host.Outcome State Fault Refusal :=
  .next (if s.units.acorns.cupule.deferent then endDeferent s s.units.fuses.leadSel 2 else s)

/-- A lead command: a forced handover, or, under SRC 1, the end of the deferent state; none before the grant of a HUB_RECOVER (Table 3,
R625, R626, R634). -/
def leadCommand (v : Word) (s : State) : State :=
  let b := v.getLsbD 0
  if fld v 8 8 ≠ 0x5A then s
  else if s.units.acorns.cupule.deferent then
    if (regGet s 0x3114 0).getLsbD 0 && (acornOf s b).up then endDeferent s b 3 else s
  else if s.units.acorns.running then s
  else grantTo s (holderNo b) 3

/-- LEAD (R626). -/
def execLead (req : Requester) (value : Word) (s : State) : Host.Outcome State Fault Refusal :=
  .next (i3cWrite req 0x3118 (leadCommand value) s)

/-! ### Units that fail (R35, R37, R614, R627) -/

/-- Row of Table 2 of a hub unit, counted from 0. -/
def unitRow (u : Nat) : Nat := if u ≤ 1 then u else if u ≤ 7 then 2 else u - 5

/-- Engines stop, and every command that is not Done ends with a status, with the counts that it has made (R145, R148). -/
def endWork (s : State) (st : Status) : State :=
  let ns := s.step.sweeps.map fun w => w.shard
  let s := ns.foldl shardClean { s with step := { s.step with sweeps := [], trees := [], colls := [], phases := [] } }
  let s := { s with cfg := { s.cfg with wait := none } }
  let s := updTier s fun t => { t with moves := [] }
  let s := updPips { s with units := { s.units with proc := [] } } fun _ => ⟨[], [], [], []⟩
  let s := (liveOps s).foldl (fun s o => stopOp s o st) s
  serveHeld (releaseWrites s)

/-- Every step is abandoned, and every command that is not Done ends with a status. -/
def endAll (s : State) (st : Status) : State := endWork (s.step.runs.foldl (fun s r => abandonRun s r st) s) st

/-- The leader's response to the failure of a hub unit (Table 2; log 97). -/
def unitFailure (u : Nat) (s : State) : State :=
  if !hasLeader s then s
  else
    let s := updAcorns s fun x => { x with failed := insertNat u x.failed, unitFail := BitVec.ofNat 4 (unitRow u) }
    let s := logRecordOpen s (if u = 11 then 0x0D else 0x0C) 0 (unitRow u) 0xF
    if u = 1 then dropSelf s
    else if 2 ≤ u && u ≤ 7 then settle (endAll (dropSelf s) stDropped)
    else if u = loaderUnit then settle (releaseWrites (endOps (abortCommits s) [opCfgStage] stAborted))
    else if u = 9 && s.units.power.state = 1 then refuseRetain 6 s
    else s

/-- HUB_UNIT_FAILURE (R627). -/
def execHubUnitFailure (unit : Fin 12) (s : State) : Host.Outcome State Fault Refusal := .next (unitFailure unit.val s)

/-- SPROUT_FAILURE: the leader moves its work to other Sprouts, which changes no result (R30, R614). -/
def execSproutFailure (_ : Fin 7) (s : State) : Host.Outcome State Fault Refusal := .next s

/-- Number of a spine link in `boot.spine`. -/
def spineNo : SpineLink → Nat
  | .hubBase n => n.val
  | .bridgeBase m n => 4 + 4 * m.val + n.val
  | .bridgeHub m => 12 + m.val

/-- SPINE_MODULE_FAILURE: the link runs on the modules that remain; with none on a hub link the package drops out (R35, R37). -/
def spineFailure (l : Nat) (s : State) : State :=
  let k := spineMods s l
  if k = 0 then s
  else
    let s := updBoot s fun b => { b with spine := nmSet b.spine l (k - 1) }
    if k = 1 && (l < 4 || 12 ≤ l) then dropSelf s else s

/-- SPINE_MODULE_FAILURE (R35). -/
def execSpineModuleFailure (link : SpineLink) (s : State) : Host.Outcome State Fault Refusal := .next (spineFailure (spineNo link) s)

end Sys2Proof.Machine
end

