-- ==== Sys2Proof/Machine/Resets.lean ====
section
/-! DEFINITION. The resets, start-up, the keep control and the power states RETAIN and L1 (*Start-up, reset and link training*;
*Self-timed operation, power and sleep*). -/

namespace Sys2Proof.Machine

/-! ### COLD (R700, R701) -/

/-- A COLD reset: every field at its cold value; the fuses, the strap and the Husk keep what they hold. -/
def coldReset (s : State) : State :=
  { State.reset with
    pending := s.pending, free := s.free + 1
    mem := { memReset with pIndex := s.free }
    units := { unitsReset with fuses := s.units.fuses, husk := s.units.husk } }

/-! ### WARM (R701, R702) -/

/-- A decided step's command ends with its outcome reported; its records stay for the recovery of step 6. -/
def endDecided (s : State) (r : StepRun) : State :=
  match findOp s r.handle with
  | some o => if opLive o then finishOp s o { runRes r stAborted (runOutcome r) with counts := o.counts } else s
  | none => s

/-- Whether a verdict of a run has been decided. -/
def decidedRun (r : StepRun) : Bool := r.verdict.isSome

/-- Steps 1 and 2: engines stop, undecided steps are abandoned, and every command that is not Done ends with ST_ABORTED. -/
def warmEnd (s : State) : State :=
  let s := (s.step.runs.filter fun r => !decidedRun r).foldl (fun s r => abandonRun s r stAborted) s
  let s := s.step.runs.foldl endDecided s
  endWork (abandonCompares s) stAborted

/-- Registers after a WARM reset: cold values, but for what Table 3 keeps: PLIST_FULL, and under a seal the LK fields (log 102). -/
def warmRegs (s : State) : NMap Word :=
  let full := regGet s 0x2008 0 &&& 3
  let r : NMap Word := if full = 0 then [] else [(0x2008, full)]
  if s.cfg.isSealed then nmSet (nmSet r 0x1C (regGet s 0x1C 0)) 0x3114 (regGet s 0x3114 0) else r

/-- The live configuration without a staged image or a fallback case. -/
def ownConfig (s : State) : State :=
  let p := ownPlane s
  updDrop { s with cfg := { s.cfg with live := p, shadow := p, base := none, staged := false, image := false } } fun d => { d with cas := none }

/-- The front end after a WARM reset: counts, handle table, rings and sync objects are kept. -/
def warmFront (f : FrontEnd) : FrontEnd := { f with push := [], pushWait := [], modules := [], held := [], heldReg := [] }

/-- Contributions that a tile's sequence holds are lost; its tickets go on (log 102). -/
def warmTile (x : Nat × TileDyn) : Nat × TileDyn := (x.1, { x.2 with held := [], plan := [] })

/-- The step engine after a WARM reset. -/
def warmStep (e : StepEngine) : StepEngine :=
  { e with tiles := e.tiles.map warmTile, sweeps := [], locks := [], trees := [], colls := [], phases := [], turns := [], compares := [] }

/-- The Acorn units as a WARM reset starts: the Cupule keeps its word, and no lease runs. -/
def warmAcorns (x : AcornUnits) : AcornUnits :=
  { acornsReset with fwFlash := x.fwFlash, cupule := { x.cupule with lease := false, deferent := false, parity := false } }

/-- The units after a WARM reset. -/
def warmUnits (u : Units) : Units :=
  { unitsReset with
    integ := { integrityReset with log := u.integ.log, logSeq := u.integ.logSeq, repairs := u.integ.repairs }
    tier := { u.tier with moves := [], lecc := [], lpFailed := [], selfRefresh := [0, 1], hubLost := [] }
    totals := u.totals
    acorns := warmAcorns u.acorns
    boot := { u.boot with phase := 3, join := false, fail := 0, miswired := false, trained := [], lpDone := false, resets := [], warm := true }
    fetchStop := true
    power := { powerReset with refclk := u.power.refclk }
    occ := u.occ, i3c := u.i3c, tap := { u.tap with out := [] }, fuses := u.fuses, husk := u.husk }

/-- Steps 3 and 4: caches and adder buffers are written back, the memories are in self-refresh, and S-space is zero. -/
def warmClear (s : State) : State :=
  let regs := warmRegs s
  let s := ownConfig (flushLines s fun _ => true)
  { s with
    regs := regs, latches := []
    mem := { s.mem with scells := [], sopen := [], copies := [] }
    fe := warmFront s.fe
    cfg := { s.cfg with lkDrop := false, pairBad := false, lastSt := 0, wait := none, heldWr := [] }
    step := warmStep s.step
    hz := { fabricReset with nextStream := s.hz.nextStream, out := s.hz.out, drop := { dropReset with dropped := true } }
    units := warmUnits s.units }

/-- A start-up failure: the first one is recorded (R721). -/
def noteFail (k : Nat) (s : State) : State := updBoot s fun b => { b with fail := if b.fail = 0 then k else b.fail }

/-- The boot stops: PHASE 7, and the package acts as for HUB_FATAL (R709, Table 5). -/
def stopBoot (k : Nat) (s : State) : State := setFatal (updBoot (noteFail k s) fun b => { b with phase := 7 })

/-- A WARM reset up to the start of its trainings; a rail that is out of range outside RETAIN is a COLD reset instead (R699). -/
def warmReset (v : RestartView) (s : State) : State :=
  if !startedUp s then s
  else if s.units.power.noUcie || s.units.power.noHz then coldReset s
  else
    let s := restartAcorns v (warmClear (warmEnd s))
    if hasLeader s then s else stopBoot 3 s

/-! ### HUB_RESET_CTRL (R700) -/

/-- What a restart meets where the command does not say: free bits. -/
def freeRestart (s : State) : State × RestartView :=
  let a := takeBit s
  let b := takeBit a.1
  let c := takeBit b.1
  let d := takeBit c.1
  let e := takeBit d.1
  (e.1, ⟨a.2, b.2, c.2, d.2, e.2⟩)

/-- What a KIND with its confirmation starts. -/
def resetKind (v : Word) : Nat := if fld v 8 8 = 0x5A then fld v 0 2 else 0

/-- A write of HUB_RESET_CTRL. A COLD reset takes its reply with it. -/
def resetCtrl (r : Requester) (v : Word) (view : Option RestartView) (s : State) : State :=
  let warm := fun (s : State) => match view with
    | some w => warmReset w s
    | none => let x := freeRestart s; warmReset x.2 x.1
  if r = .i3c && resetKind v = 2 then coldReset s
  else i3cWrite r 0x88 (fun s => if resetKind v = 1 then warm s else s) s

/-- COLD_RESET (R701). -/
def execColdReset (cause : ColdCause) (s : State) : Host.Outcome State Fault Refusal :=
  .next (match cause with
    | .resetN => coldReset s
    | .railLeavesRange => coldReset s
    | .resetCtrl req value => resetCtrl req value none s)

/-- WARM_RESET (R702). -/
def execWarmReset (cause : WarmCause) (restart : RestartView) (s : State) : Host.Outcome State Fault Refusal :=
  .next (match cause with
    | .warmN => warmReset restart s
    | .resetCtrl req value => resetCtrl req value (some restart) s)

/-! ### Start-up (R698, R706 to R717, R721, R722) -/

/-- A failure that blocks the package from joining: its keep outputs stay low until the next COLD or WARM reset (Table 5). -/
def blockJoin (k : Nat) (s : State) : State :=
  updDrop (updBoot (noteFail k s) fun b => { b with join := true }) fun d => { d with dropped := true, keepDelay := false }

/-- Modules of a spine link (R35). -/
def spineSize (l : Nat) : Nat := if l < 4 then 8 else if l < 12 then 4 else 2

/-- Modules of a link that trained, by a list of findings. -/
def spineFound (found : List (SpineLink × Nat)) (l : Nat) : Nat :=
  min (spineSize l) (((found.find? fun x => spineNo x.1 = l).map (·.2)).getD 0)

/-- Whether a spine link carries fewer than half its modules (R36). -/
def spineShort (s : State) : Bool := s.units.boot.spine.any fun l => 2 * l.2 < spineSize l.1

/-- RESET_RELEASE: the spine trains, at a COLD start-up or again in a WARM reset; a link with fewer than half its modules blocks the package. -/
def resetRelease (found : List (SpineLink × Nat)) (s : State) : State :=
  if s.units.boot.phase = 1 && s.units.boot.spine.isEmpty then
    let s := updBoot s fun b => { b with spine := (List.range 14).map fun l => (l, spineFound found l) }
    if spineShort s then blockJoin 5 s else s
  else if s.units.boot.warm then updBoot s fun b => { b with spine := (List.range 14).map fun l => (l, spineFound found l) }
  else s

/-- RESET_RELEASE (R698, R36). -/
def execResetRelease (spine : List (SpineLink × Nat)) (s : State) : Host.Outcome State Fault Refusal := .next (resetRelease spine s)

/-- The bytes of a firmware slot, 1 or 0, as the directory of the flash places it (Table 4). -/
def flashSlot (flash : List Byte) (one : Bool) : List Byte :=
  cut flash (num flash (if one then 16 else 8) 4) (num flash (if one then 20 else 12) 4)

/-- SVN of a slot. -/
def slotSvn (x : List Byte) : Nat := num x 4 2

/-- Whether a firmware slot, whole and of some length, is valid (R709). -/
def slotValid (s : State) (x : List Byte) : Bool :=
  let key := cut x 256 97
  decide (449 ≤ x.length) && num x 0 4 = 0x4B505746 && decide (s.units.fuses.svnMin.toNat ≤ slotSvn x) && sha384 key = s.units.fuses.rootHash &&
    verifySig key (sha384 (x.take (x.length - 96))) (x.drop (x.length - 96))

/-- Whether the directory names a slot that lies whole in the flash. -/
def slotThere (flash : List Byte) (one : Bool) : Bool :=
  num flash 0 4 = 0x57524D46 && (flashSlot flash one).length = num flash (if one then 20 else 12) 4

/-- Whether a slot of the flash is valid. -/
def slotBoots (s : State) (flash : List Byte) (one : Bool) : Bool := slotThere flash one && slotValid s (flashSlot flash one)

/-- The slot that the boot ROM boots: true for slot 1. -/
def bootSlot (s : State) (f : FlashView) : Option Bool :=
  match slotBoots s f.flash false, slotBoots s f.flash true with
  | true, true => some (decide (slotSvn (flashSlot f.flash false) < slotSvn (flashSlot f.flash true)))
  | true, false => some false
  | false, true => some true
  | false, false => none

/-- The Acorn section of a slot, the first that SECTIONS places from the slot's start, its entry laid out as the directory's (DESIGN CHOICE,
log 149). -/
def acornSection (x : List Byte) : List Byte := cut x (num x 16 4) (num x 20 4)

/-- The Acorns start from a slot: A where it passes its self-test, B where it also finds the same digest (R710). -/
def startAcorns (f : FlashView) (slot : Bool) (s : State) : State :=
  let x := flashSlot f.flash slot
  let copy := acornSection x
  let s := updBoot s fun b => { b with
    phase := 2, svn := BitVec.ofNat 12 (slotSvn x), abi := BitVec.ofNat 8 (num x 6 1), fwSlot := slot, fwCopy := copy, fwDigest := sha384 copy }
  let e := s.units.acorns.cupule.epoch
  let start := fun (runs passes : Bool) => { acornDown with up := runs && passes, selftest := runs && !passes, epoch := e }
  let s := updAcorns s fun a => { a with a := start true f.aPasses, b := start f.agree f.bPasses }
  if s.units.acorns.bothDown then stopBoot 3 s else s

/-- FIRMWARE_BOOT: once the spine has trained, the boot ROM reads the flash. -/
def firmwareBoot (f : FlashView) (s : State) : State :=
  if s.units.boot.phase ≠ 1 || s.units.boot.spine.isEmpty then s
  else if !f.sfdp || !f.quad then stopBoot 1 s
  else match bootSlot s f with
    | none => stopBoot 2 s
    | some slot => startAcorns f slot s

/-- FIRMWARE_BOOT (R706, R709, R710). -/
def execFirmwareBoot (flash : FlashView) (s : State) : Host.Outcome State Fault Refusal := .next (firmwareBoot flash s)

/-- Whether the internal trainings are under way. -/
def trainingOn (s : State) : Bool := [2, 3].contains s.units.boot.phase

/-- PHASE 3 from the first training on (log 92). -/
def enterTraining (s : State) : State := updBoot s fun b => { b with phase := 3 }

/-- SPROUT_LOAD: a die whose Sprouts are not all loaded blocks the package. -/
def sproutLoad (die : Nat) (loaded : Bool) (s : State) : State :=
  if !trainingOn s || !hasLeader s then s
  else if loaded then updBoot s fun b => { b with sprouts := insertNat die b.sprouts }
  else blockJoin 4 (updBoot s fun b => { b with sprouts := b.sprouts.filter fun d => d ≠ die })

/-- SPROUT_LOAD (R711). -/
def execSproutLoad (die : Fin 7) (loaded : Bool) (s : State) : Host.Outcome State Fault Refusal := .next (sproutLoad die.val loaded s)

/-- Retired TSV lanes of a package channel (R767): entries of KIND 0, with UNIT in bits [6:1] and LANE in bits [15:7]. -/
def retiredLanes (s : State) (c : Nat) : List Nat :=
  (nmGet [] s.units.fuses.retired (c / 64)).filterMap fun e => if e % 2 = 0 && e / 2 % 64 = c % 64 then some (e / 128 % 512) else none

/-- CHANNEL_TRAINING: a spare for each failed or retired lane; with more than 8 the channel is failed and the package blocked. -/
def channelTraining (c : Nat) (lanes : List Nat) (s : State) : State :=
  if !trainingOn s || s.units.boot.trained.contains c then s
  else
    let bad := (lanes ++ retiredLanes s c).eraseDups
    let s := updBoot (enterTraining s) fun b => { b with trained := insertNat c b.trained }
    if 8 < bad.length then blockJoin 6 (failChannel s c)
    else updChan s c fun x => { x with
      inService := true, failed := false, spares := bad.length, lastLane := if bad.isEmpty then x.lastLane else BitVec.ofNat 9 (bad.foldl max 0) }

/-- CHANNEL_TRAINING (R713, R415). -/
def execChannelTraining (channel : Fin 256) (failedLanes : List Nat) (s : State) : Host.Outcome State Fault Refusal :=
  .next (channelTraining channel.val failedLanes s)

/-- Whether the fitted channels of a bridge are 0 to N − 1 for an allowed N (R483). -/
def fittingGood (l : List Nat) : Bool := [0, 8, 16, 32].contains l.length && (List.range l.length).all l.contains

/-- Channels that a failed training leaves failed: which, the training does not say: free bits. -/
def markLpFailed (s : State) (c : Nat) : State :=
  let x := takeBit s
  if x.2 then updTier x.1 fun t => { t with lpFailed := insertNat c t.lpFailed } else x.1

/-- LPDDR5X_TRAINING: the highest rate that every fitted channel passes, or N = 0. -/
def lpTraining (f0 f1 : List Nat) (sizesOk : Bool) (passes : BitVec 3) (s : State) : State :=
  if !trainingOn s || s.units.boot.lpDone then s
  else
    let s := updBoot (enterTraining s) fun b => { b with lpDone := true }
    let s := updTier s fun t => { t with selfRefresh := [], hubLost := [], lpFailed := [] }
    let rate := [2, 1, 0].find? fun k => passes.getLsbD k || f0.isEmpty
    match (if fittingGood f0 && fittingGood f1 && f0.length = f1.length && sizesOk then rate else none) with
    | some k => updTier s fun t => { t with lpChannels := f0.length, lpRate := BitVec.ofNat 2 k }
    | none =>
      let s := updTier s fun t => { t with lpChannels := 0 }
      let s := if sizesOk then ((f0.filter (· < 32)) ++ (f1.filter (· < 32)).map (32 + ·)).foldl markLpFailed s else s
      blockJoin 7 s

/-- LPDDR5X_TRAINING (R715). -/
def execLpddr5xTraining (fitted0 fitted1 : List Nat) (sizesOk : Bool) (passes : BitVec 3) (s : State) : Host.Outcome State Fault Refusal :=
  .next (lpTraining fitted0 fitted1 sizesOk passes s)

/-- UE_SELFTEST: the UE's bit is set only if every check passes. -/
def ueSelftest (u : Nat) (passes : Bool) (s : State) : State :=
  if !trainingOn s then s
  else
    let m : BitVec 320 := BitVec.ofNat 320 (2 ^ u)
    { s with units := { s.units with ues := { s.units.ues with
      avail := if passes then s.units.ues.avail ||| m else s.units.ues.avail &&& ~~~m } } }

/-- UE_SELFTEST (R717). -/
def execUeSelftest (ue : Fin 320) (passes : Bool) (s : State) : Host.Outcome State Fault Refusal := .next (ueSelftest ue.val passes s)

/-- Whether every die has a UE in service. -/
def everyDieHasUe (s : State) : Bool :=
  (List.range 6).all fun d => (List.range 320).any fun u => ueDie u = d && s.units.ues.avail.getLsbD u

/-- The live configuration is rebuilt from the image store; where its bank does not match the digest kept for it, the boot configuration
applies (R692, R702; log 101). -/
def rebuildLive (s : State) : State :=
  let s := ownConfig s
  let kept := if s.cfg.bank then s.cfg.digest1 else s.cfg.digest0
  if s.cfg.live.isImage && sha384 (bankImage s s.cfg.bank) ≠ kept then
    updBoot { s with cfg := { s.cfg with live := bootPlane, shadow := bootPlane, lastSt := stCfgAuth } } fun b =>
      { b with phase := if b.phase = 5 then 4 else b.phase }
  else s

/-- A decided step goes on to its outcome, through the commands that any step goes through; its PLAN_RUN is Done already. What the ports held
of its narrow tiles is lost, and goes out again (Table 6 of *Speculative update and the commit sweep*; log 102). -/
def carryOn (s : State) (r : StepRun) : State := resendNarrow (recoverRun s r) r.handle

/-- Step 6 of a WARM reset: the live configuration, its register presets, and the leader's recovery. -/
def warmFinish (s : State) : State :=
  let s := rebuildLive (updBoot s fun b => { b with warm := false })
  let s := s.cfg.live.regs.foldl applyPreset s
  let s := walkUndo s
  let s := updDrop s fun d => { d with wdog := false, dropped := s.units.boot.join }
  let s := s.step.runs.foldl carryOn s
  let s := s.step.txgs.foldl recoverTxg s
  updBoot { s with units := { s.units with fetchStop := false } } fun b => { b with
    warms := BitVec.ofNat 16 (satTo 0xFFFF (b.warms.toNat + 1)), phase := if s.cfg.live.isImage then 5 else 4 }

/-- BOOT_READY: every internal training has ended, and the boot or live configuration is in place. -/
def bootReady (s : State) : State :=
  let b := s.units.boot
  if !trainingOn s || b.trained.length ≠ 256 || !b.lpDone || !hasLeader s then s
  else
    let s := if spineShort s then blockJoin 5 s else s
    let s := if everyDieHasUe s then s else blockJoin 8 s
    settle (serveHeld (if b.warm then warmFinish s else updBoot s fun b => { b with phase := 4 }))

/-- BOOT_READY (R722). -/
def execBootReady (s : State) : Host.Outcome State Fault Refusal := .next (bootReady s)

/-! ### HUB_KEEP_CTRL (R375, R379, R693) -/

/-- HUB_KEEP_CTRL after a write: ARM is stored, and ports whose keep output falls are idle; DROP_SELF starts a dropout. -/
def setKeep (v : Word) (s : State) : State :=
  let s := idlePorts (regSet s 0x1010 (v &&& 0x1FF))
  if v.getLsbD 16 then dropSelf s else s

/-- A write of HUB_KEEP_CTRL. -/
def keepWrite (r : Requester) (v : Word) (s : State) : State := writeReg r 0x1010 v (fun s => (setKeep v s, stOk)) s

/-- ARM (R375). -/
def execArm (req : Requester) (value : Word) (s : State) : Host.Outcome State Fault Refusal := .next (keepWrite req value s)

/-- DROP_SELF (R379). -/
def execDropSelf (req : Requester) (value : Word) (s : State) : Host.Outcome State Fault Refusal := .next (keepWrite req value s)

/-! ### HUB_PORT_RESET (R704) -/

/-- A module group stops and retrains: what its modules held goes with them, and the push pieces held for its queues are dropped. -/
def resetGroup (g : Nat) (s : State) : State :=
  let ks := (List.range 4).map fun k => 4 * g + k
  let s := ks.foldl (fun s k => dropModule (updModule s k fun _ => ⟨false, 0, false⟩) k) s
  let s := { s with fe := { s.fe with push := s.fe.push.filter fun x => (planeQueue s.cfg.live x.queue).group.toNat ≠ g } }
  let s := updPower s fun p => { p with doze := p.doze.filter fun d => d ≠ g }
  updBoot s fun b => { b with resets := insertNat g b.resets }

/-- A Hazel port retrains; its replay buffer is kept. -/
def resetHazel (p : Nat) (s : State) : State :=
  let s := updPort s p fun x => { x with up := false, out := false }
  if keepHigh s (p / 2) then updBoot s fun b => { b with resets := insertNat (16 + p) b.resets } else s

/-- A PORT reset of a TARGET: none during a stronger reset, and no second one of the same target (R705). -/
def portReset (t : Nat) (s : State) : State :=
  if s.units.boot.warm || s.units.boot.phase < 4 || s.units.boot.resets.contains t then s
  else if t < 16 then resetGroup t s
  else if t < 34 then resetHazel (t - 16) s
  else s

/-- A write of HUB_PORT_RESET: it is answered before the port stops. -/
def portResetWrite (r : Requester) (v : Word) (s : State) : State :=
  match writeDenied s r 0x8C with
  | some st => answerWrite s r st
  | none => portReset (fld v 0 6) (answerWrite s r stOk)

/-- PORT_RESET_GROUP (R704). -/
def execPortResetGroup (req : Requester) (value : Word) (s : State) : Host.Outcome State Fault Refusal := .next (portResetWrite req value s)

/-- PORT_RESET_HAZEL (R704). -/
def execPortResetHazel (req : Requester) (value : Word) (s : State) : Host.Outcome State Fault Refusal := .next (portResetWrite req value s)

/-! ### RETAIN (R687 to R692) -/

/-- The first condition of R687 that does not hold, as REFUSE_WHY; 0 where all hold. -/
def retainWhy (s : State) : Nat :=
  if s.fe.ops.any opLive then 1
  else if s.cfg.live.shards.any (fun e => !([ShardState.clean, .held].contains (shardDyn s e.1).st)) || !s.step.txgs.isEmpty ||
      !s.units.integ.repairs.isEmpty then 2
  else if regGet s 0x1010 0 &&& 0x1FF ≠ 0 then 3
  else if !s.units.proc.isEmpty || !s.units.tier.moves.isEmpty then 4
  else if s.units.acorns.running then 5
  else 0

/-- A request of RETAIN: fetch stops, and channels held under HOLD return to memory mode; a failed power manager refuses it. -/
def requestRetain (s : State) : State :=
  if s.units.power.state ≠ 0 || !startedUp s then s
  else if s.units.acorns.failed.contains 9 then refuseRetain 6 s
  else
    let held := s.units.pips.held
    let s := held.foldl catchUp (updPower s fun p => { p with state := 1 })
    let s := updPips { s with units := { s.units with proc := s.units.proc.filter fun c => !held.contains c, fetchStop := true } } fun p =>
      { p with held := [] }
    settle (serveHeld s)

/-- RETAIN_ENTRY: once the conditions hold. -/
def retainEntry (s : State) : State :=
  if s.units.power.state ≠ 1 || retainWhy s ≠ 0 then s
  else
    let s := { s with mem := { s.mem with scells := [], sopen := [], copies := [] }, fe := { s.fe with push := [] } }
    let s := updTier (setCache (flushLines s fun _ => true) []) fun t => { t with selfRefresh := [0, 1] }
    let s := { s with units := { s.units with adders := [] } }
    let down := fun (a : Acorn) => { a with up := false }
    let s := updAcorns s fun x => { x with a := down x.a, b := down x.b, cupule := { x.cupule with lease := false } }
    updPower (idlePorts (updDrop s fun d => { d with keepLow := true })) fun p => { p with state := 2, doze := [] }

/-- RETAIN_ENTRY (R688). -/
def execRetainEntry (s : State) : Host.Outcome State Fault Refusal := .next (retainEntry s)

/-- RETAIN_REFUSE: the conditions do not hold within 10 ms. -/
def retainRefuse (s : State) : State :=
  if s.units.power.state = 1 && retainWhy s ≠ 0 then settle (refuseRetain (retainWhy s) s) else s

/-- RETAIN_REFUSE (R687). -/
def execRetainRefuse (s : State) : Host.Outcome State Fault Refusal := .next (retainRefuse s)

/-- Pending events of a tenant go out as far as its ring has room. -/
def writeAllPending (s : State) (t : Nat) : State := (ringOf s t).pending.foldl (fun s e => writePending t e.code s) s

/-- WAKE: the steps of R692; a rail still removed is a COLD reset (R699), and with no Acorn that passes HUB_FATAL is set (R633). -/
def wake (v : RestartView) (s : State) : State :=
  if s.units.power.state ≠ 2 then s
  else if s.units.power.noUcie || s.units.power.noHz then coldReset s
  else
    let s := updTier s fun t => { t with selfRefresh := [], hubLost := [] }
    let s := restartAcorns v s
    let s := { s with
      fe := { s.fe with modules := s.fe.modules.map fun m => (m.1, { m.2 with up := false, fails := 0 }) }
      hz := { s.hz with ports := s.hz.ports.map fun p => (p.1, { p.2 with up := false }) } }
    let s := rebuildLive s
    let s := updPower { s with units := { s.units with fetchStop := false } } fun p => { p with state := 0 }
    let s := (List.range 16).foldl writeAllPending s
    let s := if hasLeader s then s else setFatal s
    settle (serveHeld s)

/-- HUB_PWR_CTRL after a write; WAKE acts over I3C alone, and RETAIN not in the same write as a WAKE that acts. -/
def setPower (r : Requester) (v : Word) (view : Option RestartView) (s : State) : State :=
  let s := regSet s 0x301C (v &&& 0xFFFF00)
  if v.getLsbD 1 && r = .i3c && s.units.power.state = 2 then
    match view with
    | some w => wake w s
    | none => let x := freeRestart s; wake x.2 x.1
  else if v.getLsbD 0 then requestRetain s
  else s

/-- A write of HUB_PWR_CTRL: by host transport one that holds WAKE has no effect (R691; log 107). -/
def powerWrite (r : Requester) (v : Word) (view : Option RestartView) (s : State) : State :=
  writeReg r 0x301C v (fun s => if v.getLsbD 1 && r ≠ .i3c then (s, stPriv) else (setPower r v view s, stOk)) s

/-- RETAIN (R687). -/
def execRetain (req : Requester) (value : Word) (s : State) : Host.Outcome State Fault Refusal := .next (powerWrite req value none s)

/-- WAKE (R691, R692). -/
def execWake (req : Requester) (value : Word) (restart : RestartView) (s : State) : Host.Outcome State Fault Refusal :=
  .next (powerWrite req value (some restart) s)

/-- RETAIN_RAIL_REMOVAL: in RETAIN the two rails may go; the modules and ports they feed are down. At any other time a rail that leaves
its range starts a COLD reset (R690, R699). -/
def railRemoval (ucie hz : Bool) (s : State) : State :=
  if !ucie && !hz then s
  else if s.units.power.state ≠ 2 then coldReset s
  else
    let s := updPower s fun p => { p with noUcie := p.noUcie || ucie, noHz := p.noHz || hz }
    let s := if ucie then (List.range 64).foldl (fun s k => if moduleUp s k then dropModule (updModule s k fun m => { m with up := false }) k else s) s
      else s
    if hz then { s with hz := { s.hz with ports := s.hz.ports.map fun p => (p.1, { p.2 with up := false }) } } else s

/-- RETAIN_RAIL_REMOVAL (R690). -/
def execRetainRailRemoval (ucie hz : Bool) (s : State) : Host.Outcome State Fault Refusal := .next (railRemoval ucie hz s)

/-- RETAIN_RAIL_RESTORE (R690). -/
def execRetainRailRestore (s : State) : Host.Outcome State Fault Refusal :=
  .next (updPower s fun p => { p with noUcie := false, noHz := false })

/-! ### L1 (R686) -/

/-- L1_ENTRY: a trained group that has been idle enters L1, unless DOZE_IDLE is 0. -/
def l1Entry (g : Nat) (s : State) : State :=
  if fld (regGet s 0x301C 0x6400) 8 16 ≠ 0 && groupUp s g then updPower s fun p => { p with doze := insertNat g p.doze } else s

/-- L1_ENTRY (R686). -/
def execL1Entry (group : Fin 16) (s : State) : Host.Outcome State Fault Refusal := .next (l1Entry group.val s)

/-- L1_EXIT: the host has started the exit, or a write waits for it; the writes that wait go out. -/
def l1Exit (g : Nat) (s : State) : State := releaseCpl (updPower s fun p => { p with doze := p.doze.filter fun k => k ≠ g })

/-- L1_EXIT (R686). -/
def execL1Exit (group : Fin 16) (s : State) : Host.Outcome State Fault Refusal := .next (l1Exit group.val s)

end Sys2Proof.Machine
end

