-- ==== Sys2Proof/Machine/Power.lean ====
section
/-! DEFINITION. The pacer and its limits, the hub timebase, and the occupancy records of the hub (*Self-timed operation, power and
sleep*; R608, R609). -/

namespace Sys2Proof.Machine

/-! ### Limits of HUB_PACE_LIMITS -/

/-- FLOOR. -/
def paceFloor (s : State) : Nat := fld (regGet s 0x3000 0x0230FF1F) 0 8

/-- CAP_W, in units of 0.1 W. -/
def paceCap (s : State) : Nat := 10 * fld (regGet s 0x3000 0x0230FF1F) 16 10

/-! ### Droop (R678, R679) -/

/-- The droop counter of a domain with detectors: the hub, and base dies 0 to 3. -/
def droopReg (d : Nat) : Nat := if d = 0 then 0x3018 else dieBase (d - 1) + 0x700

/-- DROOP_FLAG: the flag is counted, and the limit falls to 64 below the current rate, or by another 64, but not below FLOOR (log 105). -/
def droopFlag (d : Nat) (s : State) : State :=
  let from_ := if (nmGet? s.units.power.droop d).isNone then domainRate s d else nmGet 255 s.units.power.droop d
  let s := regCount s (droopReg d) 1
  updPower s fun p => { p with droop := nmSet p.droop d (max (paceFloor s) (from_ - 64)) }

/-- DROOP_FLAG (R679). -/
def execDroopFlag (domain : Fin 5) (s : State) : Host.Outcome State Fault Refusal := .next (droopFlag domain.val s)

/-- DROOP_LIMIT_RISE: the limit rises by 1 until it reaches 255. -/
def droopRise (d : Nat) (s : State) : State :=
  let l := nmGet 255 s.units.power.droop d + 1
  endEpisodes (updPower s fun p => { p with droop := if 255 ≤ l then nmErase p.droop d else nmSet p.droop d l })

/-- DROOP_LIMIT_RISE (R679). -/
def execDroopLimitRise (domain : Fin 5) (s : State) : Host.Outcome State Fault Refusal := .next (droopRise domain.val s)

/-! ### Thermal limits (R685) -/

/-- The limit of a temperature between a start and an end: 255 down to FLOOR, linearly; the direction of rounding is free (log 106). -/
def thermalOf (floor start stop_ t : Nat) (up : Bool) : Nat :=
  if t ≤ start then 255
  else if stop_ ≤ t then floor
  else
    let n := (255 - floor) * (stop_ - t)
    let k := stop_ - start
    floor + n / k + (if up && n % k ≠ 0 then 1 else 0)

/-- THERMAL_LIMIT: the readings of a domain's dies set its limit; an array die's count for its base die. -/
def thermalLimit (d : Nat) (logic array : BitVec 8) (s : State) : State :=
  let base := decide (1 ≤ d) && decide (d ≤ 4)
  let x := takeBit s
  let f := paceFloor s
  let l := thermalOf f 100 110 logic.toNat x.2
  let l := if base then min l (thermalOf f 95 100 array.toNat x.2) else l
  endEpisodes (updPower x.1 fun p => { p with
    temps := if base then nmSet (nmSet p.temps d logic) (7 + d) array else nmSet p.temps d logic
    thermal := if l = 255 then nmErase p.thermal d else nmSet p.thermal d l })

/-- THERMAL_LIMIT (R685). -/
def execThermalLimit (domain : Fin 7) (logicTemp arrayTemp : BitVec 8) (s : State) : Host.Outcome State Fault Refusal :=
  .next (thermalLimit domain.val logicTemp arrayTemp s)

/-! ### Power rules (R680 to R683) -/

/-- The budget of a tenant in 0.1 W: that of the plan it runs where the POWER section gives one, else its own (R682). -/
def budgetOf (s : State) (t : Nat) : Option Nat :=
  let w := (tenantRun s (BitVec.ofNat 4 t)).bind fun r => nmGet? s.cfg.live.power.phases r.plan
  (w.orElse fun _ => nmGet? s.cfg.live.power.tenants t).map (10 * ·)

/-- Tenants whose own draw exceeds their budget. -/
def overBudget (s : State) (draw : List Nat) : List Nat :=
  (List.range 16).filter fun t => match budgetOf s t with | some b => decide (b < draw.getD t 0) | none => false

/-- The issue rate of a tenant over its budget: lowered in proportion to its excess, by how much the manual does not say (log 106). -/
def lowerTenant (s : State) (t : Nat) : State :=
  let x := takeNat s
  updPower x.1 fun p => { p with tenants := nmSet p.tenants t (x.2 % 255) }

/-- Whether a rule of R681 fails: the second only once P has been exceeded for 10 ms, which the averages do not show: a free bit. -/
def rulesFail (s : State) (short long : Nat) : State × Bool :=
  let x := takeBit s
  (x.1, decide (6400 < short) || decide (paceCap s < long) || (decide (paceCap s < short) && x.2))

/-- Whether nothing is left to lower: every domain is at FLOOR, and every Pip channel is held. -/
def nothingLeft (s : State) : Bool :=
  ((List.range 7).all fun d => domainRate s d = paceFloor s) &&
  s.units.pips.runs.all fun e => s.units.pips.waits.any fun w => w.1 = e.1 && w.2

/-- The limit that the rules put on every domain: lowered while a rule fails, raised once none does; the step is free (log 106). -/
def powerStep (fails : Bool) (s : State) : State :=
  let x := takeNat s
  let old := s.units.power.power
  let new := if fails then max (paceFloor s) (old - x.2 % 256) else min 255 (old + x.2 % 256)
  updPower x.1 fun p => { p with power := new, capMiss := p.capMiss || (fails && nothingLeft s) }

/-- POWER_ESTIMATE: the averages are shown, tenants over budget are slowed once the draw reaches P, and the rules act. -/
def powerEstimate (short long : BitVec 16) (draw : List Nat) (pip : BitVec 16) (s : State) : State :=
  let s := updPower s fun p => { p with short := short, long := long, pipDraw := pip, tenants := [] }
  if s.units.acorns.failed.contains 9 then s
  else
    let s := if paceCap s ≤ short.toNat then (overBudget s draw).foldl lowerTenant s else s
    let x := rulesFail s short.toNat long.toNat
    endEpisodes (powerStep x.2 x.1)

/-- POWER_ESTIMATE (R680, R681). -/
def execPowerEstimate (shortAvg longAvg : BitVec 16) (tenantDraw : List Nat) (pipDraw : BitVec 16) (s : State) :
    Host.Outcome State Fault Refusal := .next (powerEstimate shortAvg longAvg tenantDraw pipDraw s)

/-! ### Throttle episodes (R684) -/

/-- The limit that sets a domain's rate: 0 droop, 1 thermal, 2 power; none where CEIL or FLOOR sets it. -/
def limitCause (s : State) (d : Nat) : Option Nat :=
  let p := s.units.power
  let r := domainRate s d
  if nmGet 255 p.droop d ≤ r then some 0
  else if nmGet 255 p.thermal d ≤ r then some 1
  else if p.power ≤ r then some 2
  else none

/-- THROTTLE: once in an episode of a domain below the floor of POLICY. WHERE is free, and the cause where no limit of R684 sets the
rate. -/
def throttle (d : Nat) (s : State) : State :=
  if s.cfg.live.policy.throttleFloor ≤ domainRate s d || s.units.power.episode.contains d then s
  else
    let x := takeNat s
    let y := takeNat x.1
    let cause := (limitCause s d).getD (y.2 % 4)
    raiseAll (updPower y.1 fun p => { p with episode := insertNat d p.episode }) evThrottle (BitVec.ofNat 64 x.2) (BitVec.ofNat 64 (d + 16 * cause))

/-- THROTTLE (R684). -/
def execThrottle (domain : Fin 7) (s : State) : Host.Outcome State Fault Refusal := .next (throttle domain.val s)

/-! ### The hub timebase (R674) -/

/-- TIMEBASE_SWITCH: ticks come from the Hazel reference clock while it is present, and no tick is lost. -/
def execTimebaseSwitch (refclkPresent : Bool) (s : State) : Host.Outcome State Fault Refusal :=
  .next (updPower s fun p => { p with refclk := refclkPresent })

/-! ### Occupancy records (R608, R609) -/

/-- The set of occupying tenants; none in RETAIN. -/
def occupyMask (s : State) : BitVec 16 :=
  if s.units.power.state = 2 then 0
  else BitVec.ofNat 16 ((List.range 16).foldl (fun a t => a + at_ t (bit (decide (0 < tenantOps s (BitVec.ofNat 4 t))))) 0)

/-- An occupancy record (Table 6 of *Tenants and contexts*). -/
def occupancyBytes (seq : Word) (kind : Nat) (mask : BitVec 16) : List Byte :=
  let head := leBytes 4 seq.toNat ++ leBytes 1 kind ++ leBytes 1 0 ++ leBytes 2 mask.toNat ++ leBytes 4 0
  head ++ leBytes 4 (crc32 head).toNat

/-- Send a record with the next number, from 1, which wraps to 1. -/
def sendOccupancy (kind : Nat) (s : State) : State :=
  let o := s.units.occ
  let seq := if o.seq = BitVec.allOnes 32 then 1 else o.seq + 1
  let m := occupyMask s
  { s with units := { s.units with occ := ⟨seq, m, o.sent ++ [occupancyBytes seq kind m]⟩ } }

/-- SWITCH_RECORD: where the set has changed since the last record; none is sent during a WARM reset (Table 13 of *The Husk*). -/
def execSwitchRecord (s : State) : Host.Outcome State Fault Refusal :=
  .next (if s.units.boot.warm || occupyMask s = s.units.occ.mask then s else sendOccupancy 0 s)

/-- HEARTBEAT (R609). -/
def execHeartbeat (s : State) : Host.Outcome State Fault Refusal := .next (if s.units.boot.warm then s else sendOccupancy 1 s)

end Sys2Proof.Machine
end

