-- ==== Sys2Proof/Machine/Husk.lean ====
section
/-! DEFINITION. The Husk: energy and occupancy, billing intervals and their log, parameters, the ROM check, its I3C target, and the
mirror in the hub (*The Husk: sealed metering*). -/

namespace Sys2Proof.Machine

/-- Change the Husk. -/
def updHusk (s : State) (f : Husk → Husk) : State := { s with units := { s.units with husk := f s.units.husk } }

/-! ### The live parameter block (R656) -/

/-- A number of a block, `n` bytes from byte `b`, little-endian. -/
def blockNum (block : List Byte) (b n : Nat) : Nat := leNat ((block.drop b).take n)

/-- The block in the highest written slot. -/
def liveBlock (h : Husk) : List Byte := (h.blocks.getLast?).getD []

/-- PSLOT. -/
def liveSlot (h : Husk) : Nat := h.blocks.length - 1

/-- Interval length, µs. -/
def intervalUs (h : Husk) : Nat := blockNum (liveBlock h) 0 2 * 60000000

/-- ENABLE of a channel. -/
def chanEnabled (h : Husk) (n : Nat) : Bool := decide (blockNum (liveBlock h) (8 + 8 * n) 1 = 1)

/-- I_n of a channel, in 0.01 A, with its IGAIN and VGAIN; that of channel 8 is fixed (Table 3; log 116). -/
def chanIn (h : Husk) (n : Nat) : Nat := if n = 8 then 20 else blockNum (liveBlock h) (10 + 8 * n) 2
def chanIgain (h : Husk) (n : Nat) : Nat := blockNum (liveBlock h) (12 + 8 * n) 2
def chanVgain (h : Husk) (n : Nat) : Nat := blockNum (liveBlock h) (14 + 8 * n) 2

/-- Whether a block keeps the limits of R656 (log 116). -/
def blockGood (block : List Byte) : Bool :=
  [1, 5, 15, 60].contains (blockNum block 0 2) && blockNum block 2 6 = 0 && blockNum block 152 4 = 0 &&
  blockNum block 156 4 = (crc32 (block.take 156)).toNat &&
  (List.range 18).all fun n => decide (blockNum block (8 + 8 * n) 1 ≤ 1) && blockNum block (10 + 8 * n) 2 ≠ 0

/-! ### Samples (R641, R643, R645, R649) -/

/-- A shunt voltage within the range of the front ends, in nV. -/
def clipShunt (v : Int) : Int := max (-5000000) (min 5000000 v)

/-- Energy of one 16 µs sample in nJ: the shunt drops 2.5 mV at I_n; the direction in which less than 1 nJ is rounded is free. -/
def sampleEnergy (h : Husk) (n : Nat) (x : HuskSample) (up : Bool) : Int :=
  let e := clipShunt x.shuntNv * x.railUv * Int.ofNat (chanIn h n * chanIgain h n * chanVgain h n) * 64
  let d : Int := 1000000000000 * 2 ^ 30
  if up then -((-e) / d) else e / d

/-- Set a bit of the open interval's flags. -/
def setFlag (b : Nat) (o : HuskOpen) : HuskOpen := { o with flags := o.flags ||| BitVec.ofNat 32 (2 ^ b) }

/-- One channel's part of a sample; a disabled channel reads and integrates zero. -/
def sampleChannel (h : Husk) (up : Bool) (o : HuskOpen) (x : HuskSample × Nat) : HuskOpen :=
  let n := x.2
  if !chanEnabled h n then o
  else
    let o := { o with
      energy := nmSet o.energy n (nmGet 0 o.energy n + sampleEnergy h n x.1 up)
      shunt := nmSet o.shunt n (nmGet 0 o.shunt n + clipShunt x.1.shuntNv * Int.ofNat (chanIgain h n)) }
    if clipShunt x.1.shuntNv ≠ x.1.shuntNv then setFlag 0 o else o

/-- Whether channel 0 reads below 0.3 V. -/
def sampleLow (h : Husk) (l : List HuskSample) : Bool :=
  match l.head? with
  | some x => !chanEnabled h 0 || decide (x.railUv * Int.ofNat (chanVgain h 0) < 300000 * 2 ^ 15)
  | none => true

/-- Microseconds of the next `us` during which the last applied mask stands: 3 ms from its arrival (R648). -/
def maskStands (h : Husk) (us : Nat) : Nat := if h.mask.isSome then min us (h.maskAt + 3000 - h.time) else 0

/-- The mask that stands now. -/
def standingMask (h : Husk) : BitVec 16 := if maskStands h 1 = 1 then h.mask.getD 0 else 0

/-- Occupancy of the next microseconds (R649). -/
def addOccupancy (h : Husk) (us : Nat) (low : Bool) (o : HuskOpen) : HuskOpen :=
  let k := maskStands h us
  let m := h.mask.getD 0
  { o with
    occupy := if k = 0 then o.occupy
      else (List.range 16).foldl (fun c t => if m.getLsbD t then nmSet c t (nmGet 0 c t + k) else c) o.occupy
    unknown := if low then o.unknown else o.unknown + (us - k) }

/-- HUSK_SAMPLE: 16 µs of Husk time, with the energy and the occupancy that they add; a Husk that has stopped metering only keeps time. -/
def huskSample (l : List HuskSample) (s : State) : State :=
  let h := s.units.husk
  if !h.up then s
  else if h.stopped then updHusk s fun h => { h with time := h.time + 16 }
  else
    let x := takeBit s
    let low := sampleLow h l
    let o := (List.zipIdx (l.take 18)).foldl (sampleChannel h x.2) h.cur
    let o := addOccupancy h 16 low { o with samples := o.samples + 1 }
    updHusk x.1 fun h => { h with time := h.time + 16, cur := o }

/-- HUSK_SAMPLE (R641). -/
def execHuskSample (samples : List HuskSample) (s : State) : Host.Outcome State Fault Refusal := .next (huskSample samples s)

/-! ### Closing an interval (R646, R647, R651 to R653) -/

/-- SWID. -/
def swid : List Byte := [0x48, 0x53, 0x4B, 0x2D, 0x31, 0x2E, 0x30, 0x34]

/-- SWCRC of the ROM of this die set (R655). -/
def romCrc : Word := 0x9C1E44D7

/-- Unacknowledged closed records. -/
def unacked (h : Husk) : Nat := h.number - 1 - h.acked

/-- A cumulative energy in µJ, its remainder carried forward, as 64-bit two's complement. -/
def energyUj (e : Int) : Nat := (BitVec.ofInt 64 (e / 1000)).toNat

/-- Cumulative energies of channels 0 to 17. -/
def energyBytes (o : HuskOpen) : List Byte := (List.range 18).flatMap fun n => leBytes 8 (energyUj (nmGet 0 o.energy n))

/-- Whether an enabled channel's mean current exceeded 120 % of its I_n: a mean of 3 mV. -/
def meanOver (h : Husk) (o : HuskOpen) : Bool :=
  (List.range 18).any fun n => chanEnabled h n && decide (3000000 * 2 ^ 15 * o.samples < (nmGet 0 o.shunt n).natAbs)

/-- Bytes 0 to 383 of a billing record (Table 5). -/
def huskRecordBody (h : Husk) (o : HuskOpen) : List Byte :=
  leBytes 4 0x4B535548 ++ leBytes 4 h.number ++ leBytes 8 o.start ++ leBytes 8 h.time ++ leBytes 4 h.pcycles.toNat ++
  leBytes 4 h.events.toNat ++ leBytes 4 o.flags.toNat ++ leBytes 2 (liveSlot h) ++ leBytes 2 0 ++ leBytes 8 h.anchorUtc.toNat ++
  leBytes 8 h.anchorUs ++ leBytes 8 0 ++ energyBytes o ++ ((List.range 16).flatMap fun t => leBytes 8 (nmGet 0 o.occupy t)) ++
  leBytes 8 o.unknown ++ leBytes 4 o.bad.toNat ++ leBytes 4 o.gap.toNat ++ swid ++ leBytes 4 h.swcrc.toNat ++ List.replicate 20 0

/-- A billing record with its signature; ECDSA signatures of the same bytes may differ, so the signature is a free value of each use. -/
def huskRecord (h : Husk) (o : HuskOpen) (use : Nat) : List Byte :=
  let b := huskRecordBody h o
  b ++ padTo 64 0 ((Config.huskSign use b).take 64)

/-- The log with one more record; of 4,096 the oldest makes room. -/
def logRecordHusk (l : NMap (List Byte)) (n : Nat) (r : List Byte) : NMap (List Byte) :=
  let l := nmSet l n r
  if 4096 < l.length then l.drop 1 else l

/-- The totals of the interval that opens: energies go on, the rest starts anew. -/
def openNext (h : Husk) : HuskOpen :=
  let o := { huskOpenZero with start := h.time, energy := h.cur.energy }
  if h.cfgEn then setFlag 4 o else o

/-- The Husk after its open interval closes with some flags. -/
def closedHusk (h : Husk) (flags : Word) (use : Nat) : Husk :=
  let o := { h.cur with flags := h.cur.flags ||| flags }
  let o := if meanOver h o then setFlag 1 o else o
  let h' := { h with log := logRecordHusk h.log h.number (huskRecord h o use), number := h.number + 1, cur := openNext h }
  let n := unacked h'
  { h' with ibis := h.ibis + (if 3072 ≤ n && (n - 3072) % 256 = 0 then 1 else 0) }

/-- Close the open interval; where 4,096 unacknowledged records fill the log, it runs on with EXTENDED and the flags (R651; log 115). -/
def closeInterval (flags : Word) (s : State) : State :=
  if 4096 ≤ unacked s.units.husk then updHusk s fun h => { h with cur := setFlag 2 { h.cur with flags := h.cur.flags ||| flags } }
  else { updHusk s (fun h => closedHusk h flags s.free) with free := s.free + 1 }

/-- The totals of a newly opened interval are its first checkpoint. -/
def saveOpen (s : State) : State := updHusk s fun h => { h with saved := h.cur, savedNo := h.number }

/-- Whether the Husk meters. -/
def metering (s : State) : Bool := s.units.husk.up && !s.units.husk.stopped

/-- INTERVAL_CLOSE: the open interval has reached its length. -/
def intervalClose (s : State) : State :=
  let h := s.units.husk
  if metering s && decide (intervalUs h ≤ h.time - h.cur.start) then saveOpen (closeInterval 0 s) else s

/-- INTERVAL_CLOSE (R647). -/
def execIntervalClose (s : State) : Host.Outcome State Fault Refusal := .next (intervalClose s)

/-- HUSK_CHECKPOINT (R668). -/
def execHuskCheckpoint (s : State) : Host.Outcome State Fault Refusal := .next (if metering s then saveOpen s else s)

/-! ### Occupancy records (R648) -/

/-- Whether a record's CRC is right. -/
def occupancyGood (b : List Byte) : Bool := b.length = 16 && blockNum b 12 4 = (crc32 (b.take 12)).toNat

/-- An arriving occupancy record. -/
def occupancyRecord (b : List Byte) (s : State) : State :=
  if !metering s then s
  else if !occupancyGood b then updHusk s fun h => { h with cur := { h.cur with bad := h.cur.bad + 1 } }
  else
    let seq := BitVec.ofNat 32 (blockNum b 0 4)
    updHusk s fun h =>
      let ok := decide (seq = 1) || decide (h.lastSeq.map (· + 1) = some seq)
      { h with
        lastSeq := some seq, mask := some (BitVec.ofNat 16 (blockNum b 6 2)), maskAt := h.time
        cur := if ok then h.cur else { h.cur with gap := h.cur.gap + 1 } }

/-- OCCUPANCY_RECORD (R648). -/
def execOccupancyRecord (bytes : List Byte) (s : State) : Host.Outcome State Fault Refusal := .next (occupancyRecord bytes s)

/-- MASK_EXPIRY: a mask that has stood for 3 ms goes; before then it stands. -/
def maskExpiry (s : State) : State := updHusk s fun h => { h with mask := if maskStands h 1 = 1 then h.mask else none }

/-- MASK_EXPIRY (R648). -/
def execMaskExpiry (s : State) : Host.Outcome State Fault Refusal := .next (maskExpiry s)

/-! ### The ROM check, HUSK_CFG_EN, and the supply (R655, R658, R666 to R668) -/

/-- A checksum of the ROM: on a mismatch the open interval closes with SWFAIL, and metering stops; an interrupt is raised where the
unacknowledged count stands at 3,072 or above (R662; log 115). -/
def romCheck (crc : Word) (s : State) : State :=
  let s := updHusk s fun h => { h with swcrc := crc }
  if crc = romCrc || s.units.husk.stopped then s
  else saveOpen (updHusk (closeInterval (BitVec.ofNat 32 (2 ^ 8)) s) fun h => { h with
    stopped := true, ibis := s.units.husk.ibis + (if 3072 ≤ unacked h then 1 else 0) })

/-- ROM_CHECK (R655). -/
def execRomCheck (crc : Word) (s : State) : Host.Outcome State Fault Refusal :=
  .next (if s.units.husk.up then romCheck crc s else s)

/-- The event counter, which stays at 4,095. -/
def countEvent (h : Husk) : Husk := { h with events := BitVec.ofNat 12 (min 4095 (h.events.toNat + 1)) }

/-- A rising edge of HUSK_CFG_EN. -/
def cfgEnRise (h : Husk) : Husk := { countEvent h with cfgEn := true, cur := setFlag 4 h.cur }

/-- HUSK_CFG_EN_RISE (R658). -/
def execHuskCfgEnRise (s : State) : Host.Outcome State Fault Refusal := .next (if s.units.husk.up then updHusk s cfgEnRise else s)

/-- PFAIL: the open interval closes, and sampling stops; its last checkpoint is kept in case the record's write is cut short. -/
def pfail (s : State) : State :=
  if !s.units.husk.up then s
  else
    let s := updHusk s fun h => { h with cfgEn := false }
    let s := if s.units.husk.stopped then s else closeInterval (BitVec.ofNat 32 (2 ^ 5)) s
    updHusk s fun h => { h with up := false, mask := none, reply := [] }

/-- PFAIL (R667). -/
def execPfail (s : State) : Host.Outcome State Fault Refusal := .next (pfail s)

/-- A record write that the loss of supply cut short is discarded whole, and its interval closes from its last checkpoint. -/
def recoverCut (s : State) : State :=
  let s := updHusk s fun h => { h with
    log := if h.savedNo < h.number then nmErase h.log h.savedNo else h.log, number := h.savedNo, cur := h.saved }
  closeInterval (BitVec.ofNat 32 (2 ^ 5 + 2 ^ 6)) s

/-- The interval of a power-up: after a stop of metering a new one opens now, unless one still waits for room in the log (log 115). -/
def openAfterStop (h : Husk) : HuskOpen := if h.stopped && !h.cur.flags.getLsbD 2 then openNext h else h.cur

/-- HUSK_POWER_UP: the cut interval, the ROM check, the level of HUSK_CFG_EN, and the flags of the first interval. -/
def huskPowerUp (crc : Word) (cfgEn cut late : Bool) (s : State) : State :=
  if s.units.husk.up then s
  else
    let s := updHusk s fun h => { h with cfgEn := cfgEn }
    let s := if cut && !s.units.husk.stopped then recoverCut s else updHusk s fun h => { h with cur := openAfterStop h }
    let s := updHusk s fun h => { h with
      up := true, stopped := false, pcycles := h.pcycles + 1, anchorUtc := 0, anchorUs := 0, snap := 0, mask := none, lastSeq := none
      result := 0, reply := []
      cur := if late then setFlag 7 h.cur else h.cur }
    let s := if cfgEn then updHusk s cfgEnRise else s
    saveOpen (romCheck crc s)

/-- HUSK_POWER_UP (R666). -/
def execHuskPowerUp (crc : Word) (cfgEn cut late : Bool) (s : State) : Host.Outcome State Fault Refusal :=
  .next (huskPowerUp crc cfgEn cut late s)

/-! ### The mirror (R664, Tables 8 to 12) -/

/-- LENGTH of HUSK_STATUS. -/
def lengthCode (h : Husk) : Nat :=
  match blockNum (liveBlock h) 0 2 with | 1 => 0 | 5 => 1 | 15 => 2 | _ => 3

/-- HUSK_STATUS but for LINK, which is the hub's own. -/
def huskStatusWord (h : Husk) : Word :=
  word (at_ 1 (bit h.cfgEn) + at_ 2 (bit h.stopped) + at_ 3 (bit (h.cur.flags.getLsbD 2)) + at_ 4 (lengthCode h) + at_ 9 (liveSlot h % 16) +
    at_ 16 (unacked h % 2 ^ 13))

/-- The registers of a snapshot. -/
def snapshotWords (h : Husk) : NMap Word :=
  let rec_ := nmGet [] h.log (h.number - 1)
  let e := fun (n : Nat) => energyUj (nmGet 0 h.cur.energy n)
  [(0x000, h.snap), (0x004, huskStatusWord h), (0x008, wordAt swid 0), (0x00C, wordAt swid 1), (0x010, h.swcrc),
    (0x014, word h.events.toNat), (0x018, word h.number)] ++
  ((List.range 18).flatMap fun n => [(0x100 + 8 * n, word (e n)), (0x104 + 8 * n, word (e n / 2 ^ 32))]) ++
  ((List.range 112).map fun n => (0x200 + 4 * n, wordAt rec_ n)) ++ [(0x3C0, h.snap)]

/-- MIRROR_SNAPSHOT: the next snapshot replaces the mirror as a whole. -/
def mirrorSnapshot (s : State) : State :=
  if !s.units.husk.up then s
  else
    let s := updHusk s fun h => { h with snap := h.snap + 1 }
    { s with units := { s.units with mirror := ⟨snapshotWords s.units.husk, true⟩ } }

/-- MIRROR_SNAPSHOT (R664). -/
def execMirrorSnapshot (s : State) : Host.Outcome State Fault Refusal := .next (mirrorSnapshot s)

/-- MIRROR_LINK_LOSS: no snapshot has arrived for 30 ms. -/
def execMirrorLinkLoss (s : State) : Host.Outcome State Fault Refusal :=
  .next { s with units := { s.units with mirror := { s.units.mirror with link := false } } }

/-! ### The I3C target (R660, Table 7) -/

/-- A command that reaches the target, with the reply that it leaves to be read; a Husk without supply takes none. -/
def huskReply (f : State → State × List Byte) (s : State) : State :=
  if !s.units.husk.up then s
  else
    let x := f s
    updHusk x.1 fun h => { h with reply := x.2 }

/-- HUSK_IDENT (R655). -/
def execHuskIdent (s : State) : Host.Outcome State Fault Refusal :=
  .next (huskReply (fun s =>
    let h := s.units.husk
    (s, swid ++ leBytes 4 h.swcrc.toNat ++ leBytes 4 h.events.toNat ++ leBytes 2 (liveSlot h) ++ padTo 16 0 (Config.huskSerial.take 16))) s)

/-- The reply to STATUS; the oldest unacknowledged interval is free where there is none. -/
def huskStatusReply (s : State) : State × List Byte :=
  let h := s.units.husk
  let x := takeNat s
  let oldest := if unacked h = 0 then x.2 % 2 ^ 32 else h.acked + 1
  (x.1, leBytes 4 h.number ++ leBytes 4 oldest ++ leBytes 2 (unacked h) ++ leBytes 4 h.cur.flags.toNat ++ leBytes 1 (bit h.cfgEn) ++
    leBytes 1 h.result)

/-- HUSK_STATUS (R660). -/
def execHuskStatus (s : State) : Host.Outcome State Fault Refusal := .next (huskReply huskStatusReply s)

/-- READ_REC (R661). -/
def execReadRec (interval : Word) (s : State) : Host.Outcome State Fault Refusal :=
  .next (huskReply (fun s => (s, (nmGet? s.units.husk.log interval.toNat).getD (leBytes 4 0))) s)

/-- ACK: every closed record up to an interval is acknowledged, and an interval that ran on closes at once. -/
def huskAck (n : Nat) (s : State) : State × List Byte :=
  if s.units.husk.number ≤ n then (s, [1])
  else
    let s := updHusk s fun h => { h with acked := max h.acked n }
    let h := s.units.husk
    (if h.cur.flags.getLsbD 2 && decide (unacked h < 4096) then saveOpen (closeInterval 0 s) else s, [0])

/-- ACK (R661). -/
def execAck (interval : Word) (s : State) : Host.Outcome State Fault Refusal := .next (huskReply (huskAck interval.toNat) s)

/-- ANCHOR (R663). -/
def execAnchor (utc : DWord) (s : State) : Host.Outcome State Fault Refusal :=
  .next (huskReply (fun s => (updHusk s fun h => { h with anchorUtc := utc, anchorUs := h.time, cur := setFlag 9 h.cur }, [0])) s)

/-- KEY (R654). -/
def execKey (s : State) : Host.Outcome State Fault Refusal :=
  .next (huskReply (fun s => (s, padTo 65 0 (Config.huskKey.take 65) ++ padTo 96 0 (Config.huskCert.take 96))) s)

/-- LIVE (R660). -/
def execLive (s : State) : Host.Outcome State Fault Refusal :=
  .next (huskReply (fun s =>
    let h := s.units.husk
    (s, leBytes 8 h.time ++ energyBytes h.cur ++ leBytes 2 (standingMask h).toNat)) s)

/-- Whether a CONFIG is accepted (R657, R658). -/
def configGood (h : Husk) (block : List Byte) : Bool :=
  h.cfgEn && blockGood block && decide (h.blocks.length < 16) && decide (h.events.toNat < 4095)

/-- CONFIG: the open interval closes with CFG, the slot is written, the counter rises, and the next interval runs under the new block. No
interval is open while metering is stopped (log 115). -/
def huskConfig (block : List Byte) (s : State) : State × List Byte :=
  if configGood s.units.husk block then
    let s := if s.units.husk.stopped then s else closeInterval (BitVec.ofNat 32 (2 ^ 3)) s
    (saveOpen (updHusk s fun h => { countEvent h with blocks := h.blocks ++ [block], result := 1 }), [0])
  else (updHusk s fun h => { h with result := 2 }, [1])

/-- Arguments of a Husk command, in bytes; none for a code outside Table 7. -/
def huskArgs (code : Nat) : Option Nat :=
  match code with
  | 1 => some 0 | 2 => some 0 | 3 => some 4 | 4 => some 4 | 5 => some 8 | 6 => some 0 | 7 => some 0 | 0x10 => some 160 | _ => none

/-- CONFIG (R657); a block of another length is no command of Table 7. -/
def execConfig (block : List Byte) (s : State) : Host.Outcome State Fault Refusal :=
  .next (huskReply (fun s => if block.length = 160 then huskConfig block s else (s, [0xEE])) s)

/-- Whether some bytes are a command of Table 7 with its arguments. -/
def huskKnown (bytes : List Byte) : Bool :=
  match bytes with
  | [] => false
  | c :: l => huskArgs c.toNat = some l.length

/-- HUSK_BAD_COMMAND (R660). -/
def execHuskBadCommand (bytes : List Byte) (s : State) : Host.Outcome State Fault Refusal :=
  .next (if huskKnown bytes then s else huskReply (fun s => (s, [0xEE])) s)

end Sys2Proof.Machine
end

