-- ==== Sys2Proof/Machine/Test.lean ====
section
/-! DEFINITION. The test access port, margin runs, lane retirement, and the read-out of test lanes (*Signals, electrical limits and test
access*; R445, R547, R742, R744). -/

namespace Sys2Proof.Machine

/-! ### The test access port (R758 to R764) -/

/-- Change the test access port. -/
def updTap (s : State) (f : Tap → Tap) : State := { s with units := { s.units with tap := f s.units.tap } }

/-- Whether the test controller has failed: test and margining access is refused (Table 2 of *Acorns, the Cupule and recovery*). -/
def testerDown (s : State) : Bool := s.units.acorns.failed.contains 10

/-- The instruction that is active: none after a refused one. -/
def activeIr (s : State) : Nat := if s.units.tap.refused then 0xFF else s.units.tap.ir.toNat

/-- EXTEST, CLAMP and HIGHZ drive the pins. -/
def drivesPins (ir : Nat) : Bool := [0x03, 0x04, 0x05].contains ir

/-- Package channels of a stack. -/
def stackChannels (st : Nat) : List Nat := (List.range 64).map fun k => 64 * st + k

/-- Channels that margin runs under way hold. -/
def runChannels (s : State) : List Nat := (s.units.runs.filter (·.started)).flatMap (·.chans)

/-- Hold the requests of some channels. -/
def holdChannels (s : State) (l : List Nat) : State :=
  { s with units := { s.units with margin := l.foldl (fun m c => insertNat c m) s.units.margin } }

/-- A channel whose controller has run an internal test. -/
def coreChannels (s : State) : List Nat :=
  s.units.tap.out.filterMap fun c => match c with
    | .channel n => some n.val
    | .ue _ => none
    | .hintCache _ => none
    | .other _ _ => none

/-- Release some channels but for those that something else still holds, and serve what they held. -/
def releaseChannels (s : State) (l : List Nat) : State :=
  let test := if activeIr s = 0x10 then stackChannels s.units.tap.stack.toNat else []
  let keep := runChannels s ++ coreChannels s ++ test
  settle (serveHeld { s with units := { s.units with margin := s.units.margin.filter fun c => !l.contains c || keep.contains c } })

/-- Leaving STACK_TEST: every channel of the stack retrains its lanes, and the held requests resume (R762; log 95). -/
def leaveStack (st : Nat) (s : State) : State :=
  let l := stackChannels st
  releaseChannels (l.foldl (fun s c => retrainEnd s c []) s) l

/-- What the instruction register captures as another is loaded: 1, and in bit 2 whether the last was refused (R760). -/
def capturedIr (s : State) : BitVec 8 := BitVec.ofNat 8 (1 + 4 * bit s.units.tap.refused)

/-- An instruction is loaded: leaving EXTEST, CLAMP or HIGHZ is a COLD reset, an instruction that does not act selects the bypass
register, and another acts. -/
def loadIr (code : BitVec 8) (act : State → State) (s : State) : State :=
  let old := activeIr s
  let no := (testOnly code && s.cfg.live.isImage) || testerDown s
  if drivesPins old && (no || !drivesPins code.toNat) then coldReset s
  else
    let st := s.units.tap.stack.toNat
    let s := updTap s fun t => { t with
      ir := code, refused := no, irOut := capturedIr s, dr := 0, drLen := 1 }
    let s := if no then s else act s
    if old = 0x10 && (no || code ≠ 0x10) then leaveStack st s else s

/-- Select a data register with what it captures. -/
def selectDr (n len : Nat) (s : State) : State := updTap s fun t => { t with dr := n, drLen := len }

/-- Select the boundary register; what it captures is not in the manual (R761): a free value. -/
def selectBoundary (s : State) : State := let x := takeNat s; selectDr x.2 0 x.1

/-- IDCODE (R759). -/
def execIdcode (s : State) : Host.Outcome State Fault Refusal := .next (loadIr 0x01 (selectDr 0x1E040FD9 32) s)

/-- SAMPLE_PRELOAD: what the tester shifts in for the boundary is a free value (R761). -/
def execSamplePreload (s : State) : Host.Outcome State Fault Refusal :=
  .next (loadIr 0x02 (fun s => let x := takeNat (selectBoundary s); updTap x.1 fun t => { t with bounds := x.2 }) s)

/-- EXTEST (R761). -/
def execExtest (s : State) : Host.Outcome State Fault Refusal := .next (loadIr 0x03 selectBoundary s)

/-- CLAMP (R760). -/
def execClamp (s : State) : Host.Outcome State Fault Refusal := .next (loadIr 0x04 id s)

/-- HIGHZ (R760). -/
def execHighz (s : State) : Host.Outcome State Fault Refusal := .next (loadIr 0x05 id s)

/-- STACK_TEST: the requests of the stack's channels are held (R762). -/
def execStackTest (s : State) : Host.Outcome State Fault Refusal :=
  .next (loadIr 0x10 (fun s => selectDr 0 0 (holdChannels s (stackChannels s.units.tap.stack.toNat))) s)

/-- STACK_SEL (R758). -/
def execStackSel (stack : BitVec 2) (s : State) : Host.Outcome State Fault Refusal :=
  .next (loadIr 0x11 (fun s => selectDr stack.toNat 2 (updTap s fun t => { t with stack := stack })) s)

/-- Whether a core lies on the die that CORE_DIE names (Table 6, R763). -/
def coreOnDie (die : Nat) : CoreId → Bool
  | .ue n => decide (ueDie n.val + 1 = die)
  | .channel n => decide (n.val / 64 + 1 = die)
  | .hintCache n => decide (n.val + 1 = die)
  | .other _ _ => true

/-- A core that runs an internal test: its dirty lines are written back, and it is out of service (R763; log 117). -/
def testCore (s : State) (c : CoreId) : State :=
  let s := updTap s fun t => { t with out := if t.out.contains c then t.out else t.out ++ [c] }
  match c with
  | .ue n => { s with units := { s.units with ues := { s.units.ues with avail := s.units.ues.avail &&& ~~~BitVec.ofNat 320 (2 ^ n.val) } } }
  | .channel n => holdChannels (updChan s n.val fun x => { x with inService := false }) [n.val]
  | .hintCache n =>
    let s := flushLines s fun l => l.die = n.val
    setCache s (s.units.cache.filter fun l => l.die ≠ n.val)
  | .other _ _ => s

/-- CORE_TEST (R763). -/
def execCoreTest (internal : List CoreId) (s : State) : Host.Outcome State Fault Refusal :=
  .next (loadIr 0x18 (fun s => selectDr 0 0 ((internal.filter (coreOnDie s.units.tap.core.toNat)).foldl testCore s)) s)

/-- CORE_DIE (R758). -/
def execCoreDie (die : BitVec 3) (s : State) : Host.Outcome State Fault Refusal :=
  .next (loadIr 0x19 (fun s => selectDr die.toNat 3 (updTap s fun t => { t with core := die })) s)

/-- REG_READ: a register read by the control tenant, which writes nothing (R764). -/
def execRegRead (offset : Word) (s : State) : Host.Outcome State Fault Refusal :=
  .next (loadIr 0x20 (fun s => readReg .tap offset.toNat (fun s => regRead s .tap offset.toNat) (selectDr 0 40 s)) s)

/-- BYPASS (R758). -/
def execBypass (s : State) : Host.Outcome State Fault Refusal := .next (loadIr 0xFF id s)

/-- TAP_RESET: IDCODE is loaded, and every active instruction is left; cores out of service stay so. -/
def tapResets (s : State) : State :=
  let old := activeIr s
  if drivesPins old then coldReset s
  else
    let st := s.units.tap.stack.toNat
    let s := updTap s fun t => { tapReset with bounds := t.bounds, out := t.out }
    if old = 0x10 then leaveStack st s else s

/-- TAP_RESET (R758). -/
def execTapReset (s : State) : Host.Outcome State Fault Refusal := .next (tapResets s)

/-- TEST_MODE_EXIT (R761). -/
def execTestModeExit (s : State) : Host.Outcome State Fault Refusal := .next (if drivesPins (activeIr s) then coldReset s else s)

/-! ### Margin runs (R445, R742, R744) -/

/-- Set bits of a register word. -/
def setBits (s : State) (off : Nat) (v : Word) : State := regSet s off (regGet s off 0 ||| v)

/-- REFUSED of a margin result register. -/
def refuseRun (s : State) (result : Nat) : State := setBits s result 2

/-- A run begins: DONE is 0, its channels are held, and its host-port module carries nothing. -/
def beginRun (r : MarginRun) (result : Nat) (s : State) : State :=
  let s := regSet s result (regGet s result 0 &&& ~~~(1 : Word))
  let s := { s with units := { s.units with runs := (s.units.runs.filter fun x => x.run ≠ r.run) ++ [{ r with started := true }] } }
  let s := match r.module with | some k => updModule s k fun m => { m with up := false } | none => s
  holdChannels s r.chans

/-- Whether a START is refused: an image is live, the test controller is down, or a run of the register is under way (log 118). -/
def runRefused (s : State) (run : Nat) : Bool := s.cfg.live.isImage || testerDown s || s.units.runs.any fun r => r.run = run

/-- A START of a run on a unit, or its refusal where the unit is not in service. -/
def startRun (r : MarginRun) (ok : Bool) (result : Nat) (s : State) : State :=
  if runRefused s r.run || !ok then refuseRun s result else beginRun r result s

/-- A write of a margin control register: its fields are stored, and START starts a run. -/
def marginWrite (req : Requester) (off : Nat) (v : Word) (start : State → State) (s : State) : State :=
  writeReg req off v (fun s => let s := storeReg s off v (BitVec.allOnes 32); (if v.getLsbD 24 then start s else s, stOk)) s

/-- SBD_MARGIN_CTRL (R445). -/
def sbdMargin (req : Requester) (n : Nat) (v : Word) (s : State) : State :=
  let base := dieBase n
  marginWrite req (base + 0x300) v (startRun ⟨n, [64 * n + fld v 0 6], none, none, true, none⟩ true (base + 0x304)) s

/-- MARGIN_RUN (R445). -/
def execMarginRun (req : Requester) (stack : Fin 4) (value : Word) (s : State) : Host.Outcome State Fault Refusal :=
  .next (sbdMargin req stack.val value s)

/-- Whether a module that SBD_UMARGIN_CTRL names is in service: a host-port module, or one of the modules of a spine link, of which the
first are in service (log 118). -/
def umarginServes (s : State) (n m : Nat) : Bool :=
  if m < 16 then moduleUp s (16 * n + m)
  else if m < 24 then decide (m - 16 < spineMods s n)
  else if m < 28 then decide (m - 24 < spineMods s (4 + n))
  else decide (m - 28 < spineMods s (8 + n))

/-- The spine link of a module that SBD_UMARGIN_CTRL names. -/
def umarginLink (n m : Nat) : Option Nat :=
  if m < 16 then none else if m < 24 then some n else if m < 28 then some (4 + n) else some (8 + n)

/-- A START of SBD_UMARGIN_CTRL: a run on a host-port module waits for the host's module (R742). -/
def startUmargin (n m result : Nat) (s : State) : State :=
  let r : MarginRun := ⟨4 + n, [], none, if m < 16 then some (16 * n + m) else none, false, umarginLink n m⟩
  if m < 16 && !runRefused s r.run && umarginServes s n m then { s with units := { s.units with runs := s.units.runs ++ [r] } }
  else startRun r (umarginServes s n m) result s

/-- SBD_UMARGIN_CTRL (R742). -/
def sbdUmargin (req : Requester) (n : Nat) (v : Word) (s : State) : State :=
  let base := dieBase n
  marginWrite req (base + 0x310) v (startUmargin n (fld v 0 5) (base + 0x314)) s

/-- UMARGIN_RUN (R742). -/
def execUmarginRun (req : Requester) (stack : Fin 4) (value : Word) (s : State) : Host.Outcome State Fault Refusal :=
  .next (sbdUmargin req stack.val value s)

/-- TB_MARGIN_CTRL (R744). -/
def tbMargin (req : Requester) (m : Nat) (v : Word) (s : State) : State :=
  let base := dieBase (4 + m)
  let c := fld v 0 5
  let kind1 := v.getLsbD 12
  marginWrite req (base + 0x300) v (fun s =>
    let ok := if kind1 then decide (c < min 2 (spineMods s (12 + m))) else decide (c < s.units.tier.lpChannels)
    startRun ⟨8 + m, [], if kind1 then none else some (32 * m + c), none, true, if kind1 then some (12 + m) else none⟩ ok (base + 0x304) s) s

/-- TB_MARGIN_RUN (R744). -/
def execTbMarginRun (req : Requester) (bridge : Fin 2) (value : Word) (s : State) : Host.Outcome State Fault Refusal :=
  .next (tbMargin req bridge.val value s)

/-- The result register of a run. -/
def resultReg (run : Nat) : Nat := if run < 4 then dieBase run + 0x304 else if run < 8 then dieBase (run - 4) + 0x314 else dieBase (run - 4) + 0x304

/-- MARGIN_RUN_END: DONE and ERRORS, and what the run held goes on. -/
def marginRunEnd (run : Nat) (errors : Nat) (s : State) : State :=
  match s.units.runs.find? fun r => r.run = run && r.started with
  | none => s
  | some r =>
    let s := { s with units := { s.units with runs := s.units.runs.filter fun x => x.run ≠ run } }
    let s := regSet s (resultReg run) ((regGet s (resultReg run) 0 &&& 2) ||| word (1 + at_ 8 (satTo 0xFFFFFF errors)))
    let s := match r.module with
      | some k => if (moduleOf s k).out then s else releaseCpl (updModule s k fun m => { m with up := true })
      | none => s
    releaseChannels s r.chans

/-- MARGIN_RUN_END (R445). -/
def execMarginRunEnd (run : Fin 10) (errors : BitVec 32) (s : State) : Host.Outcome State Fault Refusal :=
  .next (marginRunEnd run.val errors.toNat s)

/-- A host-port run that waits for the host's module. -/
def waitingRun (s : State) (n : Nat) : Option MarginRun := s.units.runs.find? fun r => r.run = 4 + n && !r.started

/-- UMARGIN_PARTNER_START (R742). -/
def execUmarginPartnerStart (stack : Fin 4) (s : State) : Host.Outcome State Fault Refusal :=
  .next (match waitingRun s stack.val with
    | some r => beginRun r (resultReg r.run) s
    | none => s)

/-- UMARGIN_PARTNER_TIMEOUT: the run does not start (R742). -/
def execUmarginPartnerTimeout (stack : Fin 4) (s : State) : Host.Outcome State Fault Refusal :=
  .next (match waitingRun s stack.val with
    | some r => refuseRun { s with units := { s.units with runs := s.units.runs.filter fun x => x.run ≠ r.run } } (resultReg r.run)
    | none => s)

/-! ### Retiring a lane (R766) -/

/-- Retire entries of a die. -/
def retireRoom (d : Nat) : Nat := if d < 4 then 128 else 16

/-- The entry that a written value names. -/
def retireEntry (d : Nat) (v : Word) : Nat := if d < 4 then fld v 0 16 else fld v 0 7

/-- Whether the named lane lies in the ranges of Tables 8 and 9. -/
def retireRange (d : Nat) (v : Word) : Bool :=
  if d < 4 then (if v.getLsbD 0 then decide (fld v 1 6 < 32) && decide (fld v 7 9 < 64) else decide (fld v 7 9 < 290)) else true

/-- GO of a lane-retire register: the lane is recorded, was recorded before, or is refused. -/
def retireLane (d : Nat) (v : Word) (s : State) : State :=
  let l := nmGet [] s.units.fuses.retired d
  let e := retireEntry d v
  let off := dieBase d + 0x324
  if s.cfg.live.isImage || testerDown s || !retireRange d v then regSet s off (regGet s off 0x200 ||| 0x100)
  else if l.contains e then s
  else if retireRoom d ≤ l.length then regSet s off (regGet s off 0x200 ||| 0x100)
  else { s with units := { s.units with fuses := { s.units.fuses with retired := nmSet s.units.fuses.retired d (l ++ [e]) } } }

/-- A write of SBD_LANE_RETIRE or TB_LANE_RETIRE. -/
def retireWrite (req : Requester) (d : Nat) (v : Word) (s : State) : State := marginWrite req (dieBase d + 0x320) v (retireLane d v) s

/-- LANE_RETIRE (R766). -/
def execLaneRetire (req : Requester) (die : Fin 6) (value : Word) (s : State) : Host.Outcome State Fault Refusal :=
  .next (retireWrite req die.val value s)

/-! ### The read-out of test lanes (R547) -/

/-- First lane of a die, and its lanes (R532). -/
def firstLane (d : Nat) : Nat := if d < 4 then 1024 * d else 4096 + 512 * (d - 4)
def laneCount (d : Nat) : Nat := if d < 4 then 1024 else 512

/-- RESTART: the lane is at draw 0 of its home stream. -/
def testRestart (d lane : Nat) (s : State) : State :=
  { s with units := { s.units with rngTest := nmSet s.units.rngTest (1024 * d + lane) 0 } }

/-- STEP: the next draw goes to the DATA register; the place of a lane that no RESTART has placed is open: a free value. -/
def testStep (d lane : Nat) (s : State) : State :=
  match nmGet? s.units.rngTest (1024 * d + lane) with
  | some k =>
    let draw := genDraw (genAt (planeTenant s.cfg.live 0).seed (firstLane d + lane) k)
    let s := { s with units := { s.units with rngTest := nmSet s.units.rngTest (1024 * d + lane) (k + 1) } }
    regSet s (dieBase d + 0x604) draw
  | none => let x := takeNat s; regSet x.1 (dieBase d + 0x604) (word x.2)

/-- What RESTART and STEP of a written value do; a lane that the die does not have does nothing. -/
def testLane (d : Nat) (v : Word) (s : State) : State :=
  let lane := fld v 0 10
  if !v.getLsbD 16 && !v.getLsbD 17 then s
  else if s.cfg.live.isImage || testerDown s then setBits s (dieBase d + 0x600) 0x40000
  else if laneCount d ≤ lane then s
  else
    let s := if v.getLsbD 16 then testRestart d lane s else s
    if v.getLsbD 17 then testStep d lane s else s

/-- A write of SBD_RNG_TEST_CTRL or TB_RNG_TEST_CTRL: LANE is stored, REFUSED clears where a 1 is written, and RESTART and STEP act. -/
def rngTestWrite (req : Requester) (d : Nat) (v : Word) (s : State) : State :=
  let off := dieBase d + 0x600
  writeReg req off v (fun s => (testLane d v (clearBits (storeReg s off v (BitVec.allOnes 32)) off v), stOk)) s

/-- RNG_TEST_RESTART (R547). -/
def execRngTestRestart (req : Requester) (die : Fin 6) (value : Word) (s : State) : Host.Outcome State Fault Refusal :=
  .next (rngTestWrite req die.val value s)

/-- RNG_TEST_STEP (R547). -/
def execRngTestStep (req : Requester) (die : Fin 6) (value : Word) (s : State) : Host.Outcome State Fault Refusal :=
  .next (rngTestWrite req die.val value s)

end Sys2Proof.Machine
end

