-- ==== Sys2Proof/Machine/Registers.lean ====
section
/-! DEFINITION. Reads and writes of the control window as host transport, the management I3C target and the test port make them
(*Register windows*; R593, R725 to R740). -/

namespace Sys2Proof.Machine

/-! ### Reads -/

/-- A read of any register. -/
def readAny (r : Requester) (off : Nat) (s : State) : State := readReg r off (fun s => regRead s r off) s

/-- Who a host-transport request acts as. -/
def hostRequester (r : HostReq) : Requester := .host r.module r.tenant r.tag

/-- REG_RD (R727). -/
def execRegRd (r : HostReq) (s : State) : Host.Outcome State Fault Refusal := .next (readAny (hostRequester r) r.addr.toNat s)

/-- Offset of a register of a sync-object entry. -/
def syncOff (k off : Nat) : Nat := syncWindow + 0x40 * k + off

/-- VALUE_LO_READ (R731). -/
def execValueLoRead (req : Requester) (sync : BitVec 14) (s : State) : Host.Outcome State Fault Refusal :=
  .next (readAny req (syncOff sync.toNat 0) s)

/-- TEN_NUM_LO_READ (R607). -/
def execTenNumLoRead (req : Requester) (s : State) : Host.Outcome State Fault Refusal := .next (readAny req 0x1054 s)

/-! ### Writes with effects of their own -/

/-- A write of CQ_HEAD (R128). -/
def cqHeadReg (r : Requester) (q : Nat) (v : Word) (s : State) : State :=
  writeReg r (doorbellPage + 0x1000 * q + 8) v (fun s => (setCqHead s q v, stOk)) s

/-- CQ_HEAD_WRITE (R128). -/
def execCqHeadWrite (req : Requester) (queue : Fin 256) (value : Word) (s : State) : Host.Outcome State Fault Refusal :=
  .next (cqHeadReg req queue.val value s)

/-- A write of SQ_TAIL: a doorbell of the requester's tenant, which R124 judges. -/
def sqTailReg (r : Requester) (q : Nat) (v : Word) (s : State) : State :=
  writeReg r (doorbellPage + 0x1000 * q) v (fun s => doorbell s q (reqTenant s r) v) s

/-- BAD_DB of a doorbell page after a write of ones (R20). -/
def clearBadDb (r : Requester) (q : Nat) (v : Word) (s : State) : State :=
  writeReg r (doorbellPage + 0x1000 * q + 0x10) v (fun s => (if v.getLsbD 8 then updQ s q fun c => { c with badDb := false } else s, stOk)) s

/-- A write to a doorbell page. -/
def doorbellReg (r : Requester) (off : Nat) (v : Word) (s : State) : State :=
  let q := (off - doorbellPage) / 0x1000
  match off % 0x1000 with
  | 0x000 => sqTailReg r q v s
  | 0x008 => cqHeadReg r q v s
  | 0x010 => clearBadDb r q v s
  | _ => writeReg r off v (fun s => (s, stOk)) s

/-- A write of HUB_EVT_HEAD. -/
def evtHeadReg (r : Requester) (t : Nat) (v : Word) (s : State) : State :=
  writeReg r (0x10000 + t * 0x100 + 0x34) v (fun s => (setEvtHead s t v, stOk)) s

/-- EVT_HEAD_WRITE (R771). -/
def execEvtHeadWrite (req : Requester) (tenant : Fin 16) (value : Word) (s : State) : Host.Outcome State Fault Refusal :=
  .next (evtHeadReg req tenant.val value s)

/-- A write of ADD: a signal (R739). -/
def syncAddReg (r : Requester) (k : Nat) (v : Word) (s : State) : State :=
  writeReg r (syncOff k 0x08) v (fun s => (settle (syncAdd s k (v.setWidth 64)), stOk)) s

/-- SYNC_ADD (R739). -/
def execSyncAdd (req : Requester) (sync : BitVec 14) (value : Word) (s : State) : Host.Outcome State Fault Refusal :=
  .next (syncAddReg req sync.toNat value s)

/-- A write of SET_LO: the low word is staged for the requester. -/
def setLoReg (r : Requester) (k : Nat) (v : Word) (s : State) : State :=
  writeReg r (syncOff k 0x0C) v (fun s => (setLatch s r (stagedEntry k) v, stOk)) s

/-- SET_LO (R739). -/
def execSetLo (req : Requester) (sync : BitVec 14) (value : Word) (s : State) : Host.Outcome State Fault Refusal :=
  .next (setLoReg req sync.toNat value s)

/-- A new value of a sync object from a high word and the requester's staged low word, which is then cleared. -/
def setHigh (r : Requester) (k : Nat) (v : Word) (s : State) : State :=
  let lo := latchOf s r (stagedEntry k)
  settle (syncSet (setLatch s r (stagedEntry k) 0) k (v ++ lo))

/-- A write of SET_HI. -/
def setHiReg (r : Requester) (k : Nat) (v : Word) (s : State) : State :=
  writeReg r (syncOff k 0x10) v (fun s => (setHigh r k v s, stOk)) s

/-- SET_HI (R739). -/
def execSetHi (req : Requester) (sync : BitVec 14) (value : Word) (s : State) : Host.Outcome State Fault Refusal :=
  .next (setHiReg req sync.toNat value s)

/-- A write to a sync-object entry. -/
def syncReg (r : Requester) (off : Nat) (v : Word) (s : State) : State :=
  let k := (off - syncWindow) / 0x40
  match off % 0x40 with
  | 0x08 => syncAddReg r k v s
  | 0x0C => setLoReg r k v s
  | 0x10 => setHiReg r k v s
  | _ => writeReg r off v (fun s => (s, stOk)) s

/-- HUB_TEN_NUM_SEL after a write: the selection, and the four totals of TENANT cleared under CLEAR (R610). -/
def setNumSel (v : Word) (s : State) : State :=
  let s := regSet s 0x1050 (v &&& 0x3F)
  if v.getLsbD 8 then { s with units := { s.units with totals := nmErase s.units.totals (fld v 0 4) } } else s

/-- A write of HUB_TEN_NUM_SEL: by the control tenant, or by the tenant that it names (Table 9 of *Tenants and contexts*). -/
def numSelReg (r : Requester) (v : Word) (s : State) : State :=
  writeReg r 0x1050 v (fun s =>
    let t := reqTenant s r
    if t = s.cfg.live.control || t.toNat = fld v 0 4 then (setNumSel v s, stOk) else (s, stPriv)) s

/-- TOTALS_CLEAR (R610). -/
def execTotalsClear (req : Requester) (value : Word) (s : State) : Host.Outcome State Fault Refusal := .next (numSelReg req value s)

/-! ### Writes of any register -/

/-- A write to a register of the HUB window. -/
def hubReg (r : Requester) (off : Nat) (v : Word) (s : State) : Option State :=
  match off with
  | 0x0010 => some (planeRegWrite r off v s)
  | 0x001C => some (writeReg r off v (fun s => (setMinSvn s v, stOk)) s)
  | 0x0088 => some (resetCtrl r v none s)
  | 0x008C => some (portResetWrite r v s)
  | 0x1010 => some (keepWrite r v s)
  | 0x1050 => some (numSelReg r v s)
  | 0x3000 => some (writeReg r off v (fun s => (setPace s v, stOk)) s)
  | 0x301C => some (powerWrite r v none s)
  | 0x3114 => some (writeReg r off v (fun s => (setLeadCfg s v, stOk)) s)
  | 0x3118 => some (i3cWrite r off (leadCommand v) s)
  | 0x311C => some (let x := freeRestart s; recoverCtrl r v x.2 x.1)
  | _ =>
    if shOffset off then some (planeRegWrite r off v s)
    else if inRange off 0x10000 0x1000 && off % 0x100 = 0x34 then some (evtHeadReg r ((off - 0x10000) / 0x100) v s)
    else none

/-- A write to a register of an SBD or TB window that does more than store. -/
def dieReg (r : Requester) (off : Nat) (v : Word) (s : State) : Option State :=
  if !inRange off 0x100000 0x600000 then none
  else
    let d := windowDie off
    match off % 0x100000 with
    | 0x300 => some (if d < 4 then sbdMargin r d v s else tbMargin r (d - 4) v s)
    | 0x310 => if d < 4 then some (sbdUmargin r d v s) else none
    | 0x320 => some (retireWrite r d v s)
    | 0x600 => some (rngTestWrite r d v s)
    | _ => none

/-- Store the RW fields of any other register, and clear its RW1C bits (R20). -/
def plainWrite (r : Requester) (off : Nat) (v : Word) (s : State) : State :=
  writeReg r off v (fun s => (clearBits (storeReg s off v (BitVec.allOnes 32)) off v, stOk)) s

/-- A write of any register, with what the register does. -/
def writeAny (r : Requester) (off : Nat) (v : Word) (s : State) : State :=
  if inRange off syncWindow 0x100000 && off % 4 = 0 then syncReg r off v s
  else if inRange off doorbellPage 0x100000 && off % 4 = 0 then doorbellReg r off v s
  else match hubReg r off v s with
    | some s' => s'
    | none => match dieReg r off v s with
      | some s' => s'
      | none => plainWrite r off v s

/-- REG_WR (R727): the 32-bit payload. -/
def execRegWr (r : HostReq) (s : State) : Host.Outcome State Fault Refusal :=
  .next (writeAny (hostRequester r) r.addr.toNat (word (leNat (r.data.take 4))) s)

/-! ### The management I3C target (R729, R730) -/

/-- A new private write discards the reply of the command before it, which may still be on its way. -/
def newI3c (s : State) : State :=
  { s with
    fe := { s.fe with heldReg := s.fe.heldReg.filter fun h => h.req ≠ .i3c }
    cfg := { s.cfg with heldWr := s.cfg.heldWr.map fun x => if x.1 = .i3c then (.tap, x.2) else x }
    units := { s.units with i3c := ⟨[], false⟩ } }

/-- I3C_REG_RD (R729). -/
def execI3cRegRd (offset : Word) (s : State) : Host.Outcome State Fault Refusal := .next (readAny .i3c offset.toNat (newI3c s))

/-- I3C_REG_WR (R729). -/
def execI3cRegWr (offset value : Word) (s : State) : Host.Outcome State Fault Refusal :=
  .next (writeAny .i3c offset.toNat value (newI3c s))

/-- Whether some bytes are a command of Table 2 with its arguments. -/
def i3cKnown (bytes : List Byte) : Bool :=
  match bytes with
  | [] => false
  | c :: l => (c = 1 && l.length = 4) || (c = 2 && l.length = 8)

/-- I3C_BAD_COMMAND (R729). -/
def execI3cBadCommand (bytes : List Byte) (s : State) : Host.Outcome State Fault Refusal :=
  .next (if i3cKnown bytes then s else
    let s := newI3c s
    { s with units := { s.units with i3c := ⟨[0xEE], false⟩ } })

/-! ### Accesses that a die does not answer (R728) -/

/-- REGISTER_ACCESS_TIMEOUT: the access has no effect, and ends with ST_BUSY. -/
def accessTimeout (r : Requester) (off : Nat) (s : State) : State :=
  match s.fe.heldReg.find? fun h => h.req = r && h.offset = off with
  | none => s
  | some h =>
    let s := { s with fe := { s.fe with heldReg := s.fe.heldReg.filter fun x => x ≠ h } }
    if h.value.isSome then answerWrite s r stBusy else answerRead s r stBusy 0

/-- REGISTER_ACCESS_TIMEOUT (R728). -/
def execRegisterAccessTimeout (req : Requester) (offset : Word) (s : State) : Host.Outcome State Fault Refusal :=
  .next (accessTimeout req offset.toNat s)

end Sys2Proof.Machine
end

