-- ==== Sys2Proof/Machine/Dispatch.lean ====
section
/-! DEFINITION. The dispatcher: one arm per command, each one direct call of that command's meaning. -/

namespace Sys2Proof.Machine

/-- The effect of a command on everything but the queue of waiting commands. -/
def exec (i : Instr) (s : State) : Host.Outcome State Fault Refusal :=
  match i with
  | .mrd64 r => Sys2Proof.Machine.execMrd64 r s
  | .mwr64 r => Sys2Proof.Machine.execMwr64 r s
  | .pushWrite r => Sys2Proof.Machine.execPushWrite r s
  | .srd32 r => Sys2Proof.Machine.execSrd32 r s
  | .swr32 r => Sys2Proof.Machine.execSwr32 r s
  | .db r => Sys2Proof.Machine.execDb r s
  | .regRd r => Sys2Proof.Machine.execRegRd r s
  | .regWr r => Sys2Proof.Machine.execRegWr r s
  | .badTypeRequest type r => Sys2Proof.Machine.execBadTypeRequest type r s
  | .descriptorFetch queue => Sys2Proof.Machine.execDescriptorFetch queue s
  | .completionRecordWrite handle => Sys2Proof.Machine.execCompletionRecordWrite handle s
  | .eventRecordWrite tenant code => Sys2Proof.Machine.execEventRecordWrite tenant code s
  | .nop handle => Sys2Proof.Machine.execNop handle s
  | .planRun handle => Sys2Proof.Machine.execPlanRun handle s
  | .planRunStart handle => Sys2Proof.Machine.execPlanRunStart handle s
  | .planRunDone handle => Sys2Proof.Machine.execPlanRunDone handle s
  | .signal handle => Sys2Proof.Machine.execSignal handle s
  | .wait handle => Sys2Proof.Machine.execWait handle s
  | .waitTimeout handle => Sys2Proof.Machine.execWaitTimeout handle s
  | .fence handle => Sys2Proof.Machine.execFence handle s
  | .copy handle => Sys2Proof.Machine.execCopy handle s
  | .convert handle => Sys2Proof.Machine.execConvert handle s
  | .transposeIn handle => Sys2Proof.Machine.execTransposeIn handle s
  | .transposeOut handle => Sys2Proof.Machine.execTransposeOut handle s
  | .accum handle => Sys2Proof.Machine.execAccum handle s
  | .ticketApply tile => Sys2Proof.Machine.execTicketApply tile s
  | .reduce handle => Sys2Proof.Machine.execReduce handle s
  | .gather handle => Sys2Proof.Machine.execGather handle s
  | .norm handle => Sys2Proof.Machine.execNorm handle s
  | .collectiveStart handle => Sys2Proof.Machine.execCollectiveStart handle s
  | .sweepSpec handle => Sys2Proof.Machine.execSweepSpec handle s
  | .sweepRedo handle => Sys2Proof.Machine.execSweepRedo handle s
  | .commit handle => Sys2Proof.Machine.execCommit handle s
  | .abort handle => Sys2Proof.Machine.execAbort handle s
  | .digest handle answers => Sys2Proof.Machine.execDigest handle answers s
  | .repair handle data => Sys2Proof.Machine.execRepair handle data s
  | .pimRun handle => Sys2Proof.Machine.execPimRun handle s
  | .zero handle => Sys2Proof.Machine.execZero handle s
  | .migrate handle => Sys2Proof.Machine.execMigrate handle s
  | .pin handle => Sys2Proof.Machine.execPin handle s
  | .snapshot handle => Sys2Proof.Machine.execSnapshot handle s
  | .actStore handle => Sys2Proof.Machine.execActStore handle s
  | .actLoad handle => Sys2Proof.Machine.execActLoad handle s
  | .rngFill handle => Sys2Proof.Machine.execRngFill handle s
  | .draw handle => Sys2Proof.Machine.execDraw handle s
  | .initParams handle => Sys2Proof.Machine.execInitParams handle s
  | .txgBegin handle => Sys2Proof.Machine.execTxgBegin handle s
  | .txgEnd handle => Sys2Proof.Machine.execTxgEnd handle s
  | .txgEnding group => Sys2Proof.Machine.execTxgEnding group s
  | .lockGrant line group => Sys2Proof.Machine.execLockGrant line group s
  | .lockTimeout line group => Sys2Proof.Machine.execLockTimeout line group s
  | .ctxSave handle => Sys2Proof.Machine.execCtxSave handle s
  | .ctxRestore handle => Sys2Proof.Machine.execCtxRestore handle s
  | .cfgStage handle => Sys2Proof.Machine.execCfgStage handle s
  | .cfgCommit handle => Sys2Proof.Machine.execCfgCommit handle s
  | .quietPointSwitch => Sys2Proof.Machine.execQuietPointSwitch s
  | .quietTimeout => Sys2Proof.Machine.execQuietTimeout s
  | .pushOrphanTimeout queue pushId offset => Sys2Proof.Machine.execPushOrphanTimeout queue pushId offset s
  | .cqHeadWrite req queue value => Sys2Proof.Machine.execCqHeadWrite req queue value s
  | .evtHeadWrite req tenant value => Sys2Proof.Machine.execEvtHeadWrite req tenant value s
  | .discard req value => Sys2Proof.Machine.execDiscard req value s
  | .shWrite req offset value => Sys2Proof.Machine.execShWrite req offset value s
  | .paceLimitsWrite req value => Sys2Proof.Machine.execPaceLimitsWrite req value s
  | .lkWrite req value => Sys2Proof.Machine.execLkWrite req value s
  | .minSvnWrite req value => Sys2Proof.Machine.execMinSvnWrite req value s
  | .arm req value => Sys2Proof.Machine.execArm req value s
  | .dropSelf req value => Sys2Proof.Machine.execDropSelf req value s
  | .keepDropDelay => Sys2Proof.Machine.execKeepDropDelay s
  | .syncAdd req sync value => Sys2Proof.Machine.execSyncAdd req sync value s
  | .setLo req sync value => Sys2Proof.Machine.execSetLo req sync value s
  | .setHi req sync value => Sys2Proof.Machine.execSetHi req sync value s
  | .valueLoRead req sync => Sys2Proof.Machine.execValueLoRead req sync s
  | .tenNumLoRead req => Sys2Proof.Machine.execTenNumLoRead req s
  | .totalsClear req value => Sys2Proof.Machine.execTotalsClear req value s
  | .marginRun req stack value => Sys2Proof.Machine.execMarginRun req stack value s
  | .umarginRun req stack value => Sys2Proof.Machine.execUmarginRun req stack value s
  | .tbMarginRun req bridge value => Sys2Proof.Machine.execTbMarginRun req bridge value s
  | .marginRunEnd run errors => Sys2Proof.Machine.execMarginRunEnd run errors s
  | .laneRetire req die value => Sys2Proof.Machine.execLaneRetire req die value s
  | .rngTestRestart req die value => Sys2Proof.Machine.execRngTestRestart req die value s
  | .rngTestStep req die value => Sys2Proof.Machine.execRngTestStep req die value s
  | .i3cRegRd offset => Sys2Proof.Machine.execI3cRegRd offset s
  | .i3cRegWr offset value => Sys2Proof.Machine.execI3cRegWr offset value s
  | .i3cBadCommand bytes => Sys2Proof.Machine.execI3cBadCommand bytes s
  | .coldReset cause => Sys2Proof.Machine.execColdReset cause s
  | .warmReset cause restart => Sys2Proof.Machine.execWarmReset cause restart s
  | .portResetGroup req value => Sys2Proof.Machine.execPortResetGroup req value s
  | .portResetHazel req value => Sys2Proof.Machine.execPortResetHazel req value s
  | .hubRecover cause restart => Sys2Proof.Machine.execHubRecover cause restart s
  | .lead req value => Sys2Proof.Machine.execLead req value s
  | .retain req value => Sys2Proof.Machine.execRetain req value s
  | .retainEntry => Sys2Proof.Machine.execRetainEntry s
  | .retainRefuse => Sys2Proof.Machine.execRetainRefuse s
  | .wake req value restart => Sys2Proof.Machine.execWake req value restart s
  | .l1Entry group => Sys2Proof.Machine.execL1Entry group s
  | .l1Exit group => Sys2Proof.Machine.execL1Exit group s
  | .speculativeSweep shard => Sys2Proof.Machine.execSpeculativeSweep shard s
  | .sweepComplete shard => Sys2Proof.Machine.execSweepComplete shard s
  | .sweepStop shard swept => Sys2Proof.Machine.execSweepStop shard swept s
  | .ueFault ue residue => Sys2Proof.Machine.execUeFault ue residue s
  | .packageTripleEntry tenant => Sys2Proof.Machine.execPackageTripleEntry tenant s
  | .commitFlip tenant => Sys2Proof.Machine.execCommitFlip tenant s
  | .gatherFlip tenant layer => Sys2Proof.Machine.execGatherFlip tenant layer s
  | .accumulatorZeroing tenant => Sys2Proof.Machine.execAccumulatorZeroing tenant s
  | .phaseDispatch engine tenant => Sys2Proof.Machine.execPhaseDispatch engine tenant s
  | .digestComparison shard answers => Sys2Proof.Machine.execDigestComparison shard answers s
  | .tileRepair shard tile data => Sys2Proof.Machine.execTileRepair shard tile data s
  | .write port f => Sys2Proof.Machine.execWrite port f s
  | .acc port f => Sys2Proof.Machine.execAcc port f s
  | .set port f => Sys2Proof.Machine.execSet port f s
  | .narrow port f => Sys2Proof.Machine.execNarrow port f s
  | .triple port f => Sys2Proof.Machine.execTriple port f s
  | .verdict port f => Sys2Proof.Machine.execVerdict port f s
  | .serve port f => Sys2Proof.Machine.execServe port f s
  | .status port f => Sys2Proof.Machine.execStatus port f s
  | .drop port f => Sys2Proof.Machine.execDrop port f s
  | .recover port f => Sys2Proof.Machine.execRecover port f s
  | .credit port f => Sys2Proof.Machine.execCredit port f s
  | .link port f => Sys2Proof.Machine.execLink port f s
  | .badFrameType port f => Sys2Proof.Machine.execBadFrameType port f s
  | .frameReplay port uncorrectable => Sys2Proof.Machine.execFrameReplay port uncorrectable s
  | .heldFrameRelease index => Sys2Proof.Machine.execHeldFrameRelease index s
  | .streamCountTimeout src stream group => Sys2Proof.Machine.execStreamCountTimeout src stream group s
  | .hazelLaneFailure port lane => Sys2Proof.Machine.execHazelLaneFailure port lane s
  | .hazelPortTrained port peer spid width => Sys2Proof.Machine.execHazelPortTrained port peer spid width s
  | .lossOfSignal dim plus => Sys2Proof.Machine.execLossOfSignal dim plus s
  | .linkTrainTimeout port => Sys2Proof.Machine.execLinkTrainTimeout port s
  | .recoveryRoundTimeout => Sys2Proof.Machine.execRecoveryRoundTimeout s
  | .keepWatchdogExpiry => Sys2Proof.Machine.execKeepWatchdogExpiry s
  | .claim acornB expect parityOk => Sys2Proof.Machine.execClaim acornB expect parityOk s
  | .renew acornB expect parityOk => Sys2Proof.Machine.execRenew acornB expect parityOk s
  | .release acornB expect parityOk => Sys2Proof.Machine.execRelease acornB expect parityOk s
  | .deferentTimeout => Sys2Proof.Machine.execDeferentTimeout s
  | .leaseExpiry => Sys2Proof.Machine.execLeaseExpiry s
  | .acornProbe acornB reach => Sys2Proof.Machine.execAcornProbe acornB reach s
  | .acornSelftest acornB passes => Sys2Proof.Machine.execAcornSelftest acornB passes s
  | .lockstepMismatch acornB => Sys2Proof.Machine.execLockstepMismatch acornB s
  | .hubUnitFailure unit => Sys2Proof.Machine.execHubUnitFailure unit s
  | .hubFatal => Sys2Proof.Machine.execHubFatal s
  | .bridgeSelfRefresh bridge => Sys2Proof.Machine.execBridgeSelfRefresh bridge s
  | .spineModuleFailure link => Sys2Proof.Machine.execSpineModuleFailure link s
  | .portDown module => Sys2Proof.Machine.execPortDown module s
  | .hostModuleTrained module repairable => Sys2Proof.Machine.execHostModuleTrained module repairable s
  | .hostPortTrainingRetry module => Sys2Proof.Machine.execHostPortTrainingRetry module s
  | .parityRetry channel transfer attempt => Sys2Proof.Machine.execParityRetry channel transfer attempt s
  | .refresh channel bank => Sys2Proof.Machine.execRefresh channel bank s
  | .hotRefreshWindow stack die temp => Sys2Proof.Machine.execHotRefreshWindow stack die temp s
  | .patrolRead channel row bank found => Sys2Proof.Machine.execPatrolRead channel row bank found s
  | .ceWindowEnd => Sys2Proof.Machine.execCeWindowEnd s
  | .refetchDeadline granule => Sys2Proof.Machine.execRefetchDeadline granule s
  | .atomComplete channel => Sys2Proof.Machine.execAtomComplete channel s
  | .yieldTimeout channel => Sys2Proof.Machine.execYieldTimeout channel s
  | .unitSwitch unit => Sys2Proof.Machine.execUnitSwitch unit s
  | .droopFlag domain => Sys2Proof.Machine.execDroopFlag domain s
  | .droopLimitRise domain => Sys2Proof.Machine.execDroopLimitRise domain s
  | .thermalLimit domain logicTemp arrayTemp => Sys2Proof.Machine.execThermalLimit domain logicTemp arrayTemp s
  | .powerEstimate shortAvg longAvg tenantDraw pipDraw => Sys2Proof.Machine.execPowerEstimate shortAvg longAvg tenantDraw pipDraw s
  | .throttle domain => Sys2Proof.Machine.execThrottle domain s
  | .timebaseSwitch refclkPresent => Sys2Proof.Machine.execTimebaseSwitch refclkPresent s
  | .switchRecord => Sys2Proof.Machine.execSwitchRecord s
  | .heartbeat => Sys2Proof.Machine.execHeartbeat s
  | .occupancyRecord bytes => Sys2Proof.Machine.execOccupancyRecord bytes s
  | .maskExpiry => Sys2Proof.Machine.execMaskExpiry s
  | .huskSample samples => Sys2Proof.Machine.execHuskSample samples s
  | .intervalClose => Sys2Proof.Machine.execIntervalClose s
  | .huskCheckpoint => Sys2Proof.Machine.execHuskCheckpoint s
  | .romCheck crc => Sys2Proof.Machine.execRomCheck crc s
  | .pfail => Sys2Proof.Machine.execPfail s
  | .huskPowerUp crc cfgEn cut late => Sys2Proof.Machine.execHuskPowerUp crc cfgEn cut late s
  | .huskCfgEnRise => Sys2Proof.Machine.execHuskCfgEnRise s
  | .mirrorSnapshot => Sys2Proof.Machine.execMirrorSnapshot s
  | .mirrorLinkLoss => Sys2Proof.Machine.execMirrorLinkLoss s
  | .huskIdent => Sys2Proof.Machine.execHuskIdent s
  | .huskStatus => Sys2Proof.Machine.execHuskStatus s
  | .readRec interval => Sys2Proof.Machine.execReadRec interval s
  | .ack interval => Sys2Proof.Machine.execAck interval s
  | .anchor utc => Sys2Proof.Machine.execAnchor utc s
  | .key => Sys2Proof.Machine.execKey s
  | .live => Sys2Proof.Machine.execLive s
  | .config block => Sys2Proof.Machine.execConfig block s
  | .huskBadCommand bytes => Sys2Proof.Machine.execHuskBadCommand bytes s
  | .resetRelease spine => Sys2Proof.Machine.execResetRelease spine s
  | .firmwareBoot flash => Sys2Proof.Machine.execFirmwareBoot flash s
  | .sproutLoad die loaded => Sys2Proof.Machine.execSproutLoad die loaded s
  | .channelTraining channel failedLanes => Sys2Proof.Machine.execChannelTraining channel failedLanes s
  | .lpddr5xTraining fitted0 fitted1 sizesOk passes => Sys2Proof.Machine.execLpddr5xTraining fitted0 fitted1 sizesOk passes s
  | .ueSelftest ue passes => Sys2Proof.Machine.execUeSelftest ue passes s
  | .bootReady => Sys2Proof.Machine.execBootReady s
  | .idcode => Sys2Proof.Machine.execIdcode s
  | .samplePreload => Sys2Proof.Machine.execSamplePreload s
  | .extest => Sys2Proof.Machine.execExtest s
  | .clamp => Sys2Proof.Machine.execClamp s
  | .highz => Sys2Proof.Machine.execHighz s
  | .stackTest => Sys2Proof.Machine.execStackTest s
  | .stackSel stack => Sys2Proof.Machine.execStackSel stack s
  | .coreTest internal => Sys2Proof.Machine.execCoreTest internal s
  | .coreDie die => Sys2Proof.Machine.execCoreDie die s
  | .regRead offset => Sys2Proof.Machine.execRegRead offset s
  | .bypass => Sys2Proof.Machine.execBypass s
  | .tapReset => Sys2Proof.Machine.execTapReset s
  | .testModeExit => Sys2Proof.Machine.execTestModeExit s
  | .hostTransportReplay module fails => Sys2Proof.Machine.execHostTransportReplay module fails s
  | .sproutFailure die => Sys2Proof.Machine.execSproutFailure die s
  | .umarginPartnerStart stack => Sys2Proof.Machine.execUmarginPartnerStart stack s
  | .umarginPartnerTimeout stack => Sys2Proof.Machine.execUmarginPartnerTimeout stack s
  | .registerAccessTimeout req offset => Sys2Proof.Machine.execRegisterAccessTimeout req offset s
  | .retainRailRemoval ucie hz => Sys2Proof.Machine.execRetainRailRemoval ucie hz s
  | .retainRailRestore => Sys2Proof.Machine.execRetainRailRestore s

end Sys2Proof.Machine
end

