-- ==== Sys2Proof/Safety.lean ====
section
/-! DEFINITION. What a state of a run must satisfy, and the words in which claims speak of operations, registers and memory. -/

namespace Sys2Proof.Machine

/-- Both byte memories keep their canonical form. -/
def Memory.wf (m : MemState) : Bool := cellsWf m.cells && cellsWf m.scells

/-- `t` is what `s` goes to under command `c`. -/
abbrev Goes (c : Instr) (s t : State) : Prop := exec c s = .next t

/-- Handle `h` names operation `o`, of opcode `c`, which is Running and has not begun to act. -/
abbrev Ready (s : State) (h : Word) (c : Nat) (o : Op) : Prop :=
  findOp s h = some o ∧ dOpcode o.desc = c ∧ o.phase = .running ∧ o.started = false

/-- The state in which the operation of a handle has begun to act. -/
def begun (s : State) (h : Word) : State := updOp s h fun x => { x with started := true }

/-- An operation that has begun to act. -/
def begunOp (o : Op) : Op := { o with started := true }

/-- The operation is part of no transaction group: none is open, and no TXG_BEGIN is on its way. -/
abbrev Groupless (s : State) : Prop := s.step.txgs = [] ∧ ∀ x ∈ s.fe.ops, dOpcode x.desc ≠ opTxgBegin

/-- The arrays and the bridges give what was written: no channel has failed, every stored sector is its code word, no burst of a bridge
is about to fail, and every poisoned granule of a bridge is listed. -/
abbrev NoFailed (s : State) : Prop :=
  (∀ c ∈ s.units.chans, c.2.failed = false) ∧ s.mem.flips = [] ∧ s.units.tier.links = [] ∧ s.units.tier.unlisted = []

/-- A data command is not behind other accesses: it has no place among the held accesses, and none of its ranges reaches a channel at
which accesses wait in the order of arrival (R74). -/
abbrev InTurn (s : State) (h : Word) (o : Op) : Prop :=
  s.fe.held.any (ownPlace h) = false ∧ orderChans s (dataRanges s o) = []

/-- A read at a home is served as it comes: no earlier held request of its module meets it, nothing holds it, and no access waits in
order at its channels. -/
abbrev ServedAt (s : State) (r : HostReq) (n loc : Nat) : Prop :=
  heldMeets s.fe.held r n = false ∧ readHeld s loc n = false ∧ orderChans s [(loc, n)] = []

/-- Everything but the registers, the free counter, the front end, the caches and the sync objects is as it was. -/
abbrev SameCore (s t : State) : Prop :=
  t.mem.cells = s.mem.cells ∧ t.mem.written = s.mem.written ∧ t.mem.scells = s.mem.scells ∧ t.mem.prows = s.mem.prows ∧
  t.cfg = s.cfg ∧ t.step = s.step ∧ t.hz = s.hz ∧ t.pending = s.pending

/-- A requester may write a register, and its die is reached: the write takes effect at once. -/
abbrev WriteOk (s : State) (r : Requester) (off : Nat) : Prop := writeDenied s r off = none ∧ dieLost s off = false

/-- A requester may read a register, and its die is reached. -/
abbrev ReadOk (s : State) (r : Requester) (off : Nat) : Prop := readDenied s r off = none ∧ dieLost s off = false

/-! ### Operands in the words of claims -/

/-- A local D-space range that a command can read as it stands: nothing holds it, no byte of it is poisoned or never written, no
copy of it is kept elsewhere and no gather range maps any of it. -/
abbrev PlainSrc (s : State) (a n : Nat) : Prop :=
  Memory.wf s.mem = true ∧ NoFailed s ∧ (∀ g ∈ s.cfg.live.dmap.gathers, (g.copy1.isSome && meets a n g.base g.bytes) = false) ∧
  readHeld s a n = false ∧ poisonIn s a n = false ∧ freshIn s a n = 0 ∧ (∀ l ∈ s.units.cache, l.visitor = none)

/-- A local D-space range that a command can write as it stands: nothing holds it, no part of a poisoned granule would be cut, no
shard at work and no digest lies there. -/
abbrev PlainDst (s : State) (b n : Nat) : Prop :=
  NoFailed s ∧ writeHeld s none b n = false ∧ poisonCut s b n = false ∧ shardBusy s b n = false ∧
  (∀ e ∈ s.cfg.live.shards, touchedTiles s e.1 e.2 b n = []) ∧ s.units.integ.refetch = []

/-- The bytes of a source operand in S-space, or in local D-space that can be read as it stands. -/
abbrev SourceIs (s : State) (space addr n : Nat) (bs : List Byte) : Prop :=
  (space = 1 ∧ bs = sRead s addr n) ∨
  (space = 0 ∧ ∃ a, sysAddr s.cfg.live addr = .here a ∧ PlainSrc s a n ∧ bs = dRead s a n)

/-- A destination operand in S-space, or in local D-space that can be written as it stands. -/
abbrev DestOk (s : State) (space addr n : Nat) : Prop :=
  space = 1 ∨ (space = 0 ∧ ∃ b, sysAddr s.cfg.live addr = .here b ∧ PlainDst s b n)

/-- Bytes lie in a memory from an address on, and every other byte is as it was. -/
abbrev Laid (before after : List Host.Cell) (b : Nat) (bs : List Byte) : Prop :=
  ∀ x, memGet after x = if b ≤ x ∧ x < b + bs.length then bs.getD (x - b) 0 else memGet before x

/-- What a command delivers: its bytes at the destination, every other byte of both memories, the P-space rows, the sync objects,
the configuration, the step engine and the fabric as they were. -/
abbrev Delivered (s u : State) (space addr : Nat) (bs : List Byte) : Prop :=
  (space = 1 → Laid s.mem.scells u.mem.scells addr bs ∧ ∀ x, memGet u.mem.cells x = memGet s.mem.cells x) ∧
  (space = 0 → ∀ b, sysAddr s.cfg.live addr = .here b → Laid s.mem.cells u.mem.cells b bs ∧ u.mem.scells = s.mem.scells) ∧
  u.mem.prows = s.mem.prows ∧ u.syncs = s.syncs ∧ u.cfg = s.cfg ∧ u.step = s.step ∧ u.hz = s.hz

end Sys2Proof.Machine
end

