-- ==== Sys2Proof/Certificates/Slice0/Obligations.lean ====
section
/-! DEFINITION. The statements about the block that the provers prove. Each docstring names the rule it rests on. -/

open Sys2Proof Sys2Proof.Machine

/-! ### The block -/

/-- A step takes the command at the front of the queue and runs it on the state with the queue's rest; on an empty queue it idles
(the model's choice, log 1). -/
def Obligations.StepTakesFront : Prop :=
  (∀ (c : Instr) (rest : List Instr) (s : State), step { s with pending := c :: rest } = exec c { s with pending := rest }) ∧
  (∀ s : State, s.pending = [] → step s = .next s)

/-! ### Host transport -/

/-- A host read that nothing holds, of written and unpoisoned bytes, with no copy kept anywhere, answers with the bytes at the place
that its address reaches (R46: the active copy, in a gather range) and leaves memory and configuration as they are. A read that its home
cannot serve yet is held with that place, and answered later. -/
def Obligations.HostReadsMemory : Prop :=
  (∀ (s : State) (r : HostReq), let loc := gatherMap s r.addr.toNat
    readRefusal s r 64 = none → NoFailed s → ServedAt s r 64 loc → poisonIn s loc 64 = false → freshIn s loc 64 = 0 →
    s.mem.copies = [] → (∀ l ∈ s.units.cache, l.visitor = none) →
    ∃ t, Goes (.mrd64 r) s t ∧ SameCore s t ∧ t.fe.hostOut = s.fe.hostOut ++ [.rsp r.module.val r.tenant r.tag 0 (dRead s loc 64)]) ∧
  (∀ (s : State) (r : HostReq), let loc := gatherMap s r.addr.toNat
    readRefusal s r 32 = none → NoFailed s → ServedAt s r 32 loc → poisonIn s loc 32 = false → freshIn s loc 32 = 0 →
    s.mem.copies = [] → (∀ l ∈ s.units.cache, l.visitor = none) → r.addr.toNat % 64 ≤ loc →
    ∃ t, Goes (.srd32 r) s t ∧ SameCore s t ∧ t.fe.hostOut = s.fe.hostOut ++ [.rsp r.module.val r.tenant r.tag 0 (dRead s loc 32)]) ∧
  (∀ (s : State) (r : HostReq), let loc := gatherMap s r.addr.toNat
    readRefusal s r 64 = none → NoFailed s → heldMeets s.fe.held r 64 = true ∨ readHeld s loc 64 = true →
    Goes (.mrd64 r) s { s with fe := { s.fe with held := s.fe.held ++ [⟨.request 0x01 r, orderChans s [(loc, 64)], loc⟩] } })

/-- A host write that nothing turns away or holds lands: every byte of its range takes the payload's byte, every other byte of
D-space keeps its value, S-space and P-space keep theirs, and the response carries ST_OK. -/
def Obligations.HostWriteLands : Prop :=
  ∀ (s : State) (r : HostReq) (n : Nat) (c : Instr), (c = .mwr64 r ∧ r.attr = 0 ∧ n = 64) ∨ (c = .swr32 r ∧ n = 32) →
    reqAllowed s r = true → r.addr.toNat % n = 0 → protectedOwner s r.addr.toNat n = none →
    dOwned s r.tenant r.addr.toNat n = true → dMapped s r.addr.toNat n = true → heldMeets s.fe.held r n = false →
    writeHeld s none r.addr.toNat n = false → orderChans s [(r.addr.toNat, n)] = [] → poisonCut s r.addr.toNat n = false → NoFailed s →
    s.units.integ.refetch = [] → r.data.length = n →
    ∃ t, Goes c s t ∧
      (∀ b, memGet t.mem.cells b = if r.addr.toNat ≤ b ∧ b < r.addr.toNat + n then r.data.getD (b - r.addr.toNat) 0 else memGet s.mem.cells b) ∧
      t.mem.scells = s.mem.scells ∧ t.mem.prows = s.mem.prows ∧ t.syncs = s.syncs ∧ t.cfg = s.cfg ∧ t.step = s.step ∧
      t.fe.hostOut = s.fe.hostOut ++ [.rsp r.module.val r.tenant r.tag 0 []]

/-- A request whose tenant is not allowed on the module group that carries it changes nothing and is answered ST_BOUNDS (R113). -/
def Obligations.ForeignTenantBounds : Prop :=
  ∀ (s : State) (r : HostReq), reqAllowed s r = false →
    Goes (.mrd64 r) s (respond s r stBounds (List.replicate 64 0)) ∧ Goes (.srd32 r) s (respond s r stBounds (List.replicate 32 0)) ∧
    Goes (.mwr64 r) s (respond s r stBounds []) ∧ Goes (.swr32 r) s (respond s r stBounds []) ∧
    Goes (.pushWrite r) s (respond s r stBounds []) ∧ Goes (.db r) s (respond s r stBounds []) ∧
    Goes (.regRd r) s (respond s r stBounds (List.replicate 4 0)) ∧ Goes (.regWr r) s (respond s r stBounds []) ∧
    (∀ ty : BitVec 8, ty.toNat ∉ [0x01, 0x02, 0x03, 0x04, 0x08, 0x09, 0x0A] → Goes (.badTypeRequest ty r) s (respond s r stBounds []))

/-- A request whose address is not aligned as its type asks has no effect, reads 0 and is answered ST_ALIGN; a push write has no
alignment of its own (R768). -/
def Obligations.MisalignedRequest : Prop :=
  (∀ (s : State) (r : HostReq), reqAllowed s r = true →
    (r.addr.toNat % 64 ≠ 0 → Goes (.mrd64 r) s (respond s r stAlign (List.replicate 64 0))) ∧
    (r.addr.toNat % 32 ≠ 0 → Goes (.srd32 r) s (respond s r stAlign (List.replicate 32 0))) ∧
    (r.addr.toNat % 64 ≠ 0 → r.attr = 0 → Goes (.mwr64 r) s (respond s r stAlign [])) ∧
    (r.addr.toNat % 32 ≠ 0 → Goes (.swr32 r) s (respond s r stAlign [])) ∧
    (r.addr.toNat % 4 ≠ 0 → Goes (.db r) s (respond s r stAlign [])) ∧
    (r.addr.toNat % 4 ≠ 0 → Goes (.regRd r) s (respond s r stAlign (List.replicate 4 0))) ∧
    (r.addr.toNat % 4 ≠ 0 → Goes (.regWr r) s (respond s r stAlign []))) ∧
  (∀ (s : State) (r : HostReq), r.attr = 1 → exec (.mwr64 r) s = exec (.pushWrite r) s) ∧
  (∀ (s : State) (r : HostReq) (d : List Byte), ¬ Goes (.pushWrite r) s (respond s r stAlign d))

/-- A host write to an engine-owned address, to the image store or to a shared region has no effect on memory, is answered ST_BOUNDS
and counted in HUB_OWNED_WRITES; the event EV_OWNED_WRITE is raised to the owner, which is the control tenant for the image store and
for a shared region (R52, R166, R559; the event's DETAIL is open, log 42, and a gather range counts as engine-owned, log 45). -/
def Obligations.OwnedWriteDiscarded : Prop :=
  (∀ (s : State) (r : HostReq) (n : Nat) (c : Instr) (owner : BitVec 4), (c = .mwr64 r ∧ r.attr = 0 ∧ n = 64) ∨ (c = .swr32 r ∧ n = 32) →
    reqAllowed s r = true → r.addr.toNat % n = 0 → protectedOwner s r.addr.toNat n = some owner →
    ∃ t, Goes c s t ∧ t.mem = s.mem ∧ t.fe.hostOut.getLast? = some (.rsp r.module.val r.tenant r.tag 0x09 []) ∧
      (regGet t 0xA4 0).toNat = min 0xFFFFFFFF ((regGet s 0xA4 0).toNat + 1) ∧
      t = respond (raiseEventFree (regCount s 0xA4 1) owner.toNat evOwnedWrite (BitVec.ofNat 64 r.addr.toNat) 0) r stBounds []) ∧
  (∀ (s : State) (a n : Nat),
    ((∃ x ∈ s.cfg.live.dmap.owned, meets a n x.base x.bytes = true) → (protectedOwner s a n).isSome = true) ∧
    ((∀ x ∈ s.cfg.live.dmap.owned, meets a n x.base x.bytes = false) → meetsStore s a n = true ∨ meetsShared s a n = true →
      protectedOwner s a n = some s.cfg.live.control))

/-- Doorbells: an accepted value becomes P and moves the lap count; V = P changes nothing; any other value is ignored with BAD_DB,
EV_DOORBELL_BAD and ST_BAD_FIELD (R123); one of another tenant is ignored with ST_BOUNDS (R124). Writes of the doorbell's module that
their homes still hold are noted, so that no fetch passes them (R81). -/
def Obligations.DoorbellRule : Prop :=
  ∀ (s : State) (r : HostReq) (q : Nat), reqAllowed s r = true → r.addr.toNat % 4 = 0 → sqTailOf r.addr.toNat = some q →
    let v : Word := BitVec.ofNat 32 (leNat (r.data.take 4))
    let c := qOf s q
    let par := planeQueue s.cfg.live q
    let n := if par.en then par.sqEntries.toNat else 0
    let ignored := raiseEventFree (updQ s q fun c => { c with badDb := true }) par.tenant.toNat evDoorbellBad (BitVec.ofNat 64 q) 0
    (r.tenant ≠ par.tenant → Goes (.db r) s (respond ignored r stBounds [])) ∧
    (r.tenant = par.tenant → v = c.p → Goes (.db r) s (respond (noteBell s q r.module) r stOk [])) ∧
    (r.tenant = par.tenant → v ≠ c.p → (v - c.h).toNat ≤ n →
      Goes (.db r) s (respond (noteBell (updQ s q fun c => { c with p := v, l := lapAfter n c.l c.p (v - c.p).toNat }) q r.module) r stOk [])) ∧
    (∀ w ∈ heldWrites s r.module, w ∈ (qOf (noteBell s q r.module) q).bell ∧ canFetch (noteBell s q r.module) q = false) ∧
    (r.tenant = par.tenant → v ≠ c.p → n < (v - c.h).toNat → Goes (.db r) s (respond ignored r stBadField []))

/-- A request of an unknown type is discarded with ST_BAD_OP (R111). A push piece is checked in the order of R115 and is taken by the
fetched command that it belongs to, or by the push buffer; a second copy of it is discarded, and one that finds the buffer full waits for
room (R116 to R118). A piece that the buffer has held too long is discarded, with EV_PUSH_ORPHAN, and room lets waiting pieces in. -/
def Obligations.PushAndBadType : Prop :=
  (∀ (s : State) (r : HostReq) (ty : BitVec 8), reqAllowed s r = true → ty.toNat ∉ [0x01, 0x02, 0x03, 0x04, 0x08, 0x09, 0x0A] →
    Goes (.badTypeRequest ty r) s (respond s r stBadOp [])) ∧
  (∀ (s : State) (r : HostReq), reqAllowed s r = true → (planeQueue s.cfg.live (pushQueue r)).en = true →
    queueDie s.cfg.live (pushQueue r) = r.module.val / 16 → r.tenant = (planeQueue s.cfg.live (pushQueue r)).tenant →
    let piece := padTo 64 0 (r.data.take 64)
    (∀ o, pushTarget s r = some o → Goes (.pushWrite r) s
      (respond (updOp s o.handle fun x => { x with pieces := addPiece x.pieces (pushOffset r).toNat piece }) r stOk [])) ∧
    (pushTarget s r = none → (∃ x ∈ s.fe.push, x.queue = pushQueue r ∧ x.pushId = pushId r ∧ x.offset = pushOffset r) →
      Goes (.pushWrite r) s (respond s r stOk [])) ∧
    (pushTarget s r = none → (¬ ∃ x ∈ s.fe.push, x.queue = pushQueue r ∧ x.pushId = pushId r ∧ x.offset = pushOffset r) →
      pushHeld s (r.module.val / 16) < 65536 →
      Goes (.pushWrite r) s (respond { s with fe := { s.fe with push := s.fe.push ++
        [⟨pushQueue r, pushId r, pushOffset r, r.tenant, piece⟩] } } r stOk [])) ∧
    (pushTarget s r = none → (¬ ∃ x ∈ s.fe.push, x.queue = pushQueue r ∧ x.pushId = pushId r ∧ x.offset = pushOffset r) →
      65536 ≤ pushHeld s (r.module.val / 16) → Goes (.pushWrite r) s { s with fe := { s.fe with pushWait := s.fe.pushWait ++ [r] } })) ∧
  (∀ (s : State) (r : HostReq), reqAllowed s r = true → (planeQueue s.cfg.live (pushQueue r)).en = true →
    queueDie s.cfg.live (pushQueue r) = r.module.val / 16 → r.tenant ≠ (planeQueue s.cfg.live (pushQueue r)).tenant →
    Goes (.pushWrite r) s (respond s r stBounds [])) ∧
  (∀ (s : State) (q : Fin 256) (id : BitVec 16) (off : BitVec 20) (x : PushPiece),
    s.fe.push.find? (fun x => x.queue = q.val && x.pushId = id && x.offset = off) = some x →
    Goes (.pushOrphanTimeout q id off) s (admitPush (raiseEventFree { s with fe := { s.fe with push := s.fe.push.filter fun y => y ≠ x } }
      x.tenant.toNat evPushOrphan (BitVec.ofNat 64 q.val) 0)))

/-! ### Descriptors, records and the life of a command -/

/-- A queue that may fetch takes descriptor H from host-visible memory: H grows by one, and the operation joins those of the package
with the handle of R143, its failed check if it has one, and the pieces of the push buffer that are its own (R116, R127, R142); the room
that these leave lets waiting pieces in (R117). The read of the slot comes first, and an error that it finds may hold the fetch (R548, R557). -/
def Obligations.FetchTakesDescriptor : Prop :=
  (∀ (s : State) (q : Fin 256), canFetch s q.val = true → canFetch (reach s [(fetchAddr s q.val, 64)]) q.val = false →
    Goes (.descriptorFetch q) s (reach s [(fetchAddr s q.val, 64)])) ∧
  (∀ (s0 : State) (q : Fin 256), canFetch s0 q.val = true → let s := reach s0 [(fetchAddr s0 q.val, 64)]
    canFetch s q.val = true →
    ∃ (o : Op) (u : State), Goes (.descriptorFetch q) s0 (settle (admitPush u)) ∧
      o.handle = handleOf (planeQueue s.cfg.live q.val) (qOf s q.val).l (qOf s q.val).p (qOf s q.val).h ∧
      o.desc = BitVec.ofNat 512 (leNat (dRead s ((planeQueue s.cfg.live q.val).sqBase.toNat +
        64 * ((qOf s q.val).h.toNat % (planeQueue s.cfg.live q.val).sqEntries.toNat)) 64)) ∧
      o.tenant = (planeQueue s.cfg.live q.val).tenant ∧ o.number = (qOf s q.val).h ∧ o.phase = .waiting ∧ o.started = false ∧
      o.failed = firstFailure s (newOp s q.val o.desc) ∧
      o.pieces = (s.fe.push.filter (claims o)).foldl (fun l x => addPiece l x.offset.toNat x.data) [] ∧
      u.fe.push = s.fe.push.filter (fun x => !claims o x) ∧
      u.fe.ops.getLast? = some o ∧ (qOf u q.val).h = (qOf s q.val).h + 1 ∧ (qOf u q.val).p = (qOf s q.val).p ∧
      u.mem = s.mem ∧ u.syncs = s.syncs ∧ u.cfg = s.cfg ∧ u.step = s.step ∧ u.regs = s.regs)

/-- A completion record of 32 bytes is written where T stands in the ring while T - C is below CQ_ENTRIES, T grows by one and the
handle retires; with a full ring nothing is written and the operation stays Done (R128). A pending event record is written once the
ring has room (R158). -/
def Obligations.RecordsWritten : Prop :=
  (∀ (s : State) (h : Word) (o : Op), findOp s h = some o → o.phase = .done →
    (cqRoom s o.queue = true →
      Goes (.completionRecordWrite h) s (updOp (updQ (cplWrite s (planeQueue s.cfg.live o.queue).group.toNat
        (cqBase s o.queue + 32 * ((qOf s o.queue).t.toNat % (planeQueue s.cfg.live o.queue).cqEntries.toNat)) (recordBytes o))
        o.queue fun c => { c with t := c.t + 1 }) h fun x => { x with phase := .retired })) ∧
    (cqRoom s o.queue = false → ∃ t, Goes (.completionRecordWrite h) s t ∧ t.fe.ops = s.fe.ops ∧
      (qOf t o.queue).t = (qOf s o.queue).t ∧ (qOf t o.queue).cqStall = true)) ∧
  (∀ (s : State) (t : Fin 16) (code : BitVec 16) (e : EvtEntry), (ringOf s t.val).pending.find? (fun e => e.code = code) = some e →
    ringRoom s t.val = true →
    Goes (.eventRecordWrite t code) s (writeEvent (setRing s t.val { ringOf s t.val with
      pending := (ringOf s t.val).pending.filter fun x => x.code ≠ code }) t.val e)) ∧
  (∀ o : Op, (recordBytes o).length = 32)

/-- The end of an operation: with handles that name one operation each, the operation is Done with the status and results of its
work, or Retired at once under QUIET with ST_OK. -/
def Obligations.CompleteMakesDone : Prop :=
  ∀ (s : State) (o : Op) (r : Res), o ∈ s.fe.ops → o.phase = .running → (s.fe.ops.map (·.handle)).Nodup →
    ∃ o' ∈ (complete s o r).fe.ops, o'.handle = o.handle ∧ o'.desc = o.desc ∧
      o'.phase = (if dQuiet o.desc && r.status = stOk then .retired else .done) ∧
      o'.status = r.status ∧ o'.res0 = r.res0 ∧ o'.res1 = r.res1

/-- NOP and FENCE, WAIT and SIGNAL on a sync object: NOP is Done at once with ST_OK; a FENCE begins, and is Done when what it waits
for is; a WAIT whose condition holds is marked with the value that it met; a local SIGNAL adds or sets, and is Done. An addition
wraps modulo 2^64, a set replaces the value, and no other object changes (R151, R152). After a SIGNAL the plan player looks at the gates
of its gather windows (log 142). -/
def Obligations.SyncCommandsAct : Prop :=
  (∀ (s : State) (h : Word) (o : Op),
    (Ready s h opNop o → Goes (.nop h) s (complete (begun s h) o resOk)) ∧
    (Ready s h opFence o → Goes (.fence h) s (settle (begun s h))) ∧
    (Ready s h opWait o → waitHolds o (syncGet s (dField o.desc 24 2)) = true →
      Goes (.wait h) s (settle (updOp (begun s h) o.handle fun x => { x with met := some (syncGet s (dField o.desc 24 2)) }))) ∧
    (Ready s h opWait o → waitHolds o (syncGet s (dField o.desc 24 2)) = false → Goes (.wait h) s (settle (begun s h))) ∧
    (Ready s h opSignal o → signalFar s.cfg.live o.desc = false → dField o.desc 28 1 = 0 →
      Goes (.signal h) s (settle (slotGathers
        (complete (syncAdd (begun s h) (dField o.desc 24 2) (BitVec.ofNat 64 (dField o.desc 32 8))) o resOk)))) ∧
    (Ready s h opSignal o → signalFar s.cfg.live o.desc = false → dField o.desc 28 1 = 1 →
      Goes (.signal h) s (settle (slotGathers
        (complete (syncSet (begun s h) (dField o.desc 24 2) (BitVec.ofNat 64 (dField o.desc 32 8))) o resOk))))) ∧
  (∀ (s : State) (id : Nat) (v : DWord),
    syncGet (syncAdd s id v) id = BitVec.ofNat 64 ((syncGet s id).toNat + v.toNat) ∧ syncGet (syncSet s id v) id = v ∧
    (∀ k, k ≠ id → syncGet (syncAdd s id v) k = syncGet s k ∧ syncGet (syncSet s id v) k = syncGet s k) ∧
    (syncAdd s id v).mem.cells = s.mem.cells ∧ (syncAdd s id v).regs = s.regs ∧
    (syncAdd s id v).step = { s.step with collSeq := (syncAdd s id v).step.collSeq })

/-- When the TIMEOUT of a WAIT expires, the unit evaluates its condition once more. If the condition holds, the WAIT completes with
ST_OK. Otherwise it completes with ST_TIMEOUT (R154). -/
def Obligations.WaitTimeoutRule : Prop :=
  ∀ (s : State) (h : Word) (o : Op), findOp s h = some o → dOpcode o.desc = opWait → o.phase = .running → o.started = true →
    dField o.desc 28 4 ≠ 0 →
    (waitHolds o (syncGet s (dField o.desc 24 2)) = false →
      Goes (.waitTimeout h) s (complete s o { status := stTimeout, res1 := syncGet s (dField o.desc 24 2) })) ∧
    (waitHolds o (syncGet s (dField o.desc 24 2)) = true → (s.fe.ops.map (·.handle)).Nodup →
      ∃ t, Goes (.waitTimeout h) s t ∧ ∃ o' ∈ t.fe.ops, o'.handle = o.handle ∧ (o'.phase = .done ∨ o'.phase = .retired) ∧ o'.status = stOk)

/-! ### Registers -/

/-- A read that its requester may make answers with what the register shows; the read of a sync object's VALUE_LO latches the high
word, and the read of HUB_TEN_NUM_LO the high bits of the selected total, for that requester alone (R607, R731). -/
def Obligations.RegisterReads : Prop :=
  (∀ (s : State) (r : HostReq), ReadOk s (hostRequester r) r.addr.toNat →
    Goes (.regRd r) s (respond (regRead s (hostRequester r) r.addr.toNat).1 r stOk
      (leBytes 4 (regRead s (hostRequester r) r.addr.toNat).2.toNat))) ∧
  (∀ (s : State) (off : Word), ReadOk (newI3c s) .i3c off.toNat →
    ∃ t, Goes (.i3cRegRd off) s t ∧ t.units.i3c = ⟨leBytes 4 (regRead (newI3c s) .i3c off.toNat).2.toNat ++ [0], false⟩) ∧
  (∀ (s : State) (req : Requester) (k : BitVec 14), ReadOk s req (syncOff k.toNat 0) →
    Goes (.valueLoRead req k) s (answerRead (setLatch s req k.toNat ((syncGet s k.toNat >>> 32).setWidth 32)) req stOk
      ((syncGet s k.toNat).setWidth 32))) ∧
  (∀ (s : State) (req : Requester), ReadOk s req 0x1054 →
    Goes (.tenNumLoRead req) s (answerRead (setLatch s req totalEntry (word (selectedTotal s / 2 ^ 32))) req stOk
      (word (selectedTotal s)))) ∧
  (∀ (s : State) (req : Requester) (k : BitVec 14) (v : Word) (e : Nat) (req' : Requester), reqNumber req ≠ reqNumber req' → e < 2 ^ 16 →
    latchOf (setLatch s req k.toNat v) req' e = latchOf s req' e)

/-- A write that its requester may make stores the RW bits of a register that only holds them, and nothing else of the package
changes; the answer carries ST_OK. In the window of a sync object an ADD is a signal, a SET_LO changes no value and stages its word for the
requester, and a SET_HI sets the whole value from its word and the requester's staged low word, which is then cleared (R739). -/
def Obligations.RegisterWritesStore : Prop :=
  (∀ (s : State) (off : Nat) (v : Word) (f : Word × Word), plainReg off = some f →
    regGet (storeReg s off v (BitVec.allOnes 32)) off f.1 = (regGet s off f.1 &&& ~~~f.2) ||| (v &&& f.2) ∧
    (∀ o c, o ≠ off → regGet (storeReg s off v (BitVec.allOnes 32)) o c = regGet s o c)) ∧
  (∀ (s : State) (r : HostReq) (off : Nat), r.addr.toNat = off → off ∈ [0x00A0, 0x1000, 0x2004, 0x2018, 0x3024] →
    WriteOk s (hostRequester r) off →
    Goes (.regWr r) s (respond (storeReg s off (word (leNat (r.data.take 4))) (BitVec.allOnes 32)) r stOk [])) ∧
  (∀ (s : State) (off v : Word), off.toNat ∈ [0x00A0, 0x1000, 0x2004, 0x2018, 0x3024] → WriteOk (newI3c s) .i3c off.toNat →
    Goes (.i3cRegWr off v) s (answerWrite (storeReg (newI3c s) off.toNat v (BitVec.allOnes 32)) .i3c stOk)) ∧
  (∀ (s : State) (req : Requester) (k : BitVec 14) (v : Word),
    (WriteOk s req (syncOff k.toNat 0x08) →
      Goes (.syncAdd req k v) s (answerWrite (settle (syncAdd s k.toNat (v.setWidth 64))) req stOk)) ∧
    (WriteOk s req (syncOff k.toNat 0x0C) →
      Goes (.setLo req k v) s (answerWrite (setLatch s req (stagedEntry k.toNat) v) req stOk)) ∧
    (WriteOk s req (syncOff k.toNat 0x10) →
      ∃ t, Goes (.setHi req k v) s (answerWrite t req stOk) ∧ latchOf t req (stagedEntry k.toNat) = 0 ∧
        t = settle (syncSet (setLatch s req (stagedEntry k.toNat) 0) k.toNat (v ++ latchOf s req (stagedEntry k.toNat)))))

/-- A requester that is neither the owning tenant nor the control tenant reads 0 from a sync-object entry, with ST_BOUNDS, and its
writes have no effect, with ST_PRIV. An I3C command that Table 2 does not list answers 0xEE and does nothing (R729, R740). An access
to a die that the spine cannot reach waits; when its time is up it has had no effect, reads 0 and is answered ST_BUSY (R728). -/
def Obligations.RefusedRegisterAccesses : Prop :=
  (∀ (s : State) (m : Fin 64) (t : BitVec 4) (tag : BitVec 16) (k : BitVec 14) (v : Word),
    reqAllowed s (rspFor m t tag) = true → t ≠ planeSyncOwner s.cfg.live k.toNat → t ≠ s.cfg.live.control →
    Goes (.valueLoRead (.host m t tag) k) s (answerRead s (.host m t tag) stBounds 0) ∧
    Goes (.syncAdd (.host m t tag) k v) s (answerWrite s (.host m t tag) stPriv) ∧
    Goes (.setLo (.host m t tag) k v) s (answerWrite s (.host m t tag) stPriv) ∧
    Goes (.setHi (.host m t tag) k v) s (answerWrite s (.host m t tag) stPriv)) ∧
  (∀ (s : State) (bytes : List Byte), i3cKnown bytes = false →
    ∃ t, Goes (.i3cBadCommand bytes) s t ∧ t.units.i3c = ⟨[0xEE], false⟩ ∧ t.mem = s.mem ∧ t.regs = s.regs ∧ t.syncs = s.syncs ∧
      t.step = s.step ∧ t.fe.ops = s.fe.ops) ∧
  (∀ (s : State) (r : HostReq), readDenied s (hostRequester r) r.addr.toNat = none → dieLost s r.addr.toNat = true →
    Goes (.regRd r) s (waitReg s ⟨hostRequester r, r.addr.toNat, none⟩)) ∧
  (∀ (s : State) (req : Requester) (off : Word) (h : HeldReg),
    s.fe.heldReg.find? (fun h => h.req = req && h.offset = off.toNat) = some h →
    let u := { s with fe := { s.fe with heldReg := s.fe.heldReg.filter fun x => x ≠ h } }
    (h.value = none → Goes (.registerAccessTimeout req off) s (answerRead u req stBusy 0)) ∧
    (h.value ≠ none → Goes (.registerAccessTimeout req off) s (answerWrite u req stBusy)))

/-- CQ_HEAD takes the consumed count, which ends a stall that it gives room (R128). HUB_EVT_HEAD takes a value unless more than 256
records would then stand unconsumed (R771). CLEAR of HUB_TEN_NUM_SEL sets the four totals of the tenant to 0 (R610). -/
def Obligations.HeadsAndTotals : Prop :=
  (∀ (s : State) (req : Requester) (q : Fin 256) (v : Word), WriteOk s req (doorbellPage + 0x1000 * q.val + 8) →
    ∃ t, Goes (.cqHeadWrite req q v) s (answerWrite t req stOk) ∧ (qOf t q.val).c = v ∧ (qOf t q.val).t = (qOf s q.val).t ∧
      (qOf t q.val).p = (qOf s q.val).p ∧ (qOf t q.val).h = (qOf s q.val).h ∧
      (qOf t q.val).cqStall = ((qOf s q.val).cqStall && !cqRoom t q.val) ∧ (∀ q', q' ≠ q.val → qOf t q' = qOf s q')) ∧
  (∀ (s : State) (req : Requester) (t : Fin 16) (v : Word), WriteOk s req (0x10000 + t.val * 0x100 + 0x34) →
    (((ringOf s t.val).seq - v).toNat ≤ 256 →
      Goes (.evtHeadWrite req t v) s (answerWrite (setRing s t.val { ringOf s t.val with head := v }) req stOk)) ∧
    (256 < ((ringOf s t.val).seq - v).toNat → Goes (.evtHeadWrite req t v) s (answerWrite s req stOk))) ∧
  (∀ (s : State) (req : Requester) (v : Word), WriteOk s req 0x1050 →
    reqTenant s req = s.cfg.live.control ∨ (reqTenant s req).toNat = v.toNat % 16 → v.getLsbD 8 = true →
    ∃ t, Goes (.totalsClear req v) s (answerWrite t req stOk) ∧ nmGet? t.units.totals (v.toNat % 16) = none ∧
      regGet t 0x1050 0 = v &&& 0x3F ∧ ∀ k, k ≠ v.toNat % 16 → nmGet? t.units.totals k = nmGet? s.units.totals k)

/-- HUB_PACE_LIMITS takes a value whose FLOOR, CEIL and CAP_W obey its rules; any other write is ignored in whole and sets
HUB_CFG_STATUS.LIVE_PAIR_BAD (R191). -/
def Obligations.PaceLimitsRule : Prop :=
  ∀ (s : State) (req : Requester) (v : Word), WriteOk s req 0x3000 →
    (v.toNat % 256 ≤ v.toNat / 256 % 256 ∧ 100 ≤ v.toNat / 65536 % 1024 ∧ v.toNat / 65536 % 1024 ≤ 560 →
      ∃ t, Goes (.paceLimitsWrite req v) s (answerWrite t req stOk) ∧ regGet t 0x3000 0x0230FF1F = v &&& 0x03FFFFFF ∧ t.cfg = s.cfg ∧
        t.mem = s.mem) ∧
    (¬ (v.toNat % 256 ≤ v.toNat / 256 % 256 ∧ 100 ≤ v.toNat / 65536 % 1024 ∧ v.toNat / 65536 % 1024 ≤ 560) →
      ∃ t, Goes (.paceLimitsWrite req v) s (answerWrite t req stOk) ∧ t.regs = s.regs ∧ t.cfg.pairBad = true)

/-- LK fields: before the package is sealed HUB_LEAD_CFG takes its bit and HUB_CFG_MIN_SVN only rises; in a sealed package a write to
either is dropped, sets HUB_CFG_STATUS.LK_DROP and raises EV_LK_DROP to the control tenant (R192, R194). -/
def Obligations.LockedFields : Prop :=
  ∀ (s : State) (req : Requester) (v : Word),
    (WriteOk s req 0x3114 → s.cfg.isSealed = false →
      Goes (.lkWrite req v) s (answerWrite (regSet s 0x3114 (v &&& 1)) req stOk)) ∧
    (WriteOk s req 0x1C → s.cfg.isSealed = false → (regGet s 0x1C 0).toNat ≤ v.toNat →
      Goes (.minSvnWrite req v) s (answerWrite (regSet s 0x1C v) req stOk)) ∧
    (WriteOk s req 0x1C → v.toNat < (regGet s 0x1C 0).toNat → s.cfg.isSealed = false →
      Goes (.minSvnWrite req v) s (answerWrite s req stOk)) ∧
    (WriteOk s req 0x3114 → s.cfg.isSealed = true → ∃ t, Goes (.lkWrite req v) s (answerWrite t req stOk) ∧ t.cfg.lkDrop = true ∧
      regGet t 0x3114 0 = regGet s 0x3114 0) ∧
    (WriteOk s req 0x1C → s.cfg.isSealed = true → ∃ t, Goes (.minSvnWrite req v) s (answerWrite t req stOk) ∧ t.cfg.lkDrop = true ∧
      regGet t 0x1C 0 = regGet s 0x1C 0)

/-- An SH write changes the shadow plane and leaves the live one; DISCARD sets the shadow plane equal to the live plane and leaves
nothing staged; while a commit is past its checks both are held, and an SH write also while a CFG_STAGE runs (R175, R176, R187). -/
def Obligations.ShadowWrites : Prop :=
  ∀ (s : State) (req : Requester) (off v : Word),
    (s.cfg.wait = none → stageRunning s = false → shOffset off.toNat = true → WriteOk s req off.toNat →
      Goes (.shWrite req off v) s (answerWrite { s with cfg := { s.cfg with
        shadow := writeSh s.cfg.shadow off.toNat v, staged := true } } req stOk)) ∧
    (s.cfg.wait = none → WriteOk s req 0x10 → v.getLsbD 0 = true →
      Goes (.discard req v) s (answerWrite { s with cfg := { s.cfg with shadow := ownPlane s, staged := false, image := false } } req stOk)) ∧
    (s.cfg.wait.isSome = true ∨ stageRunning s = true → shOffset off.toNat = true → writeDenied s req off.toNat = none →
      ∃ t, Goes (.shWrite req off v) s t ∧ t.cfg.shadow = s.cfg.shadow ∧ t.cfg.heldWr = s.cfg.heldWr ++ [(req, off.toNat, v)] ∧
        t.fe = s.fe)

/-! ### Data movement -/

/-- COPY moves the bytes of its source unchanged to its destination, in either of S-space and local D-space (R58, R317); every other
byte of both memories is unchanged, and RESULT1 holds the byte count. -/
def Obligations.CopyMovesBytes : Prop :=
  ∀ (s : State) (h : Word) (o : Op) (bs : List Byte), Ready s h opCopy o → Groupless s → InTurn s h o → dEmpty o.desc = false →
    SourceIs s (dSrcSpace o.desc) (dSrc o.desc) (dCount o.desc) bs →
    DestOk s (dDstSpace o.desc) (dDst o.desc) (dCount o.desc) →
    ∃ u, Goes (.copy h) s (complete u o { status := stOk, res1 := BitVec.ofNat 64 (dCount o.desc) }) ∧
      Delivered s u (dDstSpace o.desc) (dDst o.desc) bs

/-- CONVERT decodes each element of its source and encodes it once into its destination (R325): the bytes and the counts are those of
`convertBytes`, everything else is unchanged, and RESULT1 holds the bytes written. -/
def Obligations.ConvertEncodes : Prop :=
  ∀ (s : State) (h : Word) (o : Op) (bs : List Byte), Ready s h opConvert o → Groupless s → InTurn s h o → dEmpty o.desc = false →
    SourceIs s (dSrcSpace o.desc) (dSrc o.desc) (operandBytes (dSfmt o.desc) (dCount o.desc)) bs →
    let c := convertBytes s o ⟨s, bs, [], 0⟩
    DestOk s (dDstSpace o.desc) (dDst o.desc) c.1.length →
    ∃ u, Goes (.convert h) s (complete u o { status := stOk, res1 := BitVec.ofNat 64 c.1.length, counts := c.2 }) ∧
      Delivered s u (dDstSpace o.desc) (dDst o.desc) c.1

/-- A COPY or CONVERT whose source lies on another package sends one SERVE frame that carries its descriptor, and waits; a COPY whose
destination lies on another package sends its data there as WRITE frames of one stream, and waits until they have landed; a SIGNAL of
a package's own sync object on another package goes as a zero-length FINAL frame (R137, R354, R776). -/
def Obligations.RemoteOperands : Prop :=
  (∀ (s : State) (h : Word) (o : Op) (pkg : BitVec 13) (a : Nat) (c : Instr),
    (c = .copy h ∧ Ready s h opCopy o) ∨ (c = .convert h ∧ Ready s h opConvert o) → Groupless s → InTurn s h o → dEmpty o.desc = false →
    dSrcSpace o.desc = 0 → sysAddr s.cfg.live (dSrc o.desc) = .there pkg a →
    let x := takeStream (begun s h) false
    Goes c s (settle (sendServe (updOp x.1 o.handle fun y =>
      { y with pull := true, remote := 1, stream := x.2.toNat, status := stOk, pieces := [], spoiled := [] })
      pkg o.tenant x.2 (leBytes 64 o.desc.toNat)))) ∧
  (∀ (s : State) (h : Word) (o : Op) (pkg : BitVec 13) (a : Nat), Ready s h opCopy o → Groupless s → InTurn s h o → dEmpty o.desc = false →
    dSrcSpace o.desc = 1 → dDstSpace o.desc = 0 → sysAddr s.cfg.live (dDst o.desc) = .there pkg a →
    let x := sendData (begun s h) (begunOp o) pkg a (sRead s (dSrc o.desc) (dCount o.desc)) stOk
    x.2 ≠ 0 → Goes (.copy h) s (settle (awaitLanding x.1 o.handle x.2
      { status := stOk, res1 := BitVec.ofNat 64 (sRead s (dSrc o.desc) (dCount o.desc)).length }))) ∧
  (∀ (s : State) (h : Word) (o : Op), Ready s h opSignal o → signalFar s.cfg.live o.desc = true → dField o.desc 32 8 < 2 ^ 32 →
    let x := takeStream (begun s h) true
    Goes (.signal h) s (settle (slotGathers (settle (awaitLanding (sendRouted (updOp x.1 o.handle fun y => { y with stream := x.2.toNat })
      { frameBlank s 0x01 (BitVec.ofNat 13 (dField o.desc 26 2)) with
        flags := 1, tenant := o.tenant, stream := x.2, group := BitVec.ofNat 14 (dField o.desc 24 2), sigAdd := BitVec.ofNat 32 (dField o.desc 32 8) } none) o.handle 1 resOk)))))

/-- TRANSPOSE_IN lays the elements of its source into P-space rows, lane by lane (R459, R461), and leaves D-space, S-space and every
other row as they were. -/
def Obligations.TransposeInLaysRows : Prop :=
  ∀ (s : State) (h : Word) (o : Op) (bs : List Byte), Ready s h opTransposeIn o → Groupless s → InTurn s h o → dEmpty o.desc = false →
    pimBusy s o.desc = false → SourceIs s (dSrcSpace o.desc) (dSrc o.desc) (operandBytes (dSfmt o.desc) (dCount o.desc)) bs →
    let els := (((chunks (fmtBits (dSfmt o.desc) / 8) bs).map leNat).take (dCount o.desc)).map
      (transposeInBits (dSfmt o.desc) (dField o.desc 49 1))
    let banks := transposeBanks (dDst o.desc) (dCount o.desc)
    ∃ u, Goes (.transposeIn h) s (complete u o { status := stOk, res1 := BitVec.ofNat 64 (1024 * banks.length * dField o.desc 49 1), counts := ⟨(els.map (·.2)).sum, 0, 0, 0⟩ }) ∧
      u.mem.prows = (layBanks (dDst o.desc) (dField o.desc 49 1) banks (chunks 8192 (els.map (·.1))) s).mem.prows ∧
      (∀ x, memGet u.mem.cells x = memGet s.mem.cells x) ∧ u.mem.scells = s.mem.scells ∧ u.syncs = s.syncs ∧ u.cfg = s.cfg

/-- TRANSPOSE_OUT writes the elements that P-space rows hold at its destination, as their format asks (R460). -/
def Obligations.TransposeOutReadsRows : Prop :=
  ∀ (s : State) (h : Word) (o : Op), Ready s h opTransposeOut o → Groupless s → InTurn s h o → dEmpty o.desc = false →
    pimBusy s o.desc = false → s.mem.pbad = [] → s.mem.flips = [] →
    let banks := transposeBanks (dSrc o.desc) (dCount o.desc)
    let raw := (banks.flatMap fun b => (List.range 8192).map fun l =>
      gatherElem s s.free (dSrc o.desc) (dField o.desc 49 1) b l).take (dCount o.desc)
    let els := raw.map (transposeOutBits (dDfmt o.desc) (dField o.desc 49 1))
    let bs := els.flatMap fun e => leBytes (fmtBits (dDfmt o.desc) / 8) e.1
    bs ≠ [] → DestOk s (dDstSpace o.desc) (dDst o.desc) bs.length →
    ∃ u, Goes (.transposeOut h) s (complete u o { status := stOk, res1 := BitVec.ofNat 64 bs.length, counts := ⟨(els.map (·.2)).sum, 0, 0, 0⟩ }) ∧
      Delivered s u (dDstSpace o.desc) (dDst o.desc) bs

/-- ZERO of a D-space range makes every byte of it 0 and no other (R474); ZERO of P-space clears every row of its stripes and no
other row (R476). -/
def Obligations.ZeroClears : Prop :=
  (∀ (s : State) (h : Word) (o : Op) (b : Nat), Ready s h opZero o → Groupless s → InTurn s h o → dEmpty o.desc = false → dDstSpace o.desc = 0 →
    sysAddr s.cfg.live (dDst o.desc) = .here b → PlainDst s b (dCount o.desc) → pimOnRange s b (dCount o.desc) = false →
    ((tileRuns s.cfg.live).flatMap fun r => coveredTiles r b (dCount o.desc)) = [] →
    ∃ u, Goes (.zero h) s (complete u o resOk) ∧ Delivered s u 0 (dDst o.desc) (List.replicate (dCount o.desc) 0)) ∧
  (∀ (s : State) (h : Word) (o : Op), Ready s h opZero o → Groupless s → InTurn s h o → dEmpty o.desc = false → dDstSpace o.desc = 2 →
    pimBusy s o.desc = false →
    let rows := (List.range (dCount o.desc / 49152)).flatMap fun k => (List.range 48).map fun b =>
      pAddr (dDst o.desc / 2 ^ 27) (dDst o.desc / 2 ^ 21 % 64) b (dDst o.desc % 2 ^ 15 + k)
    ∃ u, Goes (.zero h) s (complete u o resOk) ∧ (∀ a, pRow u a = if a ∈ rows then 0 else pRow s a) ∧
      u.mem.cells = s.mem.cells ∧ u.mem.scells = s.mem.scells)

/-- RNG_FILL writes COUNT values of its tenant's stream at its destination (R541). DRAW answers the index of the best key of its
scores and stores nothing (R543). INIT_PARAMS writes the committed slot of each named shard; while a sweep of one runs or its outcome
is not applied it ends with ST_BUSY and writes nothing (R235, R236). -/
def Obligations.RandomCommands : Prop :=
  (∀ (s : State) (h : Word) (o : Op), Ready s h opRngFill o → Groupless s → InTurn s h o → dEmpty o.desc = false → (fillBytes s o).1 ≠ [] →
    DestOk s (dDstSpace o.desc) (dDst o.desc) (fillBytes s o).1.length →
    ∃ u, Goes (.rngFill h) s (complete u o { status := stOk, counts := (fillBytes s o).2 }) ∧
      Delivered s u (dDstSpace o.desc) (dDst o.desc) (fillBytes s o).1) ∧
  (∀ (s : State) (h : Word) (o : Op) (bs : List Byte), Ready s h opDraw o → Groupless s → InTurn s h o → dEmpty o.desc = false →
    SourceIs s (dSrcSpace o.desc) (dSrc o.desc) (4 * dCount o.desc) bs →
    let scores := drawScores o ⟨s, bs, [], 0⟩
    let keys := drawKeys s o scores
    ∃ u, Goes (.draw h) s (complete u o { status := stOk, res0 := BitVec.ofNat 32 (bestKey ((List.zipIdx keys).map fun k => (k.2, k.1.w)) none), counts := ⟨0, (keys.map (·.fl)).sum, (scores.filter isNan32).length, 0⟩ }) ∧
      (∀ x, memGet u.mem.cells x = memGet s.mem.cells x) ∧ u.mem.scells = s.mem.scells ∧ u.mem.prows = s.mem.prows ∧
      u.syncs = s.syncs ∧ u.cfg = s.cfg) ∧
  (∀ (s : State) (h : Word) (o : Op), Ready s h opInitParams o →
    let l := commandShards s o
    ((∃ e ∈ l, outcomePending s e.1 = true) → Goes (.initParams h) s (complete (begun s h) o (resSt stBusy))) ∧
    let r := l.foldl (initShard o) (begun s h, countsZero)
    let fl := (presentParam (BitVec.ofNat 32 (dField o.desc 48 4))).fl + (presentParam (BitVec.ofNat 32 (dField o.desc 52 4))).fl
    ((∀ e ∈ l, outcomePending s e.1 = false ∧ writeHeld s none e.2.stateBase (stateBytes e.2) = false) →
      Goes (.initParams h) s (complete (serveHeld r.1) o
        { status := stOk, counts := countsAdd r.2 ⟨0, if l.all fun e => e.2.intKind then 0 else fl, 0, 0⟩ })))

/-! ### Accumulation and collectives -/

/-- The ticket rules of an accumulator tile (R141, R242, R243, R245): until its FINAL has been applied, an applied or held ticket is
refused with ST_TICKET, one above an accepted FINAL or a second FINAL with ST_BAD_FIELD, one 64 or more above the lowest unapplied ticket
waits. Once FINAL has been applied a contribution waits for the zeroing of the step that the tile belongs to (R44; that this moment is the
boundary is the model's choice, log 133), and is refused with ST_BAD_FIELD outside a step. -/
def Obligations.TicketRules : Prop :=
  ∀ (s : State) (tile k : Nat) (fin : Bool), let d := tileDyn s tile
    (hostDone d = false → k < d.next ∨ (∃ c ∈ d.held, c.ticket = k) → ticketCheck s tile k fin = .bad stTicket) ∧
    (d.final = none → d.next + 64 ≤ k → (∀ c ∈ d.held, c.ticket ≠ k) → ticketCheck s tile k fin = .wait) ∧
    (d.final = none → d.next ≤ k → k < d.next + 64 → (∀ c ∈ d.held, c.ticket ≠ k) → ticketCheck s tile k fin = .fine) ∧
    (∀ f, hostDone d = false → d.final = some f → d.next ≤ k → (∀ c ∈ d.held, c.ticket ≠ k) →
      ticketCheck s tile k fin = if f < k ∨ fin = true then .bad stBadField else .fine) ∧
    (hostDone d = true → ticketCheck s tile k fin = if stepTile s tile then .wait else .bad stBadField)

/-- ACCUM: a contribution that every tile takes enters the adders, one part a tile, and the command waits for them; one that a tile
refuses ends with that tile's status and enters none. TICKET_APPLY applies the lowest unapplied ticket of a tile, whatever the order in
which tickets came (R241), once its chunks have been read (R548): the bytes of the chunks that the contribution reaches become those of
the sums, and no other byte changes. One FP32 contribution is added with one rounding (R331); integers wrap, or saturate where the
contribution says so (R332). -/
def Obligations.AccumAndApply : Prop :=
  (∀ (s : State) (h : Word) (o : Op) (r : TileRun) (e : Nat), Ready s h opAccum o → Groupless s → InTurn s h o →
    (localAddr s.cfg.live (dDst o.desc)).bind (fun a => (tileRunAt s.cfg.live a).bind fun r => (accumFirst r a).map fun e => (r, e)) = some (r, e) →
    let tiles := (tileSplit r e (List.replicate (dCount o.desc) 0)).map (·.1)
    (∀ st, ticketChecks (begun s h) tiles (dTicket o.desc) (dBits o.desc 38 0 1 = 1) = .bad st →
      Goes (.accum h) s (complete (begun s h) o (resSt st))) ∧
    (ticketChecks (begun s h) tiles (dTicket o.desc) (dBits o.desc 38 0 1 = 1) = .fine → dEmpty o.desc = false → dSrcSpace o.desc = 1 →
      let bs := sRead s (dSrc o.desc) (operandBytes (dSfmt o.desc) (dCount o.desc))
      let els := accumElems r.fmt o (r.elems - e) ⟨begun s h, bs, [], 0⟩
      let parts := tileSplit r e els.1
      accumRoom (begun s h) (dTicket o.desc) parts = true →
      Goes (.accum h) s (settle (acceptAccum o (dBits o.desc 38 0 1 = 1) (dBits o.desc 38 1 1 = 1) parts
        (updOp (begun s h) o.handle fun y => { y with status := stOk, counts := countsAdd y.counts ⟨0, els.2, 0, 0⟩ }))))) ∧
  (∀ (s : State) (tile : BitVec 44) (r : TileRun) (c : Contribution), tileRunAt s.cfg.live tile.toNat = some r →
    (tile.toNat - r.base) % accTileBytes r.fmt = 0 → contribGroup s tile.toNat c = none →
    writeHeld s none (contribRange tile.toNat r.fmt c).1 (contribRange tile.toNat r.fmt c).2 = false →
    hostDone (tileDyn s tile.toNat) = false → (tileDyn s tile.toNat).held.find? (fun c => c.ticket = (tileDyn s tile.toNat).next) = some c →
    let u := updTile (readParts s tile.toNat r.fmt [c]) tile.toNat fun d => { d with
      next := d.next + 1, held := d.held.filter fun x => !([c].contains x), plan := d.plan.filter fun x => !([c].contains x) }
    let v := advanceTile (applyOne tile.toNat r.fmt u c) tile.toNat
    Goes (.ticketApply tile) s (settle (if tileReduced v tile.toNat then freeAdder v tile.toNat (accTileBytes r.fmt) else v)) ∧
    (NoFailed s → s.mem.poison = [] → Laid s.mem.cells (applyOne tile.toNat r.fmt u c).mem.cells (contribRange tile.toNat r.fmt c).1
      (contribBytes s none tile.toNat r.fmt c).1)) ∧
  (∀ a x : Nat, (addElem 0 false false a x).1 = (fAdd (BitVec.ofNat 32 a) (BitVec.ofNat 32 x)).w.toNat) ∧
  (∀ a x : Nat, a < 2 ^ 32 → x < 2 ^ 64 → (addElem 0x20 false false a x).1 = (a + x) % 2 ^ 32) ∧
  (∀ a x : Nat, a < 2 ^ 64 → x < 2 ^ 64 → (addElem 0x21 false false a x).1 = (a + x) % 2 ^ 64) ∧
  (∀ a x : Nat, a < 2 ^ 31 → x < 2 ^ 31 → 2 ^ 31 ≤ a + x → (addElem 0x20 false true a x).1 = 2 ^ 31 - 1)

/-- A collective command takes the next number of its tenant and plan, modulo 2^32, as it enters Running, and joins the collective commands
with that number; it enters work if no earlier one of the same tenant and plan is short of Done (R777). -/
def Obligations.CollectiveNumbers : Prop :=
  (∀ (s : State) (o : Op), o ∈ s.fe.ops → o.phase = .waiting → isColl o = true →
    collCount (enterRunning s o) o.tenant (dCplan o.desc) = (collCount s o.tenant (dCplan o.desc) + 1) % 2 ^ 32 ∧
    (∃ x ∈ (enterRunning s o).fe.ops, x.handle = o.handle ∧ x.phase = .running ∧ x.collNo = collCount s o.tenant (dCplan o.desc)) ∧
    (enterRunning s o).mem = s.mem ∧ (enterRunning s o).syncs = s.syncs) ∧
  (∀ (s : State) (h : Word) (o : Op) (c : Instr),
    (c = .reduce h ∧ Ready s h opReduce o ∧ dEmpty o.desc = false) ∨
      (c = .gather h ∧ Ready s h opGather o ∧ dEmpty o.desc = false ∧ InTurn s h o) ∨
      (c = .norm h ∧ Ready s h opNorm o ∧ dCplan o.desc ≠ allShards ∧ InTurn s h o) → Groupless s →
    ∃ (u : State) (x : CollRun), Goes c s (settle (beginColl u o.handle)) ∧ u.step.colls = s.step.colls ++ [x] ∧ x.handle = o.handle ∧
      x.tenant = o.tenant ∧ x.plan = dCplan o.desc ∧ x.number = o.collNo ∧ x.begun = false ∧ u.mem = s.mem ∧ u.syncs = s.syncs) ∧
  (∀ (s : State) (h : Word) (x : CollRun) (cp : CPlan) (o : Op), s.step.colls.find? (fun c => c.handle = h) = some x → x.begun = false →
    collWaits s x = false → s.hz.drop.dropped = false → nmGet? s.cfg.live.cplans x.plan = some cp → findOp s h = some o →
    dOpcode o.desc = opReduce →
    let y := takeStream s false
    Goes (.collectiveStart h) s (settle (beginReduce (updOp y.1 h fun z => { z with stream := y.2.toNat }) x cp))) ∧
  (∀ (s : State) (h : Word) (x : CollRun), s.step.colls.find? (fun c => c.handle = h) = some x → collWaits s x = true →
    Goes (.collectiveStart h) s (settle s))

/-- NORM without a plan answers the root of its local sum of squares and its largest magnitude, taken over parts of 4,096 elements in
their fixed order, and stores nothing (R772). -/
def Obligations.NormIsLocal : Prop :=
  ∀ (s : State) (h : Word) (o : Op) (bs : List Byte), Ready s h opNorm o → Groupless s → InTurn s h o → dCplan o.desc = allShards → dEmpty o.desc = false →
    o.empty = false → SourceIs s (dSrcSpace o.desc) (dSrc o.desc) (operandBytes (dSfmt o.desc) (dCount o.desc)) bs →
    let r := normTriple o ⟨s, bs, [], 0⟩
    ∃ u, Goes (.norm h) s (complete u o (normRes r.1 stOk r.2)) ∧ (∀ x, memGet u.mem.cells x = memGet s.mem.cells x) ∧
      u.mem.scells = s.mem.scells ∧ u.syncs = s.syncs ∧ u.cfg = s.cfg ∧ u.step = s.step

/-! ### Sweeps and commits -/

/-- SWEEP_SPEC of one CLEAN shard starts its sweep with S0 = 1.0 and leaves it SWEEPING; SWEEP_REDO of a CLEAN dual-slot shard starts
one with S0 = c and leaves it REDOING; both wait for the sweep. A single shard in another state gives ST_BUSY and changes nothing
(R272). -/
def Obligations.SweepCommandsStart : Prop :=
  ∀ (s : State) (h : Word) (o : Op) (n : Nat) (c : ShardCfg), namedShards s.cfg.live o.tenant (dShard o.desc) = [(n, c)] →
    dShard o.desc ≠ allShards → drivenByRun s n = false →
    (Ready s h opSweepSpec o → (shardDyn s n).st = .clean → sweepOf s n = none → masterFresh (begun s h) n c = false → capMode c = false →
      Goes (.sweepSpec h) s (settle (startSweep (begun s h) ⟨n, false, fpOne, none, BitVec.ofNat 64 (dStepNo o.desc), .command o.handle,
        false, false, false, [], none, false, false⟩ .sweeping))) ∧
    (Ready s h opSweepRedo o → (shardDyn s n).st = .clean → sweepOf s n = none → masterFresh (begun s h) n c = false → capMode c = false →
      Goes (.sweepRedo h) s (settle (startSweep (begun s h) ⟨n, true, BitVec.ofNat 32 (dField o.desc 40 4), none,
        BitVec.ofNat 64 (dStepNo o.desc), .command o.handle, false, false, false, [], none, false, false⟩ .redoing))) ∧
    (Ready s h opSweepSpec o → (shardDyn s n).st ≠ .clean → Goes (.sweepSpec h) s (complete (begun s h) o (resSt stBusy))) ∧
    (Ready s h opSweepRedo o → (shardDyn s n).st ≠ .clean → (shardDyn s n).st ≠ .written →
      Goes (.sweepRedo h) s (complete (begun s h) o (resSt stBusy)))

/-- COMMIT of a WRITTEN or READY dual-slot shard whose inactive header holds its STEP_NO flips the epoch bit and leaves the shard
CLEAN; with another STEP_NO it ends with ST_BAD_FIELD and flips nothing (R252, R273). ABORT of a shard that no sweep runs on leaves it
CLEAN with its epoch bit as it was (R272). -/
def Obligations.CommitAndAbort : Prop :=
  ∀ (s : State) (h : Word) (o : Op) (n : Nat) (c : ShardCfg), namedShards s.cfg.live o.tenant (dShard o.desc) = [(n, c)] →
    nmGet? s.cfg.live.shards n = some c → drivenByRun s n = false → sweepOf s n = none → capMode c = false →
    (Ready s h opCommit o → commitsStopped s = false → (shardDyn s n).st = .written ∨ (shardDyn s n).st = .ready →
      (headerStep s c (inactiveSlot s n c) = dStepNo o.desc → ∃ u, Goes (.commit h) s (complete (serveHeld u) o resOk) ∧
        (shardDyn u n).epoch = !(shardDyn s n).epoch ∧ (shardDyn u n).st = .clean ∧ (∀ k, k ≠ n → shardDyn u k = shardDyn s k) ∧ u.mem = s.mem) ∧
      (headerStep s c (inactiveSlot s n c) ≠ dStepNo o.desc → Goes (.commit h) s (complete (begun s h) o (resSt stBadField)))) ∧
    (Ready s h opAbort o → ∃ u, Goes (.abort h) s (complete u o resOk) ∧ (shardDyn u n).epoch = (shardDyn s n).epoch ∧
      (shardDyn u n).st = .clean)

/-- A run's speculative sweep starts once every tile of a CLEAN shard is reduced, with S0 = 1.0 (R254), unless it is guest work that waits
(R597). A sweep that is complete on every tile of a one-pass shard writes its last pass; one ordered to stop ends at a tile boundary, each
UE with the tiles of its own that it has come to (R42, R213, R251). An error that its reads find may hold it, or stop it (R548, R557). -/
def Obligations.SweepsRun : Prop :=
  (∀ (s : State) (n : BitVec 16) (r : StepRun) (c : ShardCfg), runOf s n.toNat = some r → nmGet? s.cfg.live.shards n.toNat = some c →
    s.units.acorns.fatal = false → haltedPackage s = false → guestHeld s n.toNat = false → (shardDyn s n.toNat).st = .clean → sweepOf s n.toNat = none → n.toNat ∉ r.held → r.flipped = false →
    sweepAllowed r c = true → (∀ t < tileCount c, tileReduced s (accAddr c t) = true) → masterFresh s n.toNat c = false →
    ∃ w, Goes (.speculativeSweep n) s (runSweep s r.handle w .sweeping) ∧ w.shard = n.toNat ∧ w.c = fpOne ∧ w.redo = false ∧ w.by_ = .run r.handle ∧
      w.stepNo = r.stepNo ∧ (shardDyn (runSweep s r.handle w .sweeping) n.toNat).st = .sweeping ∧
      (shardDyn (runSweep s r.handle w .sweeping) n.toNat).epoch = (shardDyn s n.toNat).epoch) ∧
  (∀ (s : State) (n : BitVec 16) (w : SweepRec) (c : ShardCfg), sweepOf s n.toNat = some w → nmGet? s.cfg.live.shards n.toNat = some c →
    (w.stop = false → sweepHeld s w c = false → drivenByRun s n.toNat = false ∨ guestHeld s n.toNat = false →
      let v := reach s (sweepReads s w c (List.range (tileCount c)))
      (∀ x, sweepOf v n.toNat = some x → x.stop = false → sweepHeld v x c = false → twoPass (programOf v.cfg.live c) = false →
        Goes (.sweepComplete n) s (settle (serveHeld (lastPass v x c)))) ∧
      ((∀ x, sweepOf v n.toNat = some x → x.stop = true ∨ sweepHeld v x c = true) → Goes (.sweepComplete n) s (settle v))) ∧
    (∀ swept : List (Fin 320 × Nat), let ts := stopTiles s w c (swept.map fun x => (x.1.val, x.2))
      let v := reach s (sweepReads s w c ts)
      w.stop = true → ts = [] ∨ tilesHeld s w c ts = false →
      (∀ x, sweepOf v n.toNat = some x → ts = [] ∨ tilesHeld v x c ts = false → Goes (.sweepStop n swept) s (settle (serveHeld (stopSweep v x c ts)))) ∧
      (capMode c = false → w.pass1 = false → ∀ t ∈ ts, ∀ u < t, tileUe s c u = tileUe s c t → u ∈ ts)))

/-- PLAN_RUN joins the runs and drives its shards from then on (R775); PLAN_RUN_START begins the step of a run that no earlier one
holds back, while no further dropout halts the package (R196); PLAN_RUN_DONE ends a run whose accumulators are zeroed and whose sync object is signalled, with its outcome (R271). -/
def Obligations.PlanRunLife : Prop :=
  (∀ (s : State) (h : Word) (o : Op), Ready s h opPlanRun o → s.hz.drop.dropped = false →
    ∃ (r : StepRun) (u : State), Goes (.planRun h) s (settle u) ∧ u.step.runs = s.step.runs ++ [r] ∧ r.handle = o.handle ∧
      r.tenant = o.tenant ∧ r.plan = dField o.desc 24 4 ∧ r.stepNo = BitVec.ofNat 64 (dStepNo o.desc) ∧ r.started = false ∧ r.verdict = none ∧
      u.mem = s.mem ∧ u.syncs = s.syncs) ∧
  (∀ (s : State) (h : Word) (r : StepRun) (g : StepPlan), runBy s h = some r → runPlan s r = some g → r.started = false →
    earlierRuns s r = false → outlivedBy s r = false → s.units.acorns.fatal = false → haltedPackage s = false →
    (∀ n ∈ g.shards, (shardDyn s n).st = .clean ∨ (shardDyn s n).st = .held) → Goes (.planRunStart h) s (settle (beginStep s r g))) ∧
  (∀ (s : State) (h : Word) (r : StepRun), runBy s h = some r → r.zeroed = true → r.signalled = true →
    Goes (.planRunDone h) s (settle (endRun s r stOk (runOutcome r))))

/-- The verdict of a step is decided by the first rule of Table 2 that applies, and a package triple enters the norm tree only when
every shard triple is formed and no comparison is outstanding (R257, R258, R573). -/
def Obligations.VerdictAndTriple : Prop :=
  (∀ (s : State) (t : Fin 16) (r : StepRun) (g : StepPlan) (x : Triple),
    s.step.runs.find? (fun r => r.tenant = BitVec.ofNat 4 t.val && r.started && !r.entered && r.verdict.isNone) = some r →
    runPlan s r = some g → comparing s (BitVec.ofNat 4 t.val) = false → s.hz.drop.dropped = false → packageTriple s g = some x →
    Goes (.packageTripleEntry t) s (settle (enterTriple s r g x)) ∧
    (g.norm = none → enterTriple s r g x = deliverVerdict (updRun s r.handle fun r => { r with entered := true }) r.handle
      (verdictOf g (nmGet 0 s.step.noSkip r.plan) r.stepNo x))) ∧
  (∀ (g : StepPlan) (k : Nat) (n : DWord) (x : Triple), x.nf = true → (verdictOf g k n x).outcome = 2) ∧
  (∀ (g : StepPlan) (k : Nat) (n : DWord) (x : Triple), (verdictOf g k n x).outcome = 0 → (verdictOf g k n x).clip = fpOne)

/-- At the commit of a step the commit record is written and every WRITTEN or READY shard flips (R262, R263). A layer's gather flip
swaps the two copies of its buffer (R45). The zeroing, which waits until every tile of the step is reduced (R246), makes every byte of the
step's tiles 0 and changes no other (R43). While commits stand still no
shard flips (R299). -/
def Obligations.CommitFlipZero : Prop :=
  (∀ (s : State) (t : Fin 16) (r : StepRun) (g : StepPlan), commitsStopped s = false → committable s (BitVec.ofNat 4 t.val) = some r →
    runPlan s r = some g →
    Goes (.commitFlip t) s (settle (serveHeld (commitRun s r g))) ∧
    (commitRun s r g).step.commits = s.step.commits ++ [⟨r.tenant, r.stepNo, runOutcome r⟩]) ∧
  (∀ (s : State) (t : Fin 16), commitsStopped s = true → Goes (.commitFlip t) s s) ∧
  (∀ (s : State) (t : Fin 16) (k : Nat) (r : StepRun) (g : StepPlan) (l : StepLayer),
    s.step.runs.find? (fun r => r.tenant = BitVec.ofNat 4 t.val && r.flipped && !r.gathered.contains k &&
      (match runPlan s r with | some g => (match g.layers[k]? with | some l => gatherDone s r k l | none => false) | none => false)) = some r →
    runPlan s r = some g → g.layers[k]? = some l →
    ∃ u, Goes (.gatherFlip t k) s (settle u) ∧ copy1Active u l.buffer = !copy1Active s l.buffer ∧ u.mem.cells = s.mem.cells) ∧
  (∀ (s : State) (t : Fin 16) (r : StepRun) (g : StepPlan), let v := settle (settleSkips (BitVec.ofNat 4 t.val) s)
    zeroable v (BitVec.ofNat 4 t.val) = some r → runPlan v r = some g → (∀ x ∈ stepTiles v.cfg.live g, accessHeld v x.1 x.2 = false) →
    Goes (.accumulatorZeroing t) s (settle (updRun (zeroTiles v (stepTiles v.cfg.live g)) r.handle fun r => { r with zeroed := true })) ∧
    (∀ x ∈ stepTiles v.cfg.live g, tileReduced v x.1 = true)) ∧
  (∀ (s : State) (l : List (Nat × Nat)), NoFailed s → s.mem.poison = [] →
    (∀ x ∈ l, ∀ b, x.1 ≤ b → b < x.1 + x.2 → memGet (zeroTiles s l).mem.cells b = 0) ∧
    (∀ b, (∀ x ∈ l, b < x.1 ∨ x.1 + x.2 ≤ b) → memGet (zeroTiles s l).mem.cells b = memGet s.mem.cells b))

/-- A UE fault takes the UE out of service, counts it for its die and leaves every other UE as it was (R205); one that leaves a die with work
without a UE in service makes the package drop out (R214). A dispatch turns an engine to a tenant's work and changes no value (R49, R596): it
counts as one of the tenant's turns, and a tenant whose turns of the round are over does not take an engine that another with turns left
needs. -/
def Obligations.EngineFaultsAndDispatch : Prop :=
  (∀ (s : State) (ue : Fin 320) (residue : Bool), s.units.ues.avail.getLsbD ue.val = true →
    (∃ d < 6, dieSweeps s.cfg.live d = true ∧ ∀ k ∈ dieUes d, k ≠ ue.val → s.units.ues.avail.getLsbD k = false) →
    ∃ t, Goes (.ueFault ue residue) s t ∧ t.hz.drop.dropped = true) ∧
  (∀ (s : State) (ue : Fin 320) (residue : Bool), s.units.ues.avail.getLsbD ue.val = true →
    (∀ d < 6, dieSweeps s.cfg.live d = true → ∃ k ∈ dieUes d, k ≠ ue.val ∧ s.units.ues.avail.getLsbD k = true) →
    ∃ t, Goes (.ueFault ue residue) s t ∧ t.units.ues.avail.getLsbD ue.val = false ∧
      (∀ k < 320, k ≠ ue.val → t.units.ues.avail.getLsbD k = s.units.ues.avail.getLsbD k) ∧
      nmGet (0, 0, false) t.units.ues.faults (ueDie ue.val) =
        (min 0xFFFF ((nmGet (0, 0, false) s.units.ues.faults (ueDie ue.val)).1 + 1), ue.val, residue) ∧
      t.mem = s.mem ∧ t.step = s.step) ∧
  (∀ (s : State) (e : Engine) (k : Fin 16), let t := BitVec.ofNat 4 k.val
    let v := settle (slotGathers s)
    let y := yieldEngine v e t
    engineFor v e t = true → v.units.acorns.fatal = false → guestWaits y t (stepNeeds y e) = false →
    (y.mem.cells = v.mem.cells ∧ y.mem.scells = v.mem.scells ∧ y.cfg = v.cfg ∧ y.step = { v.step with phases := y.step.phases }) ∧
    ((turnsDone y e t && rivalTurn y e t) = true → Goes (.phaseDispatch e k) s y) ∧
    ((turnsDone y e t && rivalTurn y e t) = false → Goes (.phaseDispatch e k) s (takeTurn y e t) ∧ (e, t) ∈ (takeTurn y e t).step.phases ∧
      turnsOf (takeTurn y e t) e t = if turnsDone y e t then 1 else turnsOf y e t + 1))

/-! ### Digests and repairs -/

/-- DIGEST recomputes its shard's tile digests, reports in RESULT0 how many stored ones were stale and in RESULT1 the new root (R579,
R580); a comparison that finds every member alike changes nothing but that it is no longer due (R569). A due repair whose next source
answers clean writes the tile; when no source has it clean the shard halts (R575, R578). REPAIR writes the tiles it names (R581). A value
is the majority only if more than half of the members hold it, so there is at most one (R572). A recomputation reads first, as every reader
does (R548). -/
def Obligations.DigestsAndRepairs : Prop :=
  (∀ (s : State) (h : Word) (o : Op) (c : ShardCfg) (ans : List MemberDigest), Ready s h opDigest o →
    nmGet? s.cfg.live.shards (dShard o.desc) = some c → dField o.desc 28 1 ≠ 1 →
    let n := dShard o.desc
    let v := reachFree (begun s h) (digestRanges (begun s h) (begunOp o))
    digestOpen v n c = true →
    let u := recomputeSlot v n c (committedDigest v n c)
    Goes (.digest h ans) s (complete u o (digestRes u { o with res0 := BitVec.ofNat 32 (staleTiles v n c).length } n c))) ∧
  (∀ (s : State) (n : BitVec 16) (c : ShardCfg) (ans : List MemberDigest), nmGet? s.cfg.live.shards n.toNat = some c →
    s.step.compares.contains n.toNat = true → viewOpen s n.toNat c = true →
    let v := reachFree s (digestReads s n.toNat c)
    digestOpen v n.toNat c = true →
    let u := { v with step := { v.step with compares := v.step.compares.filter fun x => x ≠ n.toNat } }
    let cmp := compared u c (storedDigests u c (committedDigest u n.toNat c)) ans
    (∀ l ∈ cmp, ∀ k ∈ cmp, l.2 = k.2) → Goes (.digestComparison n ans) s (settle u)) ∧
  (∀ (s : State) (n : BitVec 16) (t : Nat) (d : RepairData) (c : ShardCfg) (m : BitVec 13) (rest : List (BitVec 13)),
    nmGet? s.cfg.live.shards n.toNat = some c → s.units.integ.repairs.contains (n.toNat, t) = true →
    repairSources s n.toNat c t = m :: rest → d.source = m →
    (d.poisoned = false → Goes (.tileRepair n t d) s (afterRepair (raiseCompared (repairOver (writeRepair s n.toNat c t d) n.toNat t)
      n.toNat c.tenant.toNat evRepaired (BitVec.ofNat 64 (t % 2 ^ 32 + d.source.toNat * 2 ^ 32))) n.toNat)) ∧
    (d.poisoned = true → rest ≠ [] → Goes (.tileRepair n t d) s (dueRepairFrom s n.toNat t rest)) ∧
    (d.poisoned = true → rest = [] → Goes (.tileRepair n t d) s (afterRepair (noSource s n.toNat c t) n.toNat) ∧
      (shardDyn (noSource s n.toNat c t) n.toNat).halted = true)) ∧
  (∀ (s : State) (h : Word) (o : Op) (c : ShardCfg) (data : List RepairData), Ready s h opRepair o →
    nmGet? s.cfg.live.shards (dShard o.desc) = some c → runOf s (dShard o.desc) = none →
    let n := dShard o.desc
    let tiles := if dField o.desc 28 4 = allShards then List.range (tileCount c) else [dField o.desc 28 4]
    data.length = tiles.length → (∀ d ∈ data, d.source.toNat = dField o.desc 32 2) →
    ((∀ d ∈ data, d.stepNo.toNat = headerStep (begun s h) c (committedSlot (begun s h) n c)) → (∀ d ∈ data, d.poisoned = false) →
      Goes (.repair h data) s (complete (serveHeld ((tiles.zip data).foldl (fun s x => writeRepair s n c x.1 x.2) (begun s h))) o resOk)) ∧
    ((∃ d ∈ data, d.stepNo.toNat ≠ headerStep (begun s h) c (committedSlot (begun s h) n c)) →
      Goes (.repair h data) s (complete (begun s h) o (resSt stBadField)))) ∧
  (∀ (l : List DWord) (v w : DWord), majority l = some v →
    l.length < 2 * (l.filter fun x => x = v).length ∧ (l.length < 2 * (l.filter fun x => x = w).length → w = v))

/-! ### Activation streams and snapshots -/

/-- ACT_STORE writes the stream of its converted elements (R511, R514), ACT_LOAD the elements of a stream that passes its checks (R518,
R519), SNAPSHOT the header and data of a shard's committed view (R520, R521); each reports the bytes it wrote, and every other byte of
both memories is unchanged. A stream that fails a check is not stored. -/
def Obligations.StreamsAndSnapshots : Prop :=
  (∀ (s : State) (h : Word) (o : Op) (bs : List Byte), Ready s h opActStore o → Groupless s → InTurn s h o → dEmpty o.desc = false →
    actBound (dDfmt o.desc) (dCount o.desc) ≤ dField o.desc 56 8 →
    SourceIs s (dSrcSpace o.desc) (dSrc o.desc) (operandBytes (dSfmt o.desc) (dCount o.desc)) bs →
    let c := actConvert (dSfmt o.desc) (dDfmt o.desc) (dCount o.desc) fpOne ⟨s, bs, [], 0⟩
    let st := actStream (dDfmt o.desc) (dField o.desc 50 1) (dCount o.desc) c.1
    DestOk s 0 (dDst o.desc) st.1.length →
    ∃ u, Goes (.actStore h) s (complete u o { status := stOk, res1 := BitVec.ofNat 64 st.1.length, counts := c.2 }) ∧
      Delivered s u 0 (dDst o.desc) st.1) ∧
  (∀ (s : State) (h : Word) (o : Op) (bs : List Byte), Ready s h opActLoad o → Groupless s → InTurn s h o → dEmpty o.desc = false →
    SourceIs s 0 (dSrc o.desc) (dField o.desc 56 8) bs →
    let a := actHead (padTo 64 0 (bs.take 64))
    let entries := actEntries bs a.pages
    (actCheck a entries (dSfmt o.desc) (dCount o.desc) (dField o.desc 56 8) false = none →
      let r := actRebuild (actUnit a.fmt) entries ((bs.map fun b => (b, false)).drop (64 + actTable a.pages)) s
      let c := actConvert (dSfmt o.desc) (dDfmt o.desc) (dCount o.desc) fpOne ⟨s, (r.2.take a.encoded).map (·.1), [], 0⟩
      r.1 = s → DestOk s (dDstSpace o.desc) (dDst o.desc) c.1.length →
      ∃ u, Goes (.actLoad h) s (complete u o { status := stOk, res1 := BitVec.ofNat 64 c.1.length, counts := c.2 }) ∧
        Delivered s u (dDstSpace o.desc) (dDst o.desc) c.1) ∧
    (∀ st, actCheck a entries (dSfmt o.desc) (dCount o.desc) (dField o.desc 56 8) false = some st →
      ∃ u, Goes (.actLoad h) s (endAway u o (resSt st)) ∧ (∀ x, memGet u.mem.cells x = memGet s.mem.cells x) ∧
        u.mem.scells = s.mem.scells)) ∧
  (∀ (s : State) (h : Word) (o : Op) (n : Nat) (c : ShardCfg), Ready s h opSnapshot o → Groupless s → InTurn s h o →
    snapShards s.cfg.live o = [(n, c)] → viewOpen (begun s h) n c = true →
    (∀ x ∈ snapReads (begun s h) n c (dField o.desc 28 1), PlainSrc s x.1 x.2) →
    let x := snapOne o (begun s h) n c
    DestOk s 0 (dDst o.desc) x.2.1.length →
    ∃ u, Goes (.snapshot h) s (complete u o { status := stOk, res1 := BitVec.ofNat 64 (snapLength s.cfg.live o), counts := x.2.2.1 }) ∧
      Delivered s u 0 (dDst o.desc) x.2.1)

/-! ### Programs in the sense amplifiers, and the capacity tier -/

/-- PIM_RUN starts on its channels together (R456, R458); ATOM_COMPLETE performs the words of one whole atom in order and reads every
source before it writes a row (R450, R453, R466); YIELD_TIMEOUT asks a channel to return at its next atom boundary (R463). No word of a
program changes D-space, S-space, a sync object or the configuration. -/
def Obligations.RowPrograms : Prop :=
  (∀ (s : State) (h : Word) (o : Op), Ready s h opPimRun o → pimChannels o.desc ≠ [] → s.units.acorns.fatal = false →
    (∀ c ∈ pimChannels o.desc, nmGet? s.units.pips.runs c = none ∧ (chanOf s c).retrain = false ∧ c ∉ s.units.margin) →
    ∃ u, Goes (.pimRun h) s (settle (pimOver u o.handle)) ∧ u.mem = s.mem ∧ u.syncs = s.syncs ∧ u.cfg = s.cfg ∧
      ∀ c ∈ pimChannels o.desc, (chanOf s c).failed = false → ∃ b, nmGet? u.units.pips.runs c = some ⟨o.handle, 0, b⟩) ∧
  (∀ (s : State) (c : Fin 256) (r : PipRun) (o : Op), nmGet? s.units.pips.runs c.val = some r → findOp s r.handle = some o →
    heatWait s c.val = false → (chanOf s c.val).retrain = false → s.units.acorns.fatal = false →
    let u := setProc (updPips { s with free := s.free + 1 } fun p => { p with waits := nmErase p.waits c.val }) c.val true
    let l := nextAtom s r
    let a := l.foldl (pipWord (pimEnv o.desc c.val s.free)) ⟨u, [], false⟩
    Goes (.atomComplete c) s (afterAtom a.s c.val r l.length a.bad)) ∧
  (∀ (s : State) (c : Fin 256) (r : PipRun), nmGet? s.units.pips.runs c.val = some r → s.units.proc.contains c.val = true →
    Goes (.yieldTimeout c) s (updPips s fun p => { p with yields := insertNat c.val p.yields })) ∧
  (∀ (e : PipEnv) (a : Atom) (w : DWord), let b := (pipWord e a w).s
    b.mem.cells = a.s.mem.cells ∧ b.mem.scells = a.s.mem.scells ∧ b.mem.written = a.s.mem.written ∧ b.mem.poison = a.s.mem.poison ∧
    b.syncs = a.s.syncs ∧ b.cfg = a.s.cfg ∧ b.step = a.s.step ∧ b.regs = a.s.regs) ∧
  (∀ (e : PipEnv) (a : Atom) (w : DWord) (d : Nat) (b : Nat), pwOp w = 1 → pwMask w = false → b < 48 → operandRow e (pwDst w) = some d → a.s.mem.flips = [] →
    pRow (pipWord e a w).s (envRow e b d) = readRowOp e a b (pwSrc w))

/-- MIGRATE reserves a frame for each unit of its range that lies outside the tier, and moves none where frames are short or a pinned unit
would leave the fast tier (R495, R496); PIN 0 unpins (R497). UNIT_SWITCH changes where a unit lies and no byte of D-space, but that a
poisoned granule which comes to the fast tier holds the mark of poison (R498, R550, R551). -/
def Obligations.TierMoves : Prop :=
  (∀ (s : State) (h : Word) (o : Op) (a : Nat), Ready s h opMigrate o → Groupless s → dEmpty o.desc = false → localAddr s.cfg.live (dSrc o.desc) = some a →
    let tier := dField o.desc 48 1
    let us := unitsToMove (begun s h) a (dCount o.desc) tier
    (tier = 1 → (∃ u ∈ blocksOf 65536 a (dCount o.desc), u ∈ s.units.tier.pins) → Goes (.migrate h) s (complete (begun s h) o (resSt stBusy))) ∧
    ((tier = 1 → ∀ u ∈ blocksOf 65536 a (dCount o.desc), u ∉ s.units.tier.pins) →
      ((freeFrames (begun s h) tier).length < (unitsNeedFrame (begun s h) a (dCount o.desc) tier).length →
        Goes (.migrate h) s (complete (begun s h) o (resSt stLimit))) ∧
      ((unitsNeedFrame (begun s h) a (dCount o.desc) tier).length ≤ (freeFrames (begun s h) tier).length →
        ∃ u, (us = [] → Goes (.migrate h) s (complete u o resOk)) ∧ (us ≠ [] → Goes (.migrate h) s (settle u)) ∧
          u.units.tier.moves = s.units.tier.moves ++ reserveMoves o.handle tier us (freeFrames (begun s h) tier) ∧
          u.units.tier.pins = s.units.tier.pins ∧ u.units.tier.placed = s.units.tier.placed ∧ u.mem = s.mem ∧ u.syncs = s.syncs))) ∧
  (∀ (s : State) (h : Word) (o : Op) (a : Nat), Ready s h opPin o → Groupless s → InTurn s h o → dEmpty o.desc = false → localAddr s.cfg.live (dDst o.desc) = some a →
    dField o.desc 48 1 = 0 → ∃ u, Goes (.pin h) s (complete u o resOk) ∧
      (∀ k, k ∈ u.units.tier.pins ↔ k ∈ s.units.tier.pins ∧ k ∉ blocksOf 65536 a (dCount o.desc)) ∧ u.mem = s.mem ∧ u.syncs = s.syncs) ∧
  (∀ (s : State) (u : BitVec 28) (mv : Nat × Nat × Word), (movesUnderWay s).find? (fun m => m.1 = u.toNat) = some mv →
    copyWaits s mv = false → NoFailed s → ∃ t, Goes (.unitSwitch u) s (settle (serveHeld t)) ∧
      (∀ a, memGet t.mem.cells a =
        if mv.2.1 < capBase ∧ mv.1 * 65536 ≤ a / 64 * 64 ∧ a / 64 * 64 < (mv.1 + 1) * 65536 ∧ a / 64 ∈ s.mem.poison then 0 else memGet s.mem.cells a) ∧
      t.mem.written = s.mem.written ∧ t.mem.poison = s.mem.poison ∧ t.units.tier.moves = s.units.tier.moves.filter (fun x => x ≠ mv) ∧
      nmGet? t.units.tier.placed mv.1 = (if mv.2.1 = mv.1 * 65536 then none else some mv.2.1) ∧
      (∀ k, k ≠ mv.1 → nmGet? t.units.tier.placed k = nmGet? s.units.tier.placed k))

/-! ### Transaction groups -/

/-- TXG_BEGIN opens a group of its tenant within its limit (R282, R591). A write of a command of a group changes no byte of memory: the
new data stays in the write set (R284). TXG_END under EMODE 1 drops the write set and under EMODE 0 waits; the Ending mark puts every
locked line's new data in place together (R286, R287, R288). A released line is granted to a request that no earlier one waits before
(R104), one that finds no room for the line dooms its group (R285), and a lock timeout aborts the waiting group (R105, R289). -/
def Obligations.TransactionGroups : Prop :=
  (∀ (s : State) (h : Word) (o : Op), Ready s h opTxgBegin o → let g := dField o.desc 24 1
    ((txgOf s g).isSome = true → Goes (.txgBegin h) s (complete (begun s h) o (resSt stBusy))) ∧
    (txgOf s g = none → (s.step.txgs.filter fun x => x.tenant = o.tenant).length < (planeTenant s.cfg.live o.tenant.toNat).txgMax →
      Goes (.txgBegin h) s (complete (setTxgs (begun s h) fun l => l ++ [⟨g, o.queue, o.tenant, o.order, dField o.desc 32 4, [], .open_⟩]) o resOk)) ∧
    (txgOf s g = none → (planeTenant s.cfg.live o.tenant.toNat).txgMax ≤ (s.step.txgs.filter fun x => x.tenant = o.tenant).length →
      Goes (.txgBegin h) s (complete (begun s h) o (resSt stLimit)))) ∧
  (∀ (s t : State) (g a : Nat) (bs : List Byte), groupWrite s g a bs = .ok t ∨ groupWrite s g a bs = .wait t ∨ groupWrite s g a bs = .limit t →
    t.mem = s.mem ∧ t.syncs = s.syncs ∧ t.fe = s.fe ∧ t.cfg = s.cfg ∧ t.units = s.units ∧
    (∀ x ∈ s.step.txgs, x.group ≠ g → x ∈ t.step.txgs)) ∧
  (∀ (s : State) (h : Word) (o : Op) (g : Txg), Ready s h opTxgEnd o → beginPending (begun s h) o = false →
    txgOf s (dField o.desc 24 1) = some g → g.queue = o.queue → g.state = .open_ →
    (dField o.desc 25 1 = 1 → Goes (.txgEnd h) s (complete (serveHeld (discardGroup (begun s h) g)) o resOk) ∧
      (discardGroup (begun s h) g).mem.cells = s.mem.cells ∧ txgOf (discardGroup (begun s h) g) g.group = none) ∧
    (dField o.desc 25 1 = 0 → Goes (.txgEnd h) s (settle (begun s h)))) ∧
  (∀ (s : State) (n : Fin 64) (g : Txg) (o : Op), txgOf s n.val = some g → endOf s g = some o → g.state = .open_ → groupOps s g = [] →
    Goes (.txgEnding n) s (complete (serveHeld (applyGroup s g)) o resOk) ∧ txgOf (applyGroup s g) n.val = none ∧
    (NoFailed s → s.mem.poison = [] → s.units.integ.refetch = [] → (∀ l ∈ g.lines, l.2.length = 128) → (g.lines.map (·.1)).Nodup →
      ∀ x, memGet (applyGroup s g).mem.cells x =
        match nmGet? g.lines (x / 128) with | some l => l.getD (x % 128) 0 | none => memGet s.mem.cells x)) ∧
  (∀ (s : State) (line : BitVec 37) (g : Fin 64) (w : LockWait) (x : Txg), (waitersOf s line.toNat).find? (fun w => w.group = g.val) = some w →
    lockOf s line.toNat = none → (∀ y ∈ waitersOf s line.toNat, y.round ≤ w.round) → txgOf s g.val = some x →
    ∃ t y, Goes (.lockGrant line g) s t ∧ txgOf t g.val = some y ∧ t.mem = s.mem ∧ t.fe = s.fe ∧ t.syncs = s.syncs ∧
      (lineFits s x line.toNat = true → nmGet? y.lines line.toNat = some (dRead s (line.toNat * 128) 128) ∧
        t.step.locks.length < s.step.locks.length) ∧
      (lineFits s x line.toNat = false → y.lines = x.lines ∧ (x.state = .open_ → y.state = .doomed))) ∧
  (∀ (s : State) (line : BitVec 37) (n : Fin 64) (g : Txg) (w : LockWait), (waitersOf s line.toNat).find? (fun w => w.group = n.val) = some w →
    txgOf s n.val = some g →
    (∀ o, endOf (abortOps s g) g = some o →
      Goes (.lockTimeout line n) s (complete (serveHeld (closeGroup (abortOps s g) n.val)) o (resSt stTxgConflict))) ∧
    (endOf (abortOps s g) g = none → ∃ u, Goes (.lockTimeout line n) s (settle (serveHeld u)) ∧
      (∃ x, txgOf u n.val = some x ∧ x.state = .conflict ∧ x.lines = []) ∧ u.mem.cells = s.mem.cells))

/-! ### Contexts and the configuration -/

/-- CTX_SAVE writes its tenant's context (R601, R602) and CTX_RESTORE gives back what a good one holds, or refuses it with ST_BAD_FIELD and
restores nothing (R603, R604). CFG_STAGE makes an image that passes its checks the shadow plane, and one that fails leaves nothing staged
(R166, R171, R175); neither touches the live plane. CFG_COMMIT with nothing staged is empty, a failing check names itself, and otherwise
it waits for the quiet point (R178), at which the shadow plane goes live (R183) or, too late, does not (R182). -/
def Obligations.ContextsAndConfiguration : Prop :=
  (∀ (s : State) (h : Word) (o : Op), Ready s h opCtxSave o → tenantDone (begun s h).fe.ops o = true → ctxBusy (begun s h) o = false →
    Groupless s → InTurn s h o →
    let bs := ctxImage (begun s h) o.tenant
    DestOk s 0 (dDst o.desc) bs.length →
    ∃ u, Goes (.ctxSave h) s (complete u o { status := stOk, res1 := BitVec.ofNat 64 bs.length }) ∧ Delivered s u 0 (dDst o.desc) bs) ∧
  (∀ (s : State) (h : Word) (o : Op) (bs : List Byte), Ready s h opCtxRestore o → tenantDone (begun s h).fe.ops o = true →
    ctxBusy (begun s h) o = false → Groupless s → InTurn s h o → SourceIs s 0 (dSrc o.desc) (dCount o.desc) bs →
    (ctxGood s o.tenant (dCount o.desc) bs = true → ∃ u, Goes (.ctxRestore h) s (complete u o resOk) ∧
      (∀ i id, (tenantSyncs s.cfg.live o.tenant)[i]? = some id → syncGet u id =
        BitVec.ofNat 64 (fieldAt bs ((ctxOffsets s.cfg.live o.tenant).2.1 + 16 * i + 8) 8)) ∧
      (∀ id, id ∉ tenantSyncs s.cfg.live o.tenant → syncGet u id = syncGet s id) ∧ u.mem.cells = s.mem.cells ∧ u.cfg = s.cfg) ∧
    (ctxGood s o.tenant (dCount o.desc) bs = false → ∃ u, Goes (.ctxRestore h) s (complete u o (resSt stBadField)) ∧
      u.syncs = s.syncs ∧ u.mem.cells = s.mem.cells ∧ u.mem.scells = s.mem.scells ∧ u.step = s.step ∧ u.cfg = s.cfg)) ∧
  (∀ (s : State) (h : Word) (o : Op) (bs : List Byte), Ready s h opCfgStage o → s.cfg.wait = none → loaderUnit ∉ s.units.acorns.failed →
    Groupless s → InTurn s h o → SourceIs s 0 (dSrc o.desc) (dCount o.desc) bs →
    (imageGood s bs = true → ∃ u, Goes (.cfgStage h) s (releaseWrites (complete u o resOk)) ∧ u.cfg.staged = true ∧ u.cfg.image = true ∧
      u.cfg.shadow = applyImage (ownPlane s) bs ∧ u.cfg.live = s.cfg.live ∧ u.cfg.bank = s.cfg.bank ∧ u.syncs = s.syncs) ∧
    (imageGood s bs = false → ∃ u, Goes (.cfgStage h) s (releaseWrites (complete u o (resSt stCfgAuth))) ∧ u.cfg.staged = false ∧ u.cfg.image = false ∧
      u.cfg.shadow = ownPlane s ∧ u.cfg.live = s.cfg.live ∧ u.cfg.bank = s.cfg.bank ∧ u.syncs = s.syncs)) ∧
  (∀ (s : State) (h : Word) (o : Op), Ready s h opCfgCommit o → tenantDone (begun s h).fe.ops o = true → s.cfg.wait = none →
    loaderUnit ∉ s.units.acorns.failed →
    (s.cfg.staged = false → Goes (.cfgCommit h) s (complete (begun s h) o { status := stOk, empty := true })) ∧
    (s.cfg.staged = true → ∀ st, commitFailure (begun s h) = some st → Goes (.cfgCommit h) s (complete (begun s h) o (resSt st))) ∧
    (s.cfg.staged = true → commitFailure (begun s h) = none → ∃ u, Goes (.cfgCommit h) s (settle u) ∧
      u.cfg = { s.cfg with wait := some ⟨o.handle, affected (begun s h)⟩ } ∧ u.mem = s.mem)) ∧
  (∀ (s : State) (w : CommitWait), s.cfg.wait = some w →
    (quietPoint s w = true → Goes .quietPointSwitch s (dropIdle (serveHeld (endCommit (switchPlanes s) w stOk))) ∧
      (switchPlanes s).cfg.live = nextLive s ∧ (switchPlanes s).cfg.staged = false) ∧
    (quietPoint s w = false → Goes .quietTimeout s (endCommit s w stBusy) ∧ (endCommit s w stBusy).cfg.live = s.cfg.live))

/-! ### Hazel frames -/

/-- A WRITE frame. One whose CRC does not match is dropped for its sender to replay (R344). One for this package that answers no pull is
held where its SPID is not the live one (R188) or no count can be opened for it (R352); one that a check turns away is discarded and
reported (R350, log 138); one whose bytes its home holds waits (R74, R102). Otherwise its payload lands at its address and nowhere else,
and the FINAL frame of a group, once the frames before it have landed, adds SIG_ADD to the group's sync object; until then it changes
nothing (R351). -/
def Obligations.WritesLand : Prop :=
  ∀ (s : State) (port : Fin 18) (f : Frame), f.type = 0x01 →
    (frameGood f = false → Goes (.write port f) s (frameReplay port.val false s)) ∧
    (frameGood f = true → f.dst = s.cfg.live.package → pullOf s f = none →
    let t := arrive s port.val f
    (spidOk s f = false ∨ countsFull s f = true → Goes (.write port f) s (holdFrame t port.val f)) ∧
    (spidOk s f = true → countsFull s f = false → ∀ st, dataRefusal s f = some st → Goes (.write port f) s (refuseFrame t port.val f st)) ∧
    (spidOk s f = true → countsFull s f = false → dataRefusal s f = none → writeHeld s none f.addr.toNat f.payload.length = true →
      Goes (.write port f) s (holdFrame t port.val f)) ∧
    (spidOk s f = true → countsFull s f = false → dataRefusal s f = none → writeHeld s none f.addr.toNat f.payload.length = false →
      NoFailed s → s.mem.poison = [] → s.units.integ.refetch = [] →
      (∀ e ∈ s.cfg.live.shards, touchedTiles s e.1 e.2 f.addr.toNat f.payload.length = []) →
      ∃ u, Goes (.write port f) s (settle (creditBack u port.val f)) ∧ u.mem.scells = s.mem.scells ∧ u.mem.prows = s.mem.prows ∧ u.cfg = s.cfg ∧
        (noGroup f.stream = true → Laid s.mem.cells u.mem.cells f.addr.toNat f.payload ∧ u.syncs = s.syncs) ∧
        (noGroup f.stream = false → fFinal f = false → (∀ c, countOf s f = some c → c.final = none) →
          Laid s.mem.cells u.mem.cells f.addr.toNat f.payload ∧ u.syncs = s.syncs) ∧
        (noGroup f.stream = false → fFinal f = true → f.prior.toNat ≤ (countOf s f).elim 0 (·.landed) →
          Laid s.mem.cells u.mem.cells f.addr.toNat f.payload ∧
          syncGet u f.group.toNat = syncGet s f.group.toNat + f.sigAdd.setWidth 64 ∧
          (∀ k, k ≠ f.group.toNat → syncGet u k = syncGet s k)) ∧
        (noGroup f.stream = false → fFinal f = true → (countOf s f).elim 0 (·.landed) < f.prior.toNat →
          u.mem.cells = s.mem.cells ∧ u.syncs = s.syncs)))

/-- The other frames at their target: an ACC or SET frame of the current step joins its tile's tickets, an early one is held, a stale
one discarded, and one that a check of R350 turns away reported (R362, R365, R368); a NARROW frame of a step's gather is written into the
copy that it selects (R367), and one for a slot waits until that gather has begun here (R407); a TRIPLE goes up and a VERDICT down its
tree (R369, R371); a SERVE is answered from memory, which it leaves as it was (R354); a STATUS gives the waiting command the first code
it receives (R350); a frame for another package travels on, or waits for the next link (R347, R349); a held frame is looked at again, in the
order of its flow (R352, R359). -/
def Obligations.FramesAtTheirTarget : Prop :=
  (∀ (s : State) (port : Fin 18) (f : Frame) (c : Instr), (c = .acc port f ∧ f.type = 0x02) ∨ (c = .set port f ∧ f.type = 0x03) →
    frameGood f = true → f.dst = s.cfg.live.package → s.hz.drop.dropped = false → fCmd f = false → spidOk s f = true →
    let t := arrive s port.val f
    (∀ st, accRefusal s f.addr.toNat f = some st → Goes c s (refuseFrame t port.val f st)) ∧
    (accRefusal s f.addr.toNat f = none →
      (stepOf s f false = .current → Goes c s (joinTile t port.val f f.addr.toNat) ∧ (joinTile t port.val f f.addr.toNat).mem = s.mem) ∧
      (stepOf s f false = .ahead → Goes c s (holdFrame t port.val f)) ∧ (stepOf s f false = .stale → Goes c s (staleFrame t port.val f)))) ∧
  (∀ (s : State) (port : Fin 18) (f : Frame) (x : GatherBuffer × Nat), f.type = 0x04 → frameGood f = true → f.dst = s.cfg.live.package →
    s.hz.held.any (fun h => sameFlow f h.2) = false →
    s.hz.drop.dropped = false → fCmd f = false → spidOk s f = true → stepOf s f (fSpec f) = .current →
    gatherAt s f.tenant f.addr.toNat f.payload.length = some x → narrowRefusal s f.addr.toNat f = none →
    let b := narrowTarget s f f.addr.toNat x
    let slot := if fSpec f || fInactive f then none else slotOf s f.tenant f.plan.toNat f.addr.toNat f.payload.length
    (∀ y, slot = some y → y.1.slots ≤ y.2.1 → Goes (.narrow port f) s (holdFrame (arrive s port.val f) port.val f)) ∧
    (slot = none → writeHeld s none b f.payload.length = false → NoFailed s → s.mem.poison = [] → s.units.integ.refetch = [] →
    ∃ u, Goes (.narrow port f) s (settle (creditBack (narrowTileDone u f x.2) port.val f)) ∧ Laid s.mem.cells u.mem.cells b f.payload ∧
      u.syncs = s.syncs ∧ u.cfg = s.cfg ∧ u.step = s.step)) ∧
  (∀ (s : State) (port : Fin 18) (f : Frame) (x : TreeRun) (cp : CPlan), frameGood f = true → f.dst = s.cfg.live.package →
    s.hz.held.any (fun h => sameFlow f h.2) = false → s.hz.drop.dropped = false →
    spidOk s f = true → treeOf s f = some x → treePlan s x = some cp → let t := arrive s port.val f
    (f.type = 0x08 → Goes (.triple port f) s (settle (creditBack (treeUp t x cp f) port.val f))) ∧
    (f.type = 0x09 → Goes (.verdict port f) s (settle (creditBack (treeDown t x cp f) port.val f)))) ∧
  (∀ (s : State) (port : Fin 18) (f : Frame), f.type = 0x0A → frameGood f = true → f.dst = s.cfg.live.package → spidOk s f = true →
    groupBad s f = false → let d := BitVec.ofNat 512 (leNat (f.payload.take 64))
    let a := dSrc d % 2 ^ 44
    dReadable s f.tenant a (serveLen d) = true → dMapped s a (serveLen d) = true → PlainSrc s a (serveLen d) →
    let t := arrive s port.val f
    let u := (serveFrames t f d (dRead s a (serveLen d))).foldl (fun s g => sendRouted s g none) t
    Goes (.serve port f) s (settle (creditBack u port.val f)) ∧ u.mem = s.mem) ∧
  (∀ (s : State) (port : Fin 18) (f : Frame) (o : Op), f.type = 0x0B → frameGood f = true → f.dst = s.cfg.live.package →
    s.fe.ops.find? (fun o => o.phase = .running && o.started && sendsFrames o && o.stream = f.stream.toNat) = some o →
    ∃ u, Goes (.status port f) s (creditBack u port.val f) ∧ u.mem = s.mem ∧ u.syncs = s.syncs ∧
      ∀ x, findOp s o.handle = some x → ∃ y, findOp u o.handle = some y ∧
        y.status = if x.status = stOk then BitVec.ofNat 16 (payAt f.payload 0 2) else x.status) ∧
  (∀ (s : State) (port : Fin 18) (f : Frame) (c : Instr), frameGood f = true → f.dst ≠ s.cfg.live.package →
    (c = .write port f ∧ f.type = 1) ∨ (c = .acc port f ∧ f.type = 2) ∨ (c = .set port f ∧ f.type = 3) ∨ (c = .narrow port f ∧ f.type = 4) ∨
      (c = .triple port f ∧ f.type = 8) ∨ (c = .verdict port f ∧ f.type = 9) ∨ (c = .serve port f ∧ f.type = 10) ∨
      (c = .status port f ∧ f.type = 11) →
    let t := arrive s port.val f
    (s.hz.drop.dropped = true → planFrame f = true → Goes c s (creditBack t port.val f)) ∧
    (s.hz.drop.dropped = false ∨ planFrame f = false →
      (canForward t f (some port.val) = true → Goes c s (creditBack (sendRouted t f (some port.val)) port.val f)) ∧
      (canForward t f (some port.val) = false → Goes c s (holdFrame t port.val f)))) ∧
  (∀ (s : State) (i port : Nat) (f : Frame), s.hz.held[i]? = some (port, f) →
    ((s.hz.held.take i).any (fun x => sameFlow f x.2) = true → Goes (.heldFrameRelease i) s s) ∧
    ((s.hz.held.take i).any (fun x => sameFlow f x.2) = false → ∃ u, Goes (.heldFrameRelease i) s u ∧
      let w := { s with hz := { s.hz with held := s.hz.held.eraseIdx i } }
      let v := if f.dst = s.cfg.live.package then takeFrame port f w else forward w port f
      u = v ∨ (v.hz.held = s.hz.held.eraseIdx i ++ [(port, f)] ∧ u = { v with hz := { v.hz with held := (s.hz.held.eraseIdx i).insertIdx i (port, f) } })))

/-- Ports and dropouts. A frame whose CRC does not match is replayed, whatever it is (R344, R345). Returned credits never pass a channel's
buffer (R347); a LINK frame tells the partner (R718); a frame of an unknown type, like a replay, is counted (R344, R346), and the sixteenth
replay in a row takes the port out of service; a silent count closes (R353); a port that loses a lane runs on the half that is whole
(R343). A port that trains with the partner that the live configuration names is in service, and with another carries nothing (R719). DROP
teaches of a dropout once (R380); DROP(self) drops this package out (R379); a watchdog expiry (R376), a recovery round that takes too long
(R382) and an expected link that does not train (R381) act as the rules say; so does the loss of every link to a neighbour (R380). -/
def Obligations.PortsAndDropouts : Prop :=
  (∀ (s : State) (port : Fin 18) (f : Frame) (c : Instr), frameGood f = false →
    (c = .credit port f ∧ f.type = 0x0F) ∨ (c = .link port f ∧ f.type = 0x10) ∨ c = .badFrameType port f ∨ (c = .drop port f ∧ f.type = 0x0C) ∨
      (c = .recover port f ∧ f.type = 0x0D) → Goes c s (frameReplay port.val false s)) ∧
  (∀ (s : State) (port : Fin 18) (f : Frame), f.type = 0x0F → frameGood f = true →
    Goes (.credit port f) s (arrive s port.val f) ∧ (arrive s port.val f).mem = s.mem ∧
    ∀ vc < 4, nmGet 0 (portOf s port.val).credits vc ≤ vcCredits vc → nmGet 0 (portOf (arrive s port.val f) port.val).credits vc ≤ vcCredits vc) ∧
  (∀ (s : State) (port : Fin 18) (f : Frame), f.type = 0x10 → frameGood f = true → ∃ t, Goes (.link port f) s t ∧
    (portOf t port.val).peer = f.src ∧ (portOf t port.val).peerSpid = f.spid ∧ t.mem = s.mem ∧ t.cfg = s.cfg) ∧
  (∀ (s : State) (port : Fin 18) (f : Frame), frameGood f = true → ∃ u, Goes (.badFrameType port f) s (creditBack u port.val f) ∧
    (portOf u port.val).replays = satInc (portOf s port.val).replays ∧ u.mem = s.mem ∧ u.hz.held = s.hz.held) ∧
  (∀ (s : State) (port : Fin 18) (bad : Bool), let u := updPort s port.val fun p => { p with
      replays := satInc p.replays, replayRun := p.replayRun + 1, fecUncorr := if bad then satInc p.fecUncorr else p.fecUncorr }
    ((portOf s port.val).replayRun + 1 < 16 → Goes (.frameReplay port bad) s u) ∧
    (16 ≤ (portOf s port.val).replayRun + 1 → Goes (.frameReplay port bad) s (portOut u port.val))) ∧
  (∀ (s : State) (c : StreamCount), s.hz.counts.find? (fun x => x.src = c.src && x.stream = c.stream && x.group = c.group) = some c →
    Goes (.streamCountTimeout c.src c.stream c.group) s (closeCount s c) ∧ c ∉ (closeCount s c).hz.counts) ∧
  (∀ (s : State) (port : Fin 18) (lane : Fin 8), let bad := insertNat lane.val (portOf s port.val).badLanes
    let u := updPort s port.val fun p => { p with badLanes := bad }
    (laneWidth bad = 0 → Goes (.hazelLaneFailure port lane) s (portOut u port.val)) ∧
    (laneWidth bad ≠ 0 → (portOf s port.val).up = true → ∃ t, Goes (.hazelLaneFailure port lane) s t ∧
      (portOf t port.val).width = laneWidth bad ∧ (portOf t port.val).up = true ∧ t.mem = s.mem)) ∧
  (∀ (s : State) (port : Fin 18) (peer : BitVec 13) (spid : DWord) (w : BitVec 2), keepHigh s (port.val / 2) = true →
    (portOf s port.val).out = false → w ≠ 0 →
    (expectedPeer s port.val = some peer → ∃ u, Goes (.hazelPortTrained port peer spid w) s
        (settle (joinRound (adoptFrames (sendOn u port.val { frameBlank u 0x10 peer with vc := 4 }) port.val))) ∧
      (portOf u port.val).up = true ∧ (portOf u port.val).width = w ∧ (portOf u port.val).peer = peer ∧ u.mem = s.mem) ∧
    (expectedPeer s port.val ≠ some peer → ∃ u, Goes (.hazelPortTrained port peer spid w) s (settle u) ∧
      (portOf u port.val).up = false ∧ u.units.boot.miswired = true ∧ u.mem = s.mem)) ∧
  (∀ (s : State) (port : Fin 18) (f : Frame) (y : BitVec 13), f.type = 0x0C → frameGood f = true → y = BitVec.ofNat 13 f.aux.toNat →
    y ≠ s.cfg.live.package → let w := learnDrop (creditBack (arrive s port.val f) port.val f) y (fCut f) (some port.val)
    Goes (.drop port f) s (settle (joinRound w)) ∧ (y ∉ s.hz.drop.learned → y ∈ w.hz.drop.learned) ∧
    (y ∈ s.hz.drop.learned → w = creditBack (arrive s port.val f) port.val f)) ∧
  (∀ (s : State) (port : Fin 18) (f : Frame) (x : TreeRun) (cp : CPlan), f.type = 0x0D → frameGood f = true → treeBy s .recovery = some x →
    treePlan s x = some cp → let t := arrive s port.val f
    Goes (.recover port f) s (settle (creditBack (if fromParent cp f.src then treeDown t x cp f else treeUp t x cp f) port.val f))) ∧
  (∀ (s : State) (req : Requester) (v : Word), WriteOk s req 0x1010 →
    (v.getLsbD 16 = false → ∃ t, Goes (.arm req v) s (answerWrite t req stOk) ∧ regGet t 0x1010 0 = v &&& 0x1FF ∧ t.hz.drop = s.hz.drop ∧ t.mem = s.mem) ∧
    (v.getLsbD 16 = true → ∃ t, Goes (.dropSelf req v) s (answerWrite t req stOk) ∧ t.hz.drop.dropped = true ∧ t.mem = s.mem)) ∧
  (∀ s : State, ∃ t, Goes .keepDropDelay s t ∧ t.hz.drop.keepDelay = false ∧ t.mem = s.mem ∧ (s.hz.drop.dropped = true →
    ∀ n, keepHigh t n = false)) ∧
  (∀ s : State, s.units.power.state ≠ 2 → ∃ t, Goes .keepWatchdogExpiry s t ∧ t.hz.drop.wdog = true ∧ t.hz.drop.dropped = true ∧
    (∀ n, keepHigh t n = false) ∧ t.mem = s.mem) ∧
  (∀ s : State, s.hz.drop.pending.isSome = true → Goes .recoveryRoundTimeout s (settle (furtherDropout s)) ∧
    (furtherDropout s).hz.drop.halt = true ∧ (furtherDropout s).hz.drop.pending = none) ∧
  (∀ (s : State) (port : Fin 18) (y : BitVec 13), s.hz.drop.pending = some y →
    (port.val ∈ portsFacing s.cfg.live y → linkSettled s port.val = false →
      Goes (.linkTrainTimeout port) s (settle (joinRound (updDrop s fun d => { d with bad := true, late := insertNat port.val d.late })))) ∧
    (port.val ∉ portsFacing s.cfg.live y ∨ linkSettled s port.val = true → Goes (.linkTrainTimeout port) s s)) ∧
  (∀ (s : State) (d : Fin 3) (plus : Bool), Goes (.lossOfSignal d plus) s (settle (joinRound (lossOfSignal d.val plus s)))) ∧
  (∀ (s : State) (d : Nat) (plus : Bool), let y := partnerOf s d plus
    let lost := fun p => (portOf s p).los || (portOf s p).out
    (partnerPorts s d plus ≠ [] → y ≠ s.cfg.live.package → (partnerPorts s d plus).all lost = true → y ∈ (linksLost d plus s).hz.drop.learned) ∧
    ((partnerPorts s d plus).all lost = false → linksLost d plus s = s))

/-! ### Acorns, the Cupule and failures -/

/-- The Cupule grants a CLAIM that expects its epoch while no one holds it or the lease has lapsed: EPOCH advances past 0 and HOLDER names
the claimant (R616, R617, R620); a RELEASE of the holder frees it; a RENEW keeps the word; a request whose parity fails makes the Cupule
deferent and grants nothing (R624); a lapsed lease goes to a standby that read the present epoch (R618, R622); the strap, or a lead
command, names the holder (R625, R626). A probe publishes a reach map, and a failed self-test or a lockstep mismatch halts its Acorn (R611,
R612, R613). -/
def Obligations.CupuleRules : Prop :=
  (∀ (s : State) (b : Bool) (e : Word), (acornOf s b).up = true → s.units.acorns.cupule.deferent = false → let c := s.units.acorns.cupule
    (e = c.epoch → c.holder = 0 ∨ c.lease = false → ∃ t, Goes (.claim b e true) s t ∧ t.units.acorns.cupule.holder = holderNo b ∧
      t.units.acorns.cupule.epoch = nextEpoch c.epoch ∧ t.units.acorns.cupule.lease = true ∧ t.mem = s.mem ∧ t.cfg = s.cfg) ∧
    (e ≠ c.epoch ∨ (c.holder ≠ 0 ∧ c.lease = true) → Goes (.claim b e true) s s) ∧
    (e = c.epoch → c.holder = holderNo b → c.lease = true → ∃ t, Goes (.renew b e true) s t ∧ t.units = s.units ∧ t.mem = s.mem ∧
      t.hz.drop.keepLow = false) ∧
    (e = c.epoch → c.holder = holderNo b → ∃ t, Goes (.release b e true) s t ∧ t.units.acorns.cupule.holder = 0 ∧
      t.units.acorns.cupule.lease = false ∧ t.units.acorns.cupule.epoch = nextEpoch c.epoch ∧ t.mem = s.mem) ∧
    (∀ r ∈ [Instr.claim b e false, .renew b e false, .release b e false], ∃ t, Goes r s t ∧ t.units.acorns.cupule.deferent = true ∧
      t.units.acorns.cupule.parity = true ∧ t.units.acorns.cupule.holder = c.holder ∧ t.units.acorns.cupule.epoch = c.epoch)) ∧
  (∀ e : Word, nextEpoch e ≠ 0) ∧
  (∀ s : State, s.units.acorns.cupule.deferent = false → s.units.acorns.cupule.lease = true →
    ∀ b : Bool, s.units.acorns.cupule.holder = holderNo (!b) →
    ((acornOf s b).up = false → ∃ t, Goes .leaseExpiry s t ∧ t.units.acorns.cupule = { s.units.acorns.cupule with lease := false } ∧ t.mem = s.mem) ∧
    ((acornOf s b).up = true → (acornOf s b).epoch = s.units.acorns.cupule.epoch → ∃ t, Goes .leaseExpiry s t ∧
      t.units.acorns.cupule.holder = holderNo b ∧ t.units.acorns.cupule.epoch = nextEpoch s.units.acorns.cupule.epoch ∧ t.mem = s.mem)) ∧
  (∀ s : State, s.units.acorns.cupule.deferent = true → Goes .deferentTimeout s (endDeferent s s.units.fuses.leadSel 2) ∧
    (s.units.acorns.running = false → (endDeferent s s.units.fuses.leadSel 2).units.acorns.cupule.deferent = false ∧
      (endDeferent s s.units.fuses.leadSel 2).units.acorns.cupule.holder = namedHolder s s.units.fuses.leadSel)) ∧
  (∀ (s : State) (v : Word), v.toNat / 256 % 256 = 0x5A → s.units.acorns.cupule.deferent = false → s.units.acorns.running = false →
    ∃ t, Goes (.lead .i3c v) s (answerWrite t .i3c stOk) ∧ t.units.acorns.cupule.holder = holderNo (v.getLsbD 0) ∧
      t.units.acorns.cupule.epoch = nextEpoch s.units.acorns.cupule.epoch) ∧
  (∀ (s : State) (b : Bool) (m : BitVec 16), (acornOf s b).up = true → ∃ t, Goes (.acornProbe b m) s t ∧ (acornOf t b).reach = m ∧
    (acornOf t (!b)).reach = (acornOf s (!b)).reach ∧ t.mem = s.mem) ∧
  (∀ (s : State) (b : Bool), (acornOf s b).up = true →
    (∃ t, Goes (.acornSelftest b false) s t ∧ (acornOf t b).up = false ∧ (acornOf t b).selftest = true ∧ acornOf t (!b) = acornOf s (!b) ∧
      t.units.acorns.cupule = s.units.acorns.cupule) ∧ Goes (.acornSelftest b true) s s ∧
    (∃ t, Goes (.lockstepMismatch b) s t ∧ (acornOf t b).up = false ∧ (acornOf t b).mismatch = true ∧ acornOf t (!b) = acornOf s (!b) ∧
      t.units.acorns.cupule = s.units.acorns.cupule))

/-- HUB_FATAL is set only where neither Acorn is in service and no lease runs (R628): the package drops out, its channels return to memory
mode and the bridges go to self-refresh. HUB_RECOVER advances EPOCH, restarts both Acorns, and
goes on to the recovery of step 4 once one leads (R631, R634). A hub unit that fails is recorded by the leader, and with no leader nothing
changes (R614, R627); a spine link loses one module at a time, and a hub link that loses its last makes the package drop out (R35, R37); a
Sprout that fails changes no result (R30); a bridge that loses its hub puts its channels in self-refresh (R486). -/
def Obligations.UnitFailures : Prop :=
  (∀ s : State, let x := s.units.acorns
    (x.bothDown = true → x.cupule.deferent = false → x.cupule.lease = false → x.fatal = false → 2 ≤ s.units.boot.phase →
      s.units.power.state < 2 → ∃ u, Goes .hubFatal s (settle (serveHeld u)) ∧ u.units.acorns.fatal = true ∧ u.units.proc = [] ∧
        u.units.tier.selfRefresh = [0, 1] ∧ u.hz.drop.dropped = true ∧ (∀ n, keepHigh u n = false) ∧ u.mem = s.mem) ∧
    (x.bothDown = false ∨ x.cupule.lease = true ∨ x.cupule.deferent = true → Goes .hubFatal s s)) ∧
  (∀ (s : State) (v : RestartView), recoverAllowed s = true → s.units.power.state = 0 →
    ∃ w, w = restartAcorns v (updAcorns s fun x => { x with
        a := { x.a with up := false }, b := { x.b with up := false }, running := true
        cupule := { x.cupule with holder := 0, lease := false, epoch := nextEpoch x.cupule.epoch } }) ∧
      (hasLeader w = true → Goes (.hubRecover .recoverN v) s (finishRecover w)) ∧
      (hasLeader w = false → Goes (.hubRecover .recoverN v) s w) ∧ w.mem = s.mem ∧ w.cfg = s.cfg ∧
      (v.copyOk = true → v.aPasses = true → v.aFirst = true → s.units.acorns.cupule.deferent = false → leads w false = true)) ∧
  (∀ (s : State) (v : RestartView), recoverAllowed s = false → Goes (.hubRecover .recoverN v) s s) ∧
  (∀ (s : State) (u : Fin 12), hasLeader s = true → ∃ w, w.units.acorns.failed = insertNat u.val s.units.acorns.failed ∧
    w.units.acorns.unitFail = BitVec.ofNat 4 (unitRow u.val) ∧ w.mem = s.mem ∧ w.cfg = s.cfg ∧ w.step = s.step ∧
    (u.val ∈ [0, 10, 11] → Goes (.hubUnitFailure u) s w) ∧ (u.val = 1 → Goes (.hubUnitFailure u) s (dropSelf w)) ∧
    (2 ≤ u.val → u.val ≤ 7 → Goes (.hubUnitFailure u) s (settle (endAll (dropSelf w) stDropped))) ∧
    (u.val = 8 → Goes (.hubUnitFailure u) s (settle (releaseWrites (endOps (abortCommits w) [opCfgStage] stAborted)))) ∧
    (u.val = 9 → s.units.power.state ≠ 1 → Goes (.hubUnitFailure u) s w)) ∧
  (∀ (s : State) (u : Fin 12), hasLeader s = false → Goes (.hubUnitFailure u) s s) ∧
  (∀ (s : State) (l : SpineLink), 0 < spineMods s (spineNo l) → ∃ t, Goes (.spineModuleFailure l) s t ∧
    spineMods t (spineNo l) = spineMods s (spineNo l) - 1 ∧ t.mem = s.mem ∧
    (spineMods s (spineNo l) = 1 → spineNo l < 4 ∨ 12 ≤ spineNo l → t.hz.drop.dropped = true) ∧
    (1 < spineMods s (spineNo l) ∨ (4 ≤ spineNo l ∧ spineNo l < 12) → t.hz.drop = s.hz.drop)) ∧
  (∀ (s : State) (d : Fin 7), Goes (.sproutFailure d) s s) ∧
  (∀ (s : State) (m : Fin 2), ∃ t, Goes (.bridgeSelfRefresh m) s t ∧ m.val ∈ t.units.tier.selfRefresh ∧ t.mem = s.mem ∧
    t.units.tier.placed = s.units.tier.placed)

/-! ### Host modules, channels and integrity -/

/-- Host-port modules: one that goes down leaves service until a PORT reset (R110); so does one at its sixteenth failed replay in a row,
which a replay that passes ends; one that trains carries traffic, one beyond repair stays out (R714); a retry of training changes
nothing. No byte of D-space changes. -/
def Obligations.HostModules : Prop :=
  (∀ (s : State) (k : Fin 64), moduleUp s k.val = true → ∃ t, Goes (.portDown k) s t ∧ moduleUp t k.val = false ∧
    (moduleOf t k.val).out = true ∧ t.mem.cells = s.mem.cells ∧ t.mem.poison = s.mem.poison ∧ t.syncs = s.syncs ∧
    (∀ j, j ≠ k.val → moduleOf t j = moduleOf s j) ∧ (∀ h ∈ t.fe.held, h ∈ s.fe.held)) ∧
  (∀ (s : State) (k : Fin 64), moduleUp s k.val = true →
    (∃ t, Goes (.hostTransportReplay k false) s t ∧ moduleOf t k.val = { moduleOf s k.val with fails := 0 } ∧ t.mem = s.mem) ∧
    ((moduleOf s k.val).fails + 1 < 16 → ∃ t, Goes (.hostTransportReplay k true) s t ∧
      moduleOf t k.val = { moduleOf s k.val with fails := (moduleOf s k.val).fails + 1 } ∧ t.mem = s.mem) ∧
    (16 ≤ (moduleOf s k.val).fails + 1 → ∃ t, Goes (.hostTransportReplay k true) s t ∧ moduleUp t k.val = false ∧
      (moduleOf t k.val).out = true ∧ t.mem.cells = s.mem.cells)) ∧
  (∀ (s : State) (k : Fin 64), moduleUp s k.val = false → (moduleOf s k.val).out = false → s.units.power.noUcie = false →
    (∃ t, Goes (.hostModuleTrained k true) s t ∧ moduleUp t k.val = true ∧ t.mem = s.mem ∧ t.syncs = s.syncs) ∧
    (∃ t, Goes (.hostModuleTrained k false) s t ∧ moduleUp t k.val = false ∧ (moduleOf t k.val).out = true ∧ t.mem = s.mem)) ∧
  (∀ (s : State) (k : Fin 64), Goes (.hostPortTrainingRetry k) s s)

/-- Channels: a transfer whose attempt fails is reissued at most 4 times, each counted; the fifth that fails holds the channel for a
retrain, which puts a spare in the place of each failed lane, and with too few spares the channel fails (R429, R430, R431); a REF is issued
at once, or owed, up to 4, where a row program holds the channel (R422, R423); the temperature of a die sets its channels' refresh window,
hot from above 85 °C until 82 °C or below (R422); a patrol of sectors as they were written changes nothing, and one of a sector with an
error that the code corrects writes it back and counts it (R427, R428); the window of corrected errors ends with its count shown (R564); a
refetch whose deadline passes is late (R561). -/
def Obligations.ChannelUpkeep : Prop :=
  (∀ (s : State) (c : Fin 256) (x : Transfer), lanesBusy s c.val = true → (chanOf s c.val).retrain = false →
    ((chanOf s c.val).attempts < 4 → ∃ t, Goes (.parityRetry c x .fails) s t ∧
      (chanOf t c.val).retries = BitVec.ofNat 16 (satTo 0xFFFF ((chanOf s c.val).retries.toNat + 1)) ∧
      (chanOf t c.val).attempts = (chanOf s c.val).attempts + 1 ∧ t.mem = s.mem ∧ (∀ k, k ≠ c.val → chanOf t k = chanOf s k)) ∧
    (4 ≤ (chanOf s c.val).attempts → ∃ t, Goes (.parityRetry c x .fails) s t ∧ (chanOf t c.val).retrain = true ∧
      (chanOf t c.val).retries = (chanOf s c.val).retries ∧ t.mem = s.mem) ∧
    (∃ t, Goes (.parityRetry c x .passes) s t ∧ (chanOf t c.val).attempts = 0 ∧ (chanOf t c.val).retries = (chanOf s c.val).retries ∧
      t.mem = s.mem) ∧
    (∀ l, Goes (.parityRetry c x (.retrained l)) s s)) ∧
  (∀ (s : State) (c : Fin 256) (x : Transfer) (l : List Nat), lanesBusy s c.val = true → (chanOf s c.val).retrain = true →
    (chanOf s c.val).spares ≤ 8 → ∃ u, Goes (.parityRetry c x (.retrained l)) s (settle (serveHeld u)) ∧ u.mem = s.mem ∧
    (chanOf u c.val).retrain = false ∧ (chanOf u c.val).spares = min 8 ((chanOf s c.val).spares + l.eraseDups.length) ∧
    ((chanOf s c.val).spares + l.eraseDups.length ≤ 8 → (chanOf u c.val).failed = (chanOf s c.val).failed) ∧
    (8 < (chanOf s c.val).spares + l.eraseDups.length → (chanOf u c.val).failed = true ∧ (chanOf u c.val).inService = false)) ∧
  (∀ (s : State) (c : Fin 256) (b : Fin 48), memAsleep s = false → ∃ t, Goes (.refresh c b) s t ∧ t.mem = s.mem ∧
    (c.val ∉ s.units.proc → nmGet? (chanOf t c.val).behind b.val = none) ∧
    (c.val ∈ s.units.proc → nmGet? (chanOf t c.val).behind b.val = some (min 4 (nmGet 0 (chanOf s c.val).behind b.val + 1)))) ∧
  (∀ (s : State) (st : Fin 4) (d : Fin 8) (w : BitVec 8), ∃ u, Goes (.hotRefreshWindow st d w) s (settle (serveHeld u)) ∧ u.mem = s.mem ∧
    ∀ c ∈ dieChannels st.val d.val, (chanOf u c).temp = w ∧
      (chanOf u c).hot = (if 85 < w.toNat then true else if w.toNat ≤ 82 then false else (chanOf s c).hot)) ∧
  (∀ (s : State) (c : Fin 256) (row : Nat) (b : Fin 48), c.val ∉ s.units.proc → (chanOf s c.val).failed = false → memAsleep s = false →
    (regGet s (dieBase (c.val / 64) + 0x210) 0x10018).getLsbD 16 = true →
    (s.mem.flips = [] → Goes (.patrolRead c row b []) s (settle s)) ∧
    (∀ k a e w, k < 32 → s.mem.flips = [(sectorId c.val b.val row k, e)] → row < 32768 - s.cfg.live.dmap.pRows →
      (sectorAddr s.cfg.live c.val row b.val k).bind (residentAt s) = some a → sectorAt s a = some (sectorId c.val b.val row k) →
      channelOf s a = some c.val → a / 64 ∉ s.mem.poison →
      cachedAt s a = false → rsDecode (flipBytes (rsWord (dRead s a 32)) e) = .corrected w → (w.take 32).length = 32 →
      ∃ t, Goes (.patrolRead c row b []) s (settle t) ∧ Laid s.mem.cells t.mem.cells a (w.take 32) ∧ t.mem.flips = [] ∧
        (chanOf t c.val).ce = satInc (chanOf s c.val).ce ∧ t.units.integ.ceNow = s.units.integ.ceNow + 1)) ∧
  (∀ s : State, ∃ t, Goes .ceWindowEnd s t ∧ t.units.integ.ceLast = BitVec.ofNat 32 (satTo 0xFFFFFFFF s.units.integ.ceNow) ∧
    t.units.integ.ceNow = 0 ∧ t.units.integ.ceBy = [] ∧ t.units.integ.log = s.units.integ.log ∧ t.mem = s.mem) ∧
  (∀ (s : State) (g : BitVec 38) (r : Refetch), r ∈ s.units.integ.refetch → r.granule = g.toNat → r.late = false →
    ∃ u, Goes (.refetchDeadline g) s (settle (serveHeld u)) ∧ u.mem = s.mem ∧
      ∀ x ∈ u.units.integ.refetch, x.granule = g.toNat → x.late = true)

/-- The code of a stored sector (R425, R426): a word of 32 data bytes and their check bytes decodes as clean; the word that marks poison
decodes as poisoned and is no code word (R550); and the decoder gives back every such word that an error confined to one symbol has
changed. All-zero data has all-zero check bytes. -/
def Obligations.SectorCode : Prop :=
  (∀ d : List Byte, d.length = 32 → (rsWord d).length = 36 ∧ rsDecode (rsWord d) = .clean) ∧
  rsDecode poisonWord = .poisoned ∧ (∀ d : List Byte, d.length = 32 → rsWord d ≠ poisonWord) ∧
  rsWord (List.replicate 32 0) = List.replicate 36 0 ∧
  (∀ (d : List Byte) (j : Nat) (v : Byte), d.length = 32 → j < 36 → v ≠ 0 →
    rsDecode (flipBytes (rsWord d) (List.replicate j 0 ++ [v])) = .corrected (rsWord d))

/-! ### Resets, start-up and power -/

/-- A COLD reset leaves every field at its cold value but for the fuses, the Husk and the queue (R701); a WARM reset keeps D-space, the
sync objects and the handles, clears S-space and stops fetch until start-up is over (R701, R702); a PORT reset takes its own modules or
port down and keeps memory (R704). Start-up goes on as the rules say: the spine (R36), the firmware (R709, R710), the Sprouts (R711), the
channels (R713), the capacity tier (R715), the UEs (R717), and BOOT_READY (R722). -/
def Obligations.ResetsAndStartUp : Prop :=
  (∀ (s : State) (c : Instr), c = .coldReset .resetN ∨ c = .coldReset .railLeavesRange → ∃ t, Goes c s t ∧ t.mem = { memReset with pIndex := s.free } ∧ t.regs = [] ∧
    t.syncs = [] ∧ t.fe = feReset ∧ t.cfg = cfgReset ∧ t.step = stepReset ∧ t.hz = fabricReset ∧
    t.units = { unitsReset with fuses := s.units.fuses, husk := s.units.husk } ∧ t.pending = s.pending) ∧
  (∀ (s : State) (v : RestartView), startedUp s = true → s.units.power.noUcie = false → s.units.power.noHz = false →
    let u := warmEnd s
    hasLeader (restartAcorns v (warmClear u)) = true → ∃ t, Goes (.warmReset .warmN v) s t ∧
      ((∀ c ∈ u.units.chans, c.2.failed = false) → t.mem.cells = u.mem.cells) ∧ t.mem.written = u.mem.written ∧ t.mem.prows = u.mem.prows ∧ t.mem.scells = [] ∧ t.syncs = u.syncs ∧ t.fe.ops = u.fe.ops ∧
      t.fe.counts = u.fe.counts ∧ t.units.fetchStop = true ∧ t.units.boot.warm = true ∧ t.units.boot.phase = 3 ∧
      t.units.totals = u.units.totals ∧ t.units.husk = u.units.husk ∧ t.hz.drop.dropped = true) ∧
  (∀ (s : State) (v : RestartView), startedUp s = false → Goes (.warmReset .warmN v) s s) ∧
  (∀ (s : State) (req : Requester) (v : Word), writeDenied s req 0x8C = none → s.units.boot.warm = false → 4 ≤ s.units.boot.phase →
    s.units.boot.resets.contains (v.toNat % 64) = false →
    (v.toNat % 64 < 16 → ∃ t, Goes (.portResetGroup req v) s t ∧ v.toNat % 64 ∈ t.units.boot.resets ∧
      (∀ k < 4, moduleUp t (4 * (v.toNat % 64) + k) = false) ∧ t.mem.cells = s.mem.cells ∧ t.syncs = s.syncs) ∧
    (16 ≤ v.toNat % 64 → v.toNat % 64 < 34 → ∃ t, Goes (.portResetHazel req v) s t ∧ (portOf t (v.toNat % 64 - 16)).up = false ∧
      (portOf t (v.toNat % 64 - 16)).unacked = (portOf s (v.toNat % 64 - 16)).unacked ∧
      (keepHigh s ((v.toNat % 64 - 16) / 2) = true → v.toNat % 64 ∈ t.units.boot.resets) ∧ t.mem = s.mem)) ∧
  (∀ (s : State) (l : List (SpineLink × Nat)), s.units.boot.phase = 1 → s.units.boot.spine = [] → ∃ t, Goes (.resetRelease l) s t ∧
    (∀ k < 14, spineMods t k = spineFound l k) ∧
    ((∃ k < 14, 2 * spineFound l k < spineSize k) → t.units.boot.join = true) ∧
    ((∀ k < 14, spineSize k ≤ 2 * spineFound l k) → t.units.boot.join = s.units.boot.join)) ∧
  (∀ (s : State) (f : FlashView), s.units.boot.phase = 1 → s.units.boot.spine ≠ [] →
    (f.sfdp = false ∨ f.quad = false → Goes (.firmwareBoot f) s (stopBoot 1 s)) ∧
    (f.sfdp = true → f.quad = true → bootSlot s f = none → Goes (.firmwareBoot f) s (stopBoot 2 s)) ∧
    (f.sfdp = true → f.quad = true → f.aPasses = true → ∀ b, bootSlot s f = some b → ∃ t, Goes (.firmwareBoot f) s t ∧
      t.units.boot.phase = 2 ∧ t.units.boot.fwSlot = b ∧ t.units.boot.svn = BitVec.ofNat 12 (slotSvn (flashSlot f.flash b)) ∧
      t.units.boot.fwCopy = acornSection (flashSlot f.flash b) ∧
      (acornOf t false).up = true ∧ (acornOf t true).up = (f.agree && f.bPasses) ∧ t.mem = s.mem)) ∧
  (∀ (s : State) (d : Fin 7), trainingOn s = true → hasLeader s = true →
    (∃ t, Goes (.sproutLoad d true) s t ∧ d.val ∈ t.units.boot.sprouts ∧ t.units.boot.join = s.units.boot.join) ∧
    (∃ t, Goes (.sproutLoad d false) s t ∧ d.val ∉ t.units.boot.sprouts ∧ t.units.boot.join = true ∧ t.hz.drop.dropped = true)) ∧
  (∀ (s : State) (c : Fin 256) (l : List Nat), trainingOn s = true → s.units.boot.trained.contains c.val = false →
    let bad := (l ++ retiredLanes s c.val).eraseDups
    ∃ t, Goes (.channelTraining c l) s t ∧ c.val ∈ t.units.boot.trained ∧ t.units.boot.phase = 3 ∧ t.mem = s.mem ∧
      (bad.length ≤ 8 → (chanOf t c.val).inService = true ∧ (chanOf t c.val).failed = false ∧ (chanOf t c.val).spares = bad.length) ∧
      (8 < bad.length → (chanOf t c.val).failed = true ∧ t.units.boot.join = true)) ∧
  (∀ (s : State) (f0 f1 : List Nat) (ok : Bool) (p : BitVec 3), trainingOn s = true → s.units.boot.lpDone = false →
    ∃ t, Goes (.lpddr5xTraining f0 f1 ok p) s t ∧ t.units.boot.lpDone = true ∧
      (fittingGood f0 = true → fittingGood f1 = true → f0.length = f1.length → ok = true → p ≠ 0 → t.units.tier.lpChannels = f0.length ∧
        t.units.boot.join = s.units.boot.join) ∧
      (fittingGood f0 = false ∨ fittingGood f1 = false ∨ f0.length ≠ f1.length ∨ ok = false → t.units.tier.lpChannels = 0 ∧
        t.units.boot.join = true)) ∧
  (∀ (s : State) (u : Fin 320) (ok : Bool), trainingOn s = true → ∃ t, Goes (.ueSelftest u ok) s t ∧
    t.units.ues.avail.getLsbD u.val = ok ∧ ∀ k < 320, k ≠ u.val → t.units.ues.avail.getLsbD k = s.units.ues.avail.getLsbD k) ∧
  (∀ s : State, trainingOn s = true → s.units.boot.trained.length = 256 → s.units.boot.lpDone = true → hasLeader s = true →
    ∃ w, w.mem = s.mem ∧ w.cfg = s.cfg ∧ (everyDieHasUe s = true → spineShort s = false → w = s) ∧
      (everyDieHasUe s = false ∨ spineShort s = true → w.units.boot.join = true) ∧
      (s.units.boot.warm = false → Goes .bootReady s (settle (serveHeld (updBoot w fun b => { b with phase := 4 })))) ∧
      (s.units.boot.warm = true → Goes .bootReady s (settle (serveHeld (warmFinish w)))))

/-- RETAIN: a request stops fetch, the entry waits for its conditions and puts the memories in self-refresh with their bytes kept, and a
refusal names the first condition that fails (R687, R688); WAKE acts over I3C alone (R691, R692); a rail that goes outside RETAIN is a COLD
reset (R690, R699). A module group enters and leaves L1, and a write that waits for its exit goes out then (R686). Droop, temperature and
draw set the limits that they are to set (R679, R680, R685), a throttled domain is reported once an episode (R684), and an occupancy record goes out with each change of the occupying
tenants and each heartbeat (R609). -/
def Obligations.PowerStates : Prop :=
  (∀ (s : State) (req : Requester) (v : Word), WriteOk s req 0x301C → v.getLsbD 1 = false → v.getLsbD 0 = true →
    s.units.power.state = 0 → startedUp s = true → 9 ∉ s.units.acorns.failed →
    ∃ u, Goes (.retain req v) s (answerWrite (settle (serveHeld u)) req stOk) ∧ u.units.power.state = 1 ∧ u.units.fetchStop = true ∧ u.mem = s.mem) ∧
  (∀ s : State, s.units.power.state = 1 →
    (retainWhy s = 0 → ∃ t, Goes .retainEntry s t ∧ t.units.power.state = 2 ∧ ((∀ c ∈ s.units.chans, c.2.failed = false) → t.mem.cells = s.mem.cells) ∧ t.mem.scells = [] ∧
      t.units.tier.selfRefresh = [0, 1] ∧ hasLeader t = false ∧ t.syncs = s.syncs ∧ t.cfg = s.cfg ∧ ∀ n, keepHigh t n = false) ∧
    (retainWhy s ≠ 0 → Goes .retainEntry s s ∧ ∃ u, Goes .retainRefuse s (settle u) ∧ u.units.power.state = 0 ∧
      u.units.power.refused = true ∧ u.units.power.why = retainWhy s ∧ u.units.fetchStop = false ∧ u.mem = s.mem)) ∧
  (∀ (s : State) (v : Word) (w : RestartView), WriteOk s .i3c 0x301C → v.getLsbD 1 = true → s.units.power.state = 2 →
    s.units.power.noUcie = false → s.units.power.noHz = false →
    ∃ u, Goes (.wake .i3c v w) s (answerWrite (settle (serveHeld u)) .i3c stOk) ∧ u.units.power.state = 0 ∧ u.units.fetchStop = false) ∧
  (∀ (s : State) (m : Fin 64) (t : BitVec 4) (tag : BitVec 16) (v : Word) (w : RestartView), WriteOk s (.host m t tag) 0x301C →
    v.getLsbD 1 = true → Goes (.wake (.host m t tag) v w) s (answerWrite s (.host m t tag) stPriv)) ∧
  (∀ (s : State) (a b : Bool), (a || b) = true → s.units.power.state ≠ 2 → Goes (.retainRailRemoval a b) s (coldReset s)) ∧
  (∀ (s : State) (a b : Bool), s.units.power.state = 2 → ∃ t, Goes (.retainRailRemoval a b) s t ∧
    t.units.power.noUcie = (s.units.power.noUcie || a) ∧ t.units.power.noHz = (s.units.power.noHz || b) ∧ t.mem.cells = s.mem.cells ∧
    (a = true → ∀ k < 64, moduleUp t k = false) ∧ (b = true → ∀ p < 18, (portOf t p).up = false)) ∧
  (∀ s : State, ∃ t, Goes .retainRailRestore s t ∧ t.units.power = { s.units.power with noUcie := false, noHz := false } ∧ t.mem = s.mem) ∧
  (∀ (s : State) (g : Fin 16), (groupUp s g.val = true → fld (regGet s 0x301C 0x6400) 8 16 ≠ 0 → ∃ t, Goes (.l1Entry g) s t ∧
      t.units.power.doze = insertNat g.val s.units.power.doze ∧ t.mem = s.mem ∧ t.fe = s.fe) ∧
    (∃ t, Goes (.l1Exit g) s t ∧ t.units.power.doze = s.units.power.doze.filter (fun k => k ≠ g.val) ∧ t.mem = s.mem ∧ t.fe.ops = s.fe.ops ∧
      (s.fe.heldCpl = [] → t.fe = s.fe) ∧
      (∀ a d, s.fe.heldCpl = [(g.val, a, d)] → groupUp s g.val = true → t.fe.heldCpl = [] ∧ t.fe.hostOut = s.fe.hostOut ++ [.cplWr g.val a d]))) ∧
  (∀ (s : State) (d : Fin 5), (∃ t, Goes (.droopFlag d) s t ∧ nmGet? t.units.power.droop d.val = some (max (paceFloor s)
      ((if (nmGet? s.units.power.droop d.val).isNone then domainRate s d.val else nmGet 255 s.units.power.droop d.val) - 64)) ∧
      regGet t (droopReg d.val) 0 = BitVec.ofNat 32 (satTo 0xFFFFFFFF ((regGet s (droopReg d.val) 0).toNat + 1)) ∧ t.mem = s.mem) ∧
    (∃ t, Goes (.droopLimitRise d) s t ∧ nmGet 255 t.units.power.droop d.val = min 255 (nmGet 255 s.units.power.droop d.val + 1) ∧
      t.mem = s.mem ∧ t.regs = s.regs)) ∧
  (∀ (s : State) (d : Fin 7) (a b : BitVec 8), ∃ t, Goes (.thermalLimit d a b) s t ∧ nmGet? t.units.power.temps d.val = some a ∧
    (a.toNat ≤ 100 → b.toNat ≤ 95 → nmGet 255 t.units.power.thermal d.val = 255) ∧
    (110 ≤ a.toNat → nmGet 255 t.units.power.thermal d.val = paceFloor s) ∧ t.mem = s.mem ∧ t.regs = s.regs) ∧
  (∀ (s : State) (x y z : BitVec 16) (l : List Nat), 9 ∉ s.units.acorns.failed → ∃ t, Goes (.powerEstimate x y l z) s t ∧
    t.units.power.short = x ∧ t.units.power.long = y ∧ t.units.power.pipDraw = z ∧ t.mem = s.mem ∧ t.regs = s.regs ∧
    (6400 < x.toNat ∨ paceCap s < y.toNat → t.units.power.power ≤ max (paceFloor s) s.units.power.power) ∧
    (x.toNat ≤ 6400 → y.toNat ≤ paceCap s → x.toNat ≤ paceCap s → min 255 s.units.power.power ≤ t.units.power.power)) ∧
  (∀ (s : State) (d : Fin 7), (domainRate s d.val < s.cfg.live.policy.throttleFloor → d.val ∉ s.units.power.episode →
      ∃ t, Goes (.throttle d) s t ∧ d.val ∈ t.units.power.episode ∧ t.mem = s.mem) ∧
    (d.val ∈ s.units.power.episode → Goes (.throttle d) s s)) ∧
  (∀ (s : State) (b : Bool), ∃ t, Goes (.timebaseSwitch b) s t ∧ t.units.power = { s.units.power with refclk := b } ∧ t.mem = s.mem) ∧
  (∀ s : State, s.units.boot.warm = false →
    (occupyMask s ≠ s.units.occ.mask → ∃ t r, Goes .switchRecord s t ∧ t.units.occ.sent = s.units.occ.sent ++ [r] ∧
      t.units.occ.mask = occupyMask s ∧ r = occupancyBytes t.units.occ.seq 0 (occupyMask s) ∧ r.length = 16 ∧ t.units.occ.seq ≠ 0) ∧
    (occupyMask s = s.units.occ.mask → Goes .switchRecord s s) ∧
    (∃ t, Goes .heartbeat s t ∧ t.units.occ.sent = s.units.occ.sent ++ [occupancyBytes t.units.occ.seq 1 (occupyMask s)] ∧
      t.units.occ.seq = (if s.units.occ.seq = BitVec.allOnes 32 then 1 else s.units.occ.seq + 1) ∧ t.mem = s.mem))

/-! ### The Husk -/

/-- The Husk meters on its own: an occupancy record with a wrong CRC is counted and applied to nothing, and a good one sets the mask,
counting a gap in SEQ, and stands for 3 ms (R648); a sample adds 16 µs of Husk time, and of the occupancy of every tenant in a mask
that stands (R641, R649); an interval that has reached its length closes into one record of
448 bytes, and energies go on (R647, R651); a wrong ROM checksum stops metering (R655); PFAIL closes the interval and power-up starts with
its counters as the rules say (R666, R667). Its I3C commands answer from its own state, ACK frees records (R661), ANCHOR takes a UTC
time (R663), and CONFIG is accepted only with HUSK_CFG_EN high (R657, R658). No Husk command changes the package's memories. -/
def Obligations.HuskMeters : Prop :=
  (∀ (s : State) (b : List Byte), metering s = true →
    (occupancyGood b = false → ∃ t, Goes (.occupancyRecord b) s t ∧ 
      t.units.husk = { s.units.husk with cur := { s.units.husk.cur with bad := s.units.husk.cur.bad + 1 } } ∧ t.mem = s.mem) ∧
    (occupancyGood b = true → ∃ t, Goes (.occupancyRecord b) s t ∧ t.units.husk.mask = some (BitVec.ofNat 16 (leNat ((b.drop 6).take 2))) ∧
      t.units.husk.maskAt = s.units.husk.time ∧
      t.units.husk.lastSeq = some (BitVec.ofNat 32 (leNat (b.take 4))) ∧
      (s.units.husk.lastSeq.map (· + 1) = some (BitVec.ofNat 32 (leNat (b.take 4))) → t.units.husk.cur = s.units.husk.cur) ∧ t.mem = s.mem)) ∧
  (∀ s : State, (s.units.husk.maskAt + 3000 ≤ s.units.husk.time → ∃ t, Goes .maskExpiry s t ∧
      t.units.husk = { s.units.husk with mask := none } ∧ t.mem = s.mem) ∧
    (s.units.husk.time < s.units.husk.maskAt + 3000 → Goes .maskExpiry s s)) ∧
  (∀ (s : State) (l : List HuskSample), s.units.husk.up = true → ∃ t, Goes (.huskSample l) s t ∧ t.units.husk.time = s.units.husk.time + 16 ∧
    t.units.husk.log = s.units.husk.log ∧ t.mem = s.mem ∧
    (s.units.husk.stopped = false → t.units.husk.cur.samples = s.units.husk.cur.samples + 1) ∧
    (s.units.husk.stopped = true → t.units.husk.cur = s.units.husk.cur) ∧
    (∀ m, s.units.husk.stopped = false → s.units.husk.mask = some m → s.units.husk.time + 16 ≤ s.units.husk.maskAt + 3000 →
      t.units.husk.cur.unknown = s.units.husk.cur.unknown ∧
      ∀ k : Fin 16, nmGet 0 t.units.husk.cur.occupy k.val = nmGet 0 s.units.husk.cur.occupy k.val + if m.getLsbD k.val then 16 else 0) ∧
    (∀ n, chanEnabled s.units.husk n = false → nmGet 0 t.units.husk.cur.energy n = nmGet 0 s.units.husk.cur.energy n)) ∧
  (∀ s : State, metering s = true → intervalUs s.units.husk ≤ s.units.husk.time - s.units.husk.cur.start → unacked s.units.husk < 4096 →
    ∃ t r, Goes .intervalClose s t ∧ t.units.husk.number = s.units.husk.number + 1 ∧ t.units.husk.cur.energy = s.units.husk.cur.energy ∧
      t.units.husk.cur.start = s.units.husk.time ∧ t.units.husk.cur.samples = 0 ∧ r.length = 448 ∧
      t.units.husk.log = logRecordHusk s.units.husk.log s.units.husk.number r ∧ t.mem = s.mem) ∧
  (∀ s : State, metering s = true → s.units.husk.time - s.units.husk.cur.start < intervalUs s.units.husk → Goes .intervalClose s s) ∧
  (∀ s : State, metering s = true → ∃ t, Goes .huskCheckpoint s t ∧
    t.units.husk = { s.units.husk with saved := s.units.husk.cur, savedNo := s.units.husk.number } ∧ t.mem = s.mem) ∧
  (∀ (s : State) (c : Word), s.units.husk.up = true → ∃ t, Goes (.romCheck c) s t ∧ t.units.husk.swcrc = c ∧ t.mem = s.mem ∧
    (c = romCrc → t.units.husk.stopped = s.units.husk.stopped ∧ t.units.husk.number = s.units.husk.number) ∧
    (c ≠ romCrc → t.units.husk.stopped = true)) ∧
  (∀ s : State, s.units.husk.up = true → ∃ t, Goes .pfail s t ∧ t.units.husk.up = false ∧ t.units.husk.mask = none ∧ t.mem = s.mem ∧
    (s.units.husk.stopped = false → unacked s.units.husk < 4096 → t.units.husk.number = s.units.husk.number + 1)) ∧
  (∀ (s : State) (c : Word) (a late : Bool), s.units.husk.up = false → ∃ t, Goes (.huskPowerUp c a false late) s t ∧ t.units.husk.up = true ∧
    t.units.husk.pcycles = s.units.husk.pcycles + 1 ∧ t.units.husk.cfgEn = a ∧ t.units.husk.swcrc = c ∧
    t.units.husk.stopped = decide (c ≠ romCrc) ∧ t.units.husk.mask = none ∧ t.units.husk.snap = 0 ∧ t.mem = s.mem) ∧
  (∀ s : State, s.units.husk.up = true → ∃ t, Goes .huskCfgEnRise s t ∧ t.units.husk.cfgEn = true ∧
    t.units.husk.events.toNat = min 4095 (s.units.husk.events.toNat + 1) ∧ t.units.husk.cur.flags.getLsbD 4 = true ∧ t.mem = s.mem) ∧
  (∀ s : State, s.units.husk.up = true → ∃ t, Goes .mirrorSnapshot s t ∧ t.units.husk.snap = s.units.husk.snap + 1 ∧
    t.units.mirror = ⟨snapshotWords t.units.husk, true⟩ ∧ t.mem = s.mem) ∧
  (∀ s : State, ∃ t, Goes .mirrorLinkLoss s t ∧ t.units.mirror = { s.units.mirror with link := false } ∧ t.mem = s.mem) ∧
  (∀ s : State, s.units.husk.up = true → let h := s.units.husk
    let identBytes := fun (h : Husk) => swid ++ leBytes 4 h.swcrc.toNat ++ leBytes 4 h.events.toNat ++ leBytes 2 (liveSlot h) ++
      padTo 16 0 (Config.huskSerial.take 16)
    let statusBytes := fun (h : Husk) => leBytes 4 h.number ++ leBytes 4 (h.acked + 1) ++ leBytes 2 (unacked h) ++
      leBytes 4 h.cur.flags.toNat ++ leBytes 1 (if h.cfgEn then 1 else 0) ++ leBytes 1 h.result
    let liveBytes := fun (h : Husk) => leBytes 8 h.time ++ energyBytes h.cur ++ leBytes 2 (standingMask h).toNat
    (∃ t, Goes .huskIdent s t ∧ t.units.husk = { h with reply := identBytes h } ∧ t.mem = s.mem) ∧
    (unacked h ≠ 0 → ∃ t, Goes .huskStatus s t ∧ t.units.husk = { h with reply := statusBytes h }) ∧
    (∀ n : Word, ∃ t, Goes (.readRec n) s t ∧
      t.units.husk = { h with reply := (nmGet? h.log n.toNat).getD (leBytes 4 0) } ∧ t.mem = s.mem) ∧
    (∃ t, Goes .key s t ∧ t.units.husk = { h with reply := padTo 65 0 (Config.huskKey.take 65) ++ padTo 96 0 (Config.huskCert.take 96) }) ∧
    (∃ t, Goes .live s t ∧ t.units.husk = { h with reply := liveBytes h }) ∧
    (∀ u : DWord, ∃ t, Goes (.anchor u) s t ∧ 
      t.units.husk = { h with anchorUtc := u, anchorUs := h.time, cur := { h.cur with flags := h.cur.flags ||| 512 }, reply := [0] }) ∧
    (∀ n : Word, (h.number ≤ n.toNat → ∃ t, Goes (.ack n) s t ∧ t.units.husk = { h with reply := [1] }) ∧
      (n.toNat < h.number → h.cur.flags.getLsbD 2 = false → ∃ t, Goes (.ack n) s t ∧
        t.units.husk = { h with acked := max h.acked n.toNat, reply := [0] })) ∧
    (∀ b : List Byte, b.length = 160 →
      (h.cfgEn = false → ∃ t, Goes (.config b) s t ∧ t.units.husk = { h with result := 2, reply := [1] }) ∧
      (configGood h b = true → unacked h < 4096 → ∃ t, Goes (.config b) s t ∧ t.units.husk.blocks = h.blocks ++ [b] ∧
        t.units.husk.result = 1 ∧ t.units.husk.reply = [0] ∧ (h.stopped = false → t.units.husk.number = h.number + 1) ∧
        t.units.husk.events.toNat = h.events.toNat + 1)) ∧
    (∀ b : List Byte, huskKnown b = false → ∃ t, Goes (.huskBadCommand b) s t ∧ t.units.husk = { h with reply := [0xEE] } ∧ t.mem = s.mem))

/-! ### Test access -/

/-- The test access port: with no pin-driving instruction active and no STACK_TEST to leave, loading an instruction selects its data
register and, for those that act, has its effect (R758, R759, R762, R763, R764); where an image is live the test instructions select the
bypass register and do nothing (R760); leaving an instruction that drives the pins is a COLD reset (R761). -/
def Obligations.TestPort : Prop :=
  (∀ s : State, drivesPins (activeIr s) = false → activeIr s ≠ 0x10 → testerDown s = false →
    (∃ t, Goes .idcode s t ∧ t.units.tap.ir = 0x01 ∧ t.units.tap.dr = 0x1E040FD9 ∧ t.units.tap.drLen = 32 ∧ t.mem = s.mem) ∧
    (∃ t, Goes .samplePreload s t ∧ t.units.tap.ir = 0x02 ∧ t.mem = s.mem ∧ t.cfg = s.cfg) ∧
    (∃ t, Goes .bypass s t ∧ t.units.tap = { s.units.tap with ir := 0xFF, refused := false, irOut := capturedIr s, dr := 0, drLen := 1 } ∧ t.mem = s.mem) ∧
    (∀ k : BitVec 2, ∃ t, Goes (.stackSel k) s t ∧ t.units.tap.stack = k ∧ t.units.tap.dr = k.toNat ∧ t.units.tap.drLen = 2 ∧ t.mem = s.mem) ∧
    (∀ d : BitVec 3, ∃ t, Goes (.coreDie d) s t ∧ t.units.tap.core = d ∧ t.units.tap.drLen = 3 ∧ t.mem = s.mem) ∧
    (∀ off : Word, ReadOk s .tap off.toNat → ∃ u, u.units.tap = { s.units.tap with ir := 0x20, refused := false, irOut := capturedIr s, dr := 0, drLen := 40 } ∧
      u.mem = s.mem ∧ u.regs = s.regs ∧ Goes (.regRead off) s (answerRead (regRead u .tap off.toNat).1 .tap stOk (regRead u .tap off.toNat).2)) ∧
    (∃ t, Goes .tapReset s t ∧ t.units.tap = { tapReset with bounds := s.units.tap.bounds, out := s.units.tap.out } ∧ t.mem = s.mem) ∧
    Goes .testModeExit s s ∧
    (s.cfg.live.isImage = false →
      (∀ c ∈ [Instr.extest, .clamp, .highz, .stackTest, .coreTest []], ∃ t, Goes c s t ∧ t.units.tap.refused = false ∧ t.mem = s.mem ∧
        (c = .extest → drivesPins (activeIr t) = true) ∧ (c = .clamp → drivesPins (activeIr t) = true) ∧
        (c = .highz → drivesPins (activeIr t) = true) ∧
        (c = .stackTest → ∀ n ∈ stackChannels s.units.tap.stack.toNat, n ∈ t.units.margin)) ∧
      (∀ l : List CoreId, ∃ t, Goes (.coreTest l) s t ∧ ((∀ c ∈ s.units.chans, c.2.failed = false) → t.mem = s.mem) ∧
        (∀ x ∈ l, coreOnDie s.units.tap.core.toNat x = true → x ∈ t.units.tap.out) ∧
        (∀ n : Fin 320, CoreId.ue n ∈ l → coreOnDie s.units.tap.core.toNat (.ue n) = true → t.units.ues.avail.getLsbD n.val = false))) ∧
    (s.cfg.live.isImage = true → ∀ c ∈ [Instr.extest, .clamp, .highz, .stackTest, .coreTest []], ∃ t, Goes c s t ∧
      t.units.tap.refused = true ∧ t.units.tap.drLen = 1 ∧ t.mem = s.mem ∧ t.units.margin = s.units.margin)) ∧
  (∀ s : State, drivesPins (activeIr s) = true →
    Goes .testModeExit s (coldReset s) ∧ Goes .tapReset s (coldReset s) ∧ Goes .idcode s (coldReset s) ∧ Goes .bypass s (coldReset s))

/-- Margin runs, lane retirement and the read-out of test lanes: a START of a run on a unit in service holds what it tests and its end
gives back DONE and the errors (R445, R742, R744); where an image is live each is refused (R445, R547, R766); a lane is retired once
(R766, R767); RESTART places a lane at draw 0 and STEP reads the next draw of its stream (R547). -/
def Obligations.TestRegisters : Prop :=
  (∀ (s : State) (req : Requester) (n : Fin 4) (v : Word), WriteOk s req (dieBase n.val + 0x300) → v.getLsbD 24 = true →
    (runRefused s n.val = true → ∃ t, Goes (.marginRun req n v) s (answerWrite t req stOk) ∧
      (regGet t (dieBase n.val + 0x304) 0).getLsbD 1 = true ∧ t.units = s.units ∧ t.mem = s.mem) ∧
    (runRefused s n.val = false → ∃ t, Goes (.marginRun req n v) s (answerWrite t req stOk) ∧
      (64 * n.val + v.toNat % 64) ∈ t.units.margin ∧ (∃ r ∈ t.units.runs, r.run = n.val ∧ r.started = true) ∧
      (regGet t (dieBase n.val + 0x304) 0).getLsbD 0 = false ∧ t.mem = s.mem)) ∧
  (∀ (s : State) (req : Requester) (n : Fin 4) (v : Word), WriteOk s req (dieBase n.val + 0x310) → v.getLsbD 24 = true →
    runRefused s (4 + n.val) = false →
    (v.toNat % 32 < 16 → moduleUp s (16 * n.val + v.toNat % 32) = true → ∃ t, Goes (.umarginRun req n v) s (answerWrite t req stOk) ∧
      (∃ r ∈ t.units.runs, r.run = 4 + n.val ∧ r.started = false ∧ r.module = some (16 * n.val + v.toNat % 32)) ∧ t.fe = s.fe ∧ t.mem = s.mem) ∧
    (v.toNat % 32 < 16 → moduleUp s (16 * n.val + v.toNat % 32) = false → ∃ t, Goes (.umarginRun req n v) s (answerWrite t req stOk) ∧
      (regGet t (dieBase n.val + 0x314) 0).getLsbD 1 = true ∧ t.units = s.units) ∧
    (16 ≤ v.toNat % 32 → umarginServes s n.val (v.toNat % 32) = true → ∃ (l : Nat) (t : State), umarginLink n.val (v.toNat % 32) = some l ∧
      Goes (.umarginRun req n v) s (answerWrite t req stOk) ∧ spineMods t l = spineMods s l ∧ carryMods t l = carryMods s l - 1 ∧
      (∃ r ∈ t.units.runs, r.run = 4 + n.val ∧ r.started = true ∧ r.module = none) ∧ t.mem = s.mem)) ∧
  (∀ (s : State) (n : Fin 4) (r : MarginRun), waitingRun s n.val = some r →
    Goes (.umarginPartnerStart n) s (beginRun r (resultReg r.run) s) ∧
    (∀ k, r.module = some k → moduleUp (beginRun r (resultReg r.run) s) k = false) ∧
    (∃ t, Goes (.umarginPartnerTimeout n) s t ∧ waitingRun t n.val = none ∧ (regGet t (resultReg r.run) 0).getLsbD 1 = true ∧ t.fe = s.fe)) ∧
  (∀ (s : State) (req : Requester) (m : Fin 2) (v : Word), WriteOk s req (dieBase (4 + m.val) + 0x300) → v.getLsbD 24 = true →
    runRefused s (8 + m.val) = false → v.getLsbD 12 = false → v.toNat % 32 < s.units.tier.lpChannels →
    ∃ t, Goes (.tbMarginRun req m v) s (answerWrite t req stOk) ∧
      (∃ r ∈ t.units.runs, r.run = 8 + m.val ∧ r.started = true ∧ r.bridge = some (32 * m.val + v.toNat % 32)) ∧ t.mem = s.mem) ∧
  (∀ (s : State) (k : Fin 10) (e : BitVec 32) (r : MarginRun), s.units.runs.find? (fun r => r.run = k.val && r.started) = some r →
    r.module = none → ∃ u, Goes (.marginRunEnd k e) s (releaseChannels u r.chans) ∧
      (∀ x ∈ u.units.runs, x.run ≠ k.val) ∧ regGet u (resultReg k.val) 0 = (regGet s (resultReg k.val) 0 &&& 2) |||
        BitVec.ofNat 32 (1 + satTo 0xFFFFFF e.toNat * 256) ∧ u.mem = s.mem) ∧
  (∀ (s : State) (req : Requester) (d : Fin 6) (v : Word), WriteOk s req (dieBase d.val + 0x320) → v.getLsbD 24 = true →
    let l := nmGet [] s.units.fuses.retired d.val
    let e := retireEntry d.val v
    (s.cfg.live.isImage = true → ∃ t, Goes (.laneRetire req d v) s (answerWrite t req stOk) ∧ t.units = s.units ∧
      (regGet t (dieBase d.val + 0x324) 0x200).getLsbD 8 = true) ∧
    (s.cfg.live.isImage = false → testerDown s = false → retireRange d.val v = true → e ∉ l → l.length < retireRoom d.val →
      ∃ t, Goes (.laneRetire req d v) s (answerWrite t req stOk) ∧ nmGet [] t.units.fuses.retired d.val = l ++ [e] ∧
        (∀ k, k ≠ d.val → nmGet [] t.units.fuses.retired k = nmGet [] s.units.fuses.retired k) ∧ t.mem = s.mem) ∧
    (s.cfg.live.isImage = false → testerDown s = false → retireRange d.val v = true → e ∈ l →
      ∃ t, Goes (.laneRetire req d v) s (answerWrite t req stOk) ∧ t.units = s.units)) ∧
  (∀ (s : State) (req : Requester) (d : Fin 6) (v : Word), WriteOk s req (dieBase d.val + 0x600) → s.cfg.live.isImage = false →
    testerDown s = false → v.toNat % 1024 < laneCount d.val →
    (v.getLsbD 16 = true → v.getLsbD 17 = false → ∃ t, Goes (.rngTestRestart req d v) s (answerWrite t req stOk) ∧
      nmGet? t.units.rngTest (1024 * d.val + v.toNat % 1024) = some 0 ∧ t.mem = s.mem) ∧
    (∀ k, v.getLsbD 16 = false → v.getLsbD 17 = true → nmGet? s.units.rngTest (1024 * d.val + v.toNat % 1024) = some k →
      ∃ t, Goes (.rngTestStep req d v) s (answerWrite t req stOk) ∧
        regGet t (dieBase d.val + 0x604) 0 = genDraw (genAt (planeTenant s.cfg.live 0).seed (firstLane d.val + v.toNat % 1024) k) ∧
        nmGet? t.units.rngTest (1024 * d.val + v.toNat % 1024) = some (k + 1) ∧ t.mem = s.mem))

/-! ### Memory, reset and the invariant -/

/-- The memories: after a write each byte of the range reads as written and every other byte as before (R84), in D-space and in S-space
(whose bytes that UE work has left open read as before too, log 66), reads take the bytes that lie there, and writing, and marking a range
never-written, keep the canonical form. -/
def Obligations.MemoryLaws : Prop :=
  (∀ (m : List Host.Cell) (a : Nat) (bs : List Byte), Laid m (memWrite m a bs) a bs ∧ (cellsWf m = true → cellsWf (memWrite m a bs) = true)) ∧
  (∀ (m : List Host.Cell) (a n : Nat), cellsWf m = true → memRead m a n = (List.range n).map fun i => memGet m (a + i)) ∧
  (∀ (m : List Host.Cell) (a : Nat) (bs : List Byte), cellsWf m = true → memRead (memWrite m a bs) a bs.length = bs) ∧
  (∀ (m k : List Host.Cell), cellsWf m = true → cellsWf k = true → (∀ a, memGet m a = memGet k a) → m = k) ∧
  (∀ (s : State) (a : Nat) (bs : List Byte), Memory.wf s.mem = true → sRead (sWrite s a bs) a bs.length = bs ∧
    ∀ b n, meets a bs.length b n = false → sRead (sWrite s a bs) b n = sRead s b n) ∧
  (∀ (s : State) (g n : Nat), Memory.wf s.mem = true → Memory.wf (freshen s g n).mem = true ∧
    (∀ a, memGet (freshen s g n).mem.cells a = if g * 4096 ≤ a ∧ a < (g + n) * 4096 then 0 else memGet s.mem.cells a)) ∧
  (∀ (s : State) (a : Nat) (bs : List Byte), NoFailed s → poisonCut s a bs.length = false → Laid s.mem.cells (dWrite s a bs).mem.cells a bs)

/-- The package right after a COLD reset: the memories hold nothing written (R93, R551), the front end is empty, the sync objects read 0, the
boot configuration is live and nothing is staged (R199), no step, sweep or group is in progress, and no Acorn leads. -/
def Obligations.ResetState : Prop :=
  Memory.wf State.reset.mem = true ∧ (∀ a, memGet State.reset.mem.cells a = 0 ∧ memGet State.reset.mem.scells a = 0) ∧
  (∀ a n, 0 < n → freshIn State.reset a n ≠ 0) ∧ (∀ k, syncGet State.reset k = 0) ∧ State.reset.pending = [] ∧ State.reset.fe.ops = [] ∧
  State.reset.cfg.live = bootPlane ∧ State.reset.cfg.staged = false ∧ State.reset.cfg.isSealed = false ∧ State.reset.step.runs = [] ∧
  State.reset.step.sweeps = [] ∧ State.reset.step.txgs = [] ∧ hasLeader State.reset = false ∧ State.reset.hz.drop.learned = [] ∧
  (regRead State.reset .tap 0x3000).2 = 0x0230FF1F ∧ (regRead State.reset .tap 0x2004).2 = 0x3F ∧ State.reset.units.power.state = 0 ∧
  State.reset.units.acorns.cupule.epoch = 1 ∧ (∀ c < 256, (chanOf State.reset c).failed = false ∧ (chanOf State.reset c).inService = false)

/-- Every step keeps the canonical form of D-space and of S-space: whatever the command, from every state in which both hold it. -/
def Obligations.StepKeepsMemoryForm : Prop :=
  ∀ s t : State, Memory.wf s.mem = true → step s = .next t → Memory.wf t.mem = true
end

