-- ==== Sys2Proof/Laws/Lists.lean ====
section
/-! SUPPORT. Lengths of the byte strings that commands write. -/

namespace Sys2Proof.Machine

@[simp] theorem leBytes_length (n v : Nat) : (leBytes n v).length = n := by
  induction n generalizing v with
  | zero => rfl
  | succ n ih => simp [leBytes, ih]

@[simp] theorem padTo_length {α : Type} (n : Nat) (z : α) (l : List α) : (padTo n z l).length = max n l.length := by
  simp only [padTo, List.length_append, List.length_replicate]; omega

theorem padTo_eq_self {α : Type} (n : Nat) (z : α) (l : List α) (h : n ≤ l.length) : padTo n z l = l := by
  simp [padTo, Nat.sub_eq_zero_of_le h]

theorem countBytes_length (o : Op) : (countBytes o).length = 8 := by
  unfold countBytes; split <;> simp

theorem eventBytes_length (seq : Word) (e : EvtEntry) : (eventBytes seq e).length = 32 := by simp [eventBytes]

theorem ctxSection_length (l : List Byte) : (ctxSection l).length = upto4k l.length := by
  rw [ctxSection, padTo_length]; simp only [upto4k]; omega

theorem ctxHeader_length (s : State) (t : BitVec 4) : (ctxHeader s t).length = 256 := by
  simp only [ctxHeader, padTo_length, List.length_append, leBytes_length, List.length_singleton]; decide

theorem ctxQueue_length (s : State) (q : Nat) : (ctxQueue s q).length = 32 := by
  simp only [ctxQueue, List.length_append, leBytes_length]

theorem ctxSync_length (s : State) (id : Nat) : (ctxSync s id).length = 16 := by
  simp only [ctxSync, List.length_append, leBytes_length]

end Sys2Proof.Machine
end

