-- ==== Sys2Proof/Laws/Memory.lean ====
section
/-! SUPPORT. Laws of the number maps and of the byte memories: reads after writes, and that every memory operation keeps the
canonical form. -/

namespace Sys2Proof.Machine

/-! ### Number maps -/

theorem nmGet?_nmSet {α : Type} (m : NMap α) (i j : Nat) (v : α) :
    nmGet? (nmSet m i v) j = if j = i then some v else nmGet? m j := by
  induction m with
  | nil => rfl
  | cons x m ih =>
    simp only [nmSet]
    split
    · simp [nmGet?]
    · split
      · simp only [nmGet?]; split <;> simp_all
      · simp only [nmGet?, ih]; split <;> split <;> simp_all

@[simp] theorem nmGet?_nmSet_self {α : Type} (m : NMap α) (i : Nat) (v : α) : nmGet? (nmSet m i v) i = some v := by
  simp [nmGet?_nmSet]

@[simp] theorem nmGet_nmSet_self {α : Type} (d : α) (m : NMap α) (i : Nat) (v : α) : nmGet d (nmSet m i v) i = v := by
  simp [nmGet]

theorem nmGet_nmSet_ne {α : Type} (d : α) (m : NMap α) {i j : Nat} (v : α) (h : j ≠ i) : nmGet d (nmSet m i v) j = nmGet d m j := by
  simp [nmGet, nmGet?_nmSet, h]

theorem mem_nmSet {α : Type} (m : NMap α) (i : Nat) (v : α) (e : Nat × α) (h : e ∈ nmSet m i v) : e = (i, v) ∨ e ∈ m := by
  induction m with
  | nil => exact .inl (by simpa [nmSet] using h)
  | cons x m ih =>
    simp only [nmSet] at h
    split at h
    · rcases List.mem_cons.1 h with rfl | h
      · exact .inl rfl
      · exact .inr h
    · split at h
      · rcases List.mem_cons.1 h with rfl | h
        · exact .inl rfl
        · exact .inr (List.mem_cons_of_mem _ h)
      · rcases List.mem_cons.1 h with rfl | h
        · exact .inr (List.mem_cons_self ..)
        · exact (ih h).imp_right (List.mem_cons_of_mem _)

theorem nmGet?_mem {α : Type} (m : NMap α) (i : Nat) (v : α) (h : nmGet? m i = some v) : (i, v) ∈ m := by
  induction m with
  | nil => simp [nmGet?] at h
  | cons x m ih =>
    simp only [nmGet?] at h
    split at h
    · next he => cases h; subst he; exact List.mem_cons_self ..
    · exact List.mem_cons_of_mem _ (ih h)

/-! ### The canonical form -/

/-- The canonical form in the words of list lemmas. -/
theorem cellsWf_iff (m : List Host.Cell) : cellsWf m = true ↔ (∀ c ∈ m, c.2 ≠ 0) ∧ m.Pairwise fun c d => c.1 < d.1 := by
  induction m with
  | nil => simp [cellsWf]
  | cons c m ih =>
    cases m with
    | nil => simp [cellsWf]
    | cons d m =>
      simp only [cellsWf, Bool.and_eq_true, ih, decide_eq_true_eq]
      constructor
      · rintro ⟨⟨hc, hd⟩, hz, hp⟩
        refine ⟨List.forall_mem_cons.2 ⟨hc, hz⟩, List.pairwise_cons.2 ⟨List.forall_mem_cons.2 ⟨hd, fun e he => ?_⟩, hp⟩⟩
        exact Nat.lt_trans hd ((List.pairwise_cons.1 hp).1 e he)
      · rintro ⟨hz, hp⟩
        rw [List.forall_mem_cons] at hz
        rw [List.pairwise_cons] at hp
        exact ⟨⟨hz.1, hp.1 d List.mem_cons_self⟩, hz.2, hp.2⟩

theorem cellsWf_filter (m : List Host.Cell) (p : Host.Cell → Bool) (h : cellsWf m = true) : cellsWf (m.filter p) = true := by
  rw [cellsWf_iff] at h ⊢
  exact ⟨fun c hc => h.1 c (List.mem_of_mem_filter hc), h.2.filter p⟩

theorem cellsWf_append (m k : List Host.Cell) (hm : cellsWf m = true) (hk : cellsWf k = true) (h : ∀ c ∈ m, ∀ d ∈ k, c.1 < d.1) :
    cellsWf (m ++ k) = true := by
  rw [cellsWf_iff] at hm hk ⊢
  refine ⟨fun c hc => (List.mem_append.1 hc).elim (hm.1 c) (hk.1 c), List.pairwise_append.2 ⟨hm.2, hk.2, h⟩⟩

/-- A list with a range taken out keeps the form. -/
theorem cellsWf_cut (m : List Host.Cell) (a b : Nat) (hab : a ≤ b) (h : cellsWf m = true) :
    cellsWf (m.filter (fun c => c.1 < a) ++ m.filter (fun c => b ≤ c.1)) = true := by
  refine cellsWf_append _ _ (cellsWf_filter _ _ h) (cellsWf_filter _ _ h) fun c hc d hd => ?_
  simp only [List.mem_filter, decide_eq_true_eq] at hc hd
  omega

theorem mem_cellsOf (bs : List Byte) : ∀ (a : Nat) (c : Host.Cell), c ∈ cellsOf a bs → a ≤ c.1 ∧ c.1 < a + bs.length ∧ c.2 ≠ 0 := by
  induction bs with
  | nil => intro a c h; cases h
  | cons b bs ih =>
    intro a c h
    simp only [cellsOf] at h
    split at h
    · have h' := ih (a + 1) c h; exact ⟨by omega, by simp only [List.length_cons]; omega, h'.2.2⟩
    · rcases List.mem_cons.1 h with rfl | h
      · exact ⟨Nat.le_refl _, by simp, ‹_›⟩
      · have h' := ih (a + 1) c h; exact ⟨by omega, by simp only [List.length_cons]; omega, h'.2.2⟩

theorem cellsOf_wf (bs : List Byte) : ∀ a : Nat, cellsWf (cellsOf a bs) = true := by
  induction bs with
  | nil => intro a; rfl
  | cons b bs ih =>
    intro a
    simp only [cellsOf]
    split
    · exact ih _
    · have hw := ih (a + 1)
      rw [cellsWf_iff] at hw ⊢
      refine ⟨List.forall_mem_cons.2 ⟨‹_›, hw.1⟩, List.pairwise_cons.2 ⟨fun c hc => ?_, hw.2⟩⟩
      have := mem_cellsOf bs (a + 1) c hc; omega

/-- Writing keeps the form. -/
theorem memWrite_wf (m : List Host.Cell) (a : Nat) (bs : List Byte) (h : cellsWf m = true) : cellsWf (memWrite m a bs) = true := by
  refine cellsWf_append _ _ (cellsWf_filter _ _ h) (cellsWf_append _ _ (cellsOf_wf bs a) (cellsWf_filter _ _ h) ?_) ?_
  · intro c hc d hd
    have := mem_cellsOf bs a c hc
    simp only [List.mem_filter, decide_eq_true_eq] at hd
    omega
  · intro c hc d hd
    simp only [List.mem_filter, decide_eq_true_eq] at hc
    rcases List.mem_append.1 hd with hd | hd
    · have := mem_cellsOf bs a d hd; omega
    · simp only [List.mem_filter, decide_eq_true_eq] at hd; omega

/-! ### Reading a byte -/

@[simp] theorem memGet_nil (x : Nat) : memGet [] x = 0 := rfl

theorem memGet_append (m k : List Host.Cell) (x : Nat) : memGet (m ++ k) x = if ∃ c ∈ m, c.1 = x then memGet m x else memGet k x := by
  induction m with
  | nil => simp
  | cons c m ih =>
    simp only [List.cons_append, memGet]
    by_cases h : c.1 = x
    · simp [h]
    · simp [h, ih]

theorem memGet_of_notMem (m : List Host.Cell) (x : Nat) (h : ∀ c ∈ m, c.1 ≠ x) : memGet m x = 0 := by
  induction m with
  | nil => rfl
  | cons c m ih =>
    rw [List.forall_mem_cons] at h
    simp only [memGet, if_neg h.1, ih h.2]

/-- A filter by address keeps what lies inside it and reads 0 elsewhere. -/
theorem memGet_filter (m : List Host.Cell) (p : Nat → Bool) (x : Nat) :
    memGet (m.filter fun c => p c.1) x = if p x then memGet m x else 0 := by
  induction m with
  | nil => simp
  | cons c m ih =>
    simp only [List.filter_cons]
    by_cases hc : p c.1 = true
    · rw [if_pos hc]; simp only [memGet, ih]
      by_cases hx : c.1 = x
      · subst hx; simp [hc]
      · simp [hx]
    · rw [if_neg hc, ih]; simp only [memGet]
      by_cases hx : c.1 = x
      · subst hx; simp [hc]
      · simp [hx]

theorem memGet_cellsOf (bs : List Byte) : ∀ a x : Nat,
    memGet (cellsOf a bs) x = if a ≤ x ∧ x < a + bs.length then bs.getD (x - a) 0 else 0 := by
  induction bs with
  | nil => intro a x; simp [cellsOf]
  | cons b bs ih =>
    intro a x
    have h0 : memGet (cellsOf a (b :: bs)) x = if x = a then b else memGet (cellsOf (a + 1) bs) x := by
      simp only [cellsOf]
      split
      · by_cases hx : x = a
        · subst hx
          rw [if_pos rfl, memGet_of_notMem]
          · exact ‹b = 0›.symm
          · intro c hc; have := mem_cellsOf bs (x + 1) c hc; omega
        · rw [if_neg hx]
      · simp only [memGet, eq_comm]
    rw [h0, ih]
    by_cases hx : x = a
    · subst hx; simp
    · rw [if_neg hx]
      by_cases hr : a + 1 ≤ x ∧ x < a + 1 + bs.length
      · rw [if_pos hr, if_pos (by simp only [List.length_cons]; omega)]
        obtain ⟨k, rfl⟩ : ∃ k, x = a + 1 + k := ⟨x - (a + 1), by omega⟩
        rw [show a + 1 + k - (a + 1) = k by omega, show a + 1 + k - a = k + 1 by omega]
        simp
      · rw [if_neg hr, if_neg (by simp only [List.length_cons]; omega)]

/-- After a write each byte of its range reads as written, and every other byte as before. -/
theorem memGet_memWrite (m : List Host.Cell) (a : Nat) (bs : List Byte) (x : Nat) :
    memGet (memWrite m a bs) x = if a ≤ x ∧ x < a + bs.length then bs.getD (x - a) 0 else memGet m x := by
  have hlo := memGet_filter m (fun k => decide (k < a)) x
  have hhi := memGet_filter m (fun k => decide (a + bs.length ≤ k)) x
  have hmid := memGet_cellsOf bs a x
  by_cases h1 : x < a
  · rw [if_neg (by omega)]
    simp only [decide_eq_true_eq, h1, if_true] at hlo
    unfold memWrite
    rw [memGet_append]
    split
    · exact hlo
    · next hn =>
      have hz : memGet (m.filter fun c => decide (c.1 < a)) x = 0 := memGet_of_notMem _ _ fun c hc he => hn ⟨c, hc, he⟩
      rw [← hlo, hz, memGet_of_notMem]
      intro c hc he
      rcases List.mem_append.1 hc with hc | hc
      · have := mem_cellsOf bs a c hc; omega
      · simp only [List.mem_filter, decide_eq_true_eq] at hc; omega
  · have hlow : memGet (memWrite m a bs) x = memGet (cellsOf a bs ++ m.filter fun c => decide (a + bs.length ≤ c.1)) x := by
      unfold memWrite
      rw [memGet_append, if_neg]
      rintro ⟨c, hc, he⟩
      simp only [List.mem_filter, decide_eq_true_eq] at hc; omega
    rw [hlow]
    by_cases h2 : x < a + bs.length
    · have hr : a ≤ x ∧ x < a + bs.length := ⟨by omega, h2⟩
      rw [if_pos hr] at hmid ⊢
      rw [memGet_append]
      split
      · exact hmid
      · next hn =>
        rw [← hmid, memGet_of_notMem _ _ fun c hc he => hn ⟨c, hc, he⟩, memGet_of_notMem]
        intro c hc he
        simp only [List.mem_filter, decide_eq_true_eq] at hc; omega
    · rw [if_neg (fun h => h2 h.2), memGet_append, if_neg]
      · simpa [show a + bs.length ≤ x by omega] using hhi
      · rintro ⟨c, hc, he⟩; have := mem_cellsOf bs a c hc; omega

/-! ### The named memory operations keep both memories in canonical form -/

theorem Memory.wf_iff (m : MemState) : Memory.wf m = true ↔ cellsWf m.cells = true ∧ cellsWf m.scells = true := by
  simp [Memory.wf]

theorem Memory.wf_reset : Memory.wf State.reset.mem = true := rfl

/-! What an access does to the units before it reaches a cell: held channels return to memory mode, owed REFs come, cached sectors
become dirty. It changes the units alone. -/

theorem catchUp_only (s : State) (c : Nat) : catchUp s c = { s with units := (catchUp s c).units } := by
  unfold catchUp; split <;> rfl

theorem only_units_foldl {α : Type} (f : State → α → State) (hf : ∀ s x, f s x = { s with units := (f s x).units }) :
    ∀ (l : List α) (s : State), l.foldl f s = { s with units := (l.foldl f s).units }
  | [], _ => rfl
  | x :: l, s => by
    have h := only_units_foldl f hf l (f s x)
    rw [List.foldl_cons, h, hf s x]

theorem releaseHold_only (s : State) (a n : Nat) : releaseHold s a n = { s with units := (releaseHold s a n).units } := by
  unfold releaseHold
  split
  · rfl
  · simp only
    rw [only_units_foldl catchUp catchUp_only]

theorem dirtyLines_only (s : State) (a n : Nat) : dirtyLines s a n = { s with units := (dirtyLines s a n).units } := by
  unfold dirtyLines; split <;> rfl

theorem releaseHold_mem (s : State) (a n : Nat) : (releaseHold s a n).mem = s.mem := by rw [releaseHold_only]

theorem dirtyLines_mem (s : State) (a n : Nat) : (dirtyLines s a n).mem = s.mem := by rw [dirtyLines_only]

theorem dWrite_wf (s : State) (a : Nat) (bs : List Byte) (h : Memory.wf s.mem = true) : Memory.wf (dWrite s a bs).mem = true := by
  unfold dWrite
  split
  · exact h
  · have hm : Memory.wf (dirtyLines (releaseHold s a bs.length) a bs.length).mem = true := by rw [dirtyLines_mem, releaseHold_mem]; exact h
    rw [Memory.wf_iff] at hm ⊢
    exact ⟨memWrite_wf _ _ _ hm.1, hm.2⟩

theorem sWrite_wf (s : State) (a : Nat) (bs : List Byte) (h : Memory.wf s.mem = true) : Memory.wf (sWrite s a bs).mem = true := by
  rw [Memory.wf_iff] at h ⊢; exact ⟨h.1, memWrite_wf _ _ _ h.2⟩

theorem pWrite_wf (s : State) (a : Nat) (v : BitVec 8192) (h : Memory.wf s.mem = true) : Memory.wf (pWrite s a v).mem = true := h

theorem freshen_wf (s : State) (g n : Nat) (h : Memory.wf s.mem = true) : Memory.wf (freshen s g n).mem = true := by
  rw [Memory.wf_iff] at h ⊢; exact ⟨cellsWf_cut _ _ _ (by omega) h.1, h.2⟩

theorem acquire_wf (s : State) (t : BitVec 4) (h : Memory.wf s.mem = true) : Memory.wf (acquire s t).mem = true := h

theorem clearBank_wf (s : State) (b : Bool) (h : Memory.wf s.mem = true) : Memory.wf (clearBank s b).mem = true := by
  rw [Memory.wf_iff] at h ⊢; exact ⟨cellsWf_cut _ _ _ (by omega) h.1, h.2⟩

end Sys2Proof.Machine
end

