-- ==== Sys2Proof/Laws/State.lean ====
section
/-! SUPPORT. What each named update of the state leaves and changes, field by field. -/

namespace Sys2Proof.Machine

variable (s : State)

/-! ### Free values -/

@[simp] theorem takeBit_pending : (takeBit s).1.pending = s.pending := rfl
@[simp] theorem takeBit_free : (takeBit s).1.free = s.free + 1 := rfl
@[simp] theorem takeBit_regs : (takeBit s).1.regs = s.regs := rfl
@[simp] theorem takeBit_latches : (takeBit s).1.latches = s.latches := rfl
@[simp] theorem takeBit_mem : (takeBit s).1.mem = s.mem := rfl
@[simp] theorem takeBit_fe : (takeBit s).1.fe = s.fe := rfl
@[simp] theorem takeBit_syncs : (takeBit s).1.syncs = s.syncs := rfl
@[simp] theorem takeBit_cfg : (takeBit s).1.cfg = s.cfg := rfl
@[simp] theorem takeBit_step : (takeBit s).1.step = s.step := rfl
@[simp] theorem takeBit_hz : (takeBit s).1.hz = s.hz := rfl
@[simp] theorem takeBit_units : (takeBit s).1.units = s.units := rfl

@[simp] theorem takeNat_pending : (takeNat s).1.pending = s.pending := rfl
@[simp] theorem takeNat_free : (takeNat s).1.free = s.free + 1 := rfl
@[simp] theorem takeNat_regs : (takeNat s).1.regs = s.regs := rfl
@[simp] theorem takeNat_latches : (takeNat s).1.latches = s.latches := rfl
@[simp] theorem takeNat_mem : (takeNat s).1.mem = s.mem := rfl
@[simp] theorem takeNat_fe : (takeNat s).1.fe = s.fe := rfl
@[simp] theorem takeNat_syncs : (takeNat s).1.syncs = s.syncs := rfl
@[simp] theorem takeNat_cfg : (takeNat s).1.cfg = s.cfg := rfl
@[simp] theorem takeNat_step : (takeNat s).1.step = s.step := rfl
@[simp] theorem takeNat_hz : (takeNat s).1.hz = s.hz := rfl
@[simp] theorem takeNat_units : (takeNat s).1.units = s.units := rfl

/-! ### regSet -/

@[simp] theorem regSet_pending (off : Nat) (v : Word) : (regSet s off v).pending = s.pending := rfl
@[simp] theorem regSet_free (off : Nat) (v : Word) : (regSet s off v).free = s.free := rfl
@[simp] theorem regSet_regs (off : Nat) (v : Word) : (regSet s off v).regs = nmSet s.regs off v := rfl
@[simp] theorem regSet_latches (off : Nat) (v : Word) : (regSet s off v).latches = s.latches := rfl
@[simp] theorem regSet_mem (off : Nat) (v : Word) : (regSet s off v).mem = s.mem := rfl
@[simp] theorem regSet_fe (off : Nat) (v : Word) : (regSet s off v).fe = s.fe := rfl
@[simp] theorem regSet_syncs (off : Nat) (v : Word) : (regSet s off v).syncs = s.syncs := rfl
@[simp] theorem regSet_cfg (off : Nat) (v : Word) : (regSet s off v).cfg = s.cfg := rfl
@[simp] theorem regSet_step (off : Nat) (v : Word) : (regSet s off v).step = s.step := rfl
@[simp] theorem regSet_hz (off : Nat) (v : Word) : (regSet s off v).hz = s.hz := rfl
@[simp] theorem regSet_units (off : Nat) (v : Word) : (regSet s off v).units = s.units := rfl

/-! ### regCount -/

@[simp] theorem regCount_pending (off n : Nat) : (regCount s off n).pending = s.pending := rfl
@[simp] theorem regCount_free (off n : Nat) : (regCount s off n).free = s.free := rfl
@[simp] theorem regCount_latches (off n : Nat) : (regCount s off n).latches = s.latches := rfl
@[simp] theorem regCount_mem (off n : Nat) : (regCount s off n).mem = s.mem := rfl
@[simp] theorem regCount_fe (off n : Nat) : (regCount s off n).fe = s.fe := rfl
@[simp] theorem regCount_syncs (off n : Nat) : (regCount s off n).syncs = s.syncs := rfl
@[simp] theorem regCount_cfg (off n : Nat) : (regCount s off n).cfg = s.cfg := rfl
@[simp] theorem regCount_step (off n : Nat) : (regCount s off n).step = s.step := rfl
@[simp] theorem regCount_hz (off n : Nat) : (regCount s off n).hz = s.hz := rfl
@[simp] theorem regCount_units (off n : Nat) : (regCount s off n).units = s.units := rfl

/-! ### emit -/

@[simp] theorem emit_pending (o : HostOut) : (emit s o).pending = s.pending := rfl
@[simp] theorem emit_free (o : HostOut) : (emit s o).free = s.free := rfl
@[simp] theorem emit_regs (o : HostOut) : (emit s o).regs = s.regs := rfl
@[simp] theorem emit_latches (o : HostOut) : (emit s o).latches = s.latches := rfl
@[simp] theorem emit_mem (o : HostOut) : (emit s o).mem = s.mem := rfl
@[simp] theorem emit_fe (o : HostOut) : (emit s o).fe = { s.fe with hostOut := s.fe.hostOut ++ [o] } := rfl
@[simp] theorem emit_syncs (o : HostOut) : (emit s o).syncs = s.syncs := rfl
@[simp] theorem emit_cfg (o : HostOut) : (emit s o).cfg = s.cfg := rfl
@[simp] theorem emit_step (o : HostOut) : (emit s o).step = s.step := rfl
@[simp] theorem emit_hz (o : HostOut) : (emit s o).hz = s.hz := rfl
@[simp] theorem emit_units (o : HostOut) : (emit s o).units = s.units := rfl

/-! ### respond -/

@[simp] theorem respond_pending (r : HostReq) (st : Status) (d : List Byte) : (respond s r st d).pending = s.pending := rfl
@[simp] theorem respond_free (r : HostReq) (st : Status) (d : List Byte) : (respond s r st d).free = s.free := rfl
@[simp] theorem respond_regs (r : HostReq) (st : Status) (d : List Byte) : (respond s r st d).regs = s.regs := rfl
@[simp] theorem respond_latches (r : HostReq) (st : Status) (d : List Byte) : (respond s r st d).latches = s.latches := rfl
@[simp] theorem respond_mem (r : HostReq) (st : Status) (d : List Byte) : (respond s r st d).mem = s.mem := rfl
@[simp] theorem respond_fe (r : HostReq) (st : Status) (d : List Byte) : (respond s r st d).fe = { s.fe with hostOut := s.fe.hostOut ++ [.rsp r.module.val r.tenant r.tag (st.setWidth 8) d] } := rfl
@[simp] theorem respond_syncs (r : HostReq) (st : Status) (d : List Byte) : (respond s r st d).syncs = s.syncs := rfl
@[simp] theorem respond_cfg (r : HostReq) (st : Status) (d : List Byte) : (respond s r st d).cfg = s.cfg := rfl
@[simp] theorem respond_step (r : HostReq) (st : Status) (d : List Byte) : (respond s r st d).step = s.step := rfl
@[simp] theorem respond_hz (r : HostReq) (st : Status) (d : List Byte) : (respond s r st d).hz = s.hz := rfl
@[simp] theorem respond_units (r : HostReq) (st : Status) (d : List Byte) : (respond s r st d).units = s.units := rfl

/-! ### setRing -/

@[simp] theorem setRing_pending (t : Nat) (r : EvtRing) : (setRing s t r).pending = s.pending := rfl
@[simp] theorem setRing_free (t : Nat) (r : EvtRing) : (setRing s t r).free = s.free := rfl
@[simp] theorem setRing_regs (t : Nat) (r : EvtRing) : (setRing s t r).regs = s.regs := rfl
@[simp] theorem setRing_latches (t : Nat) (r : EvtRing) : (setRing s t r).latches = s.latches := rfl
@[simp] theorem setRing_mem (t : Nat) (r : EvtRing) : (setRing s t r).mem = s.mem := rfl
@[simp] theorem setRing_fe (t : Nat) (r : EvtRing) : (setRing s t r).fe = { s.fe with rings := nmSet s.fe.rings t r } := rfl
@[simp] theorem setRing_syncs (t : Nat) (r : EvtRing) : (setRing s t r).syncs = s.syncs := rfl
@[simp] theorem setRing_cfg (t : Nat) (r : EvtRing) : (setRing s t r).cfg = s.cfg := rfl
@[simp] theorem setRing_step (t : Nat) (r : EvtRing) : (setRing s t r).step = s.step := rfl
@[simp] theorem setRing_hz (t : Nat) (r : EvtRing) : (setRing s t r).hz = s.hz := rfl
@[simp] theorem setRing_units (t : Nat) (r : EvtRing) : (setRing s t r).units = s.units := rfl

/-! ### logRecord -/

@[simp] theorem logRecord_pending (k d u p x t : Nat) : (logRecord s k d u p x t).pending = s.pending := rfl
@[simp] theorem logRecord_free (k d u p x t : Nat) : (logRecord s k d u p x t).free = s.free := rfl
@[simp] theorem logRecord_regs (k d u p x t : Nat) : (logRecord s k d u p x t).regs = s.regs := rfl
@[simp] theorem logRecord_latches (k d u p x t : Nat) : (logRecord s k d u p x t).latches = s.latches := rfl
@[simp] theorem logRecord_mem (k d u p x t : Nat) : (logRecord s k d u p x t).mem = s.mem := rfl
@[simp] theorem logRecord_fe (k d u p x t : Nat) : (logRecord s k d u p x t).fe = s.fe := rfl
@[simp] theorem logRecord_syncs (k d u p x t : Nat) : (logRecord s k d u p x t).syncs = s.syncs := rfl
@[simp] theorem logRecord_cfg (k d u p x t : Nat) : (logRecord s k d u p x t).cfg = s.cfg := rfl
@[simp] theorem logRecord_step (k d u p x t : Nat) : (logRecord s k d u p x t).step = s.step := rfl
@[simp] theorem logRecord_hz (k d u p x t : Nat) : (logRecord s k d u p x t).hz = s.hz := rfl

/-! ### updChan -/

@[simp] theorem updChan_pending (c : Nat) (f : Chan → Chan) : (updChan s c f).pending = s.pending := rfl
@[simp] theorem updChan_free (c : Nat) (f : Chan → Chan) : (updChan s c f).free = s.free := rfl
@[simp] theorem updChan_regs (c : Nat) (f : Chan → Chan) : (updChan s c f).regs = s.regs := rfl
@[simp] theorem updChan_latches (c : Nat) (f : Chan → Chan) : (updChan s c f).latches = s.latches := rfl
@[simp] theorem updChan_mem (c : Nat) (f : Chan → Chan) : (updChan s c f).mem = s.mem := rfl
@[simp] theorem updChan_fe (c : Nat) (f : Chan → Chan) : (updChan s c f).fe = s.fe := rfl
@[simp] theorem updChan_syncs (c : Nat) (f : Chan → Chan) : (updChan s c f).syncs = s.syncs := rfl
@[simp] theorem updChan_cfg (c : Nat) (f : Chan → Chan) : (updChan s c f).cfg = s.cfg := rfl
@[simp] theorem updChan_step (c : Nat) (f : Chan → Chan) : (updChan s c f).step = s.step := rfl
@[simp] theorem updChan_hz (c : Nat) (f : Chan → Chan) : (updChan s c f).hz = s.hz := rfl
@[simp] theorem updChan_units (c : Nat) (f : Chan → Chan) : (updChan s c f).units = { s.units with chans := nmSet s.units.chans c (f (chanOf s c)) } := rfl

/-! ### freshen -/

@[simp] theorem freshen_pending (g n : Nat) : (freshen s g n).pending = s.pending := rfl
@[simp] theorem freshen_free (g n : Nat) : (freshen s g n).free = s.free := rfl
@[simp] theorem freshen_regs (g n : Nat) : (freshen s g n).regs = s.regs := rfl
@[simp] theorem freshen_latches (g n : Nat) : (freshen s g n).latches = s.latches := rfl
@[simp] theorem freshen_fe (g n : Nat) : (freshen s g n).fe = s.fe := rfl
@[simp] theorem freshen_syncs (g n : Nat) : (freshen s g n).syncs = s.syncs := rfl
@[simp] theorem freshen_cfg (g n : Nat) : (freshen s g n).cfg = s.cfg := rfl
@[simp] theorem freshen_step (g n : Nat) : (freshen s g n).step = s.step := rfl
@[simp] theorem freshen_hz (g n : Nat) : (freshen s g n).hz = s.hz := rfl
@[simp] theorem freshen_units (g n : Nat) : (freshen s g n).units = s.units := rfl

/-! ### sWrite -/

@[simp] theorem sWrite_pending (a : Nat) (bs : List Byte) : (sWrite s a bs).pending = s.pending := rfl
@[simp] theorem sWrite_free (a : Nat) (bs : List Byte) : (sWrite s a bs).free = s.free := rfl
@[simp] theorem sWrite_regs (a : Nat) (bs : List Byte) : (sWrite s a bs).regs = s.regs := rfl
@[simp] theorem sWrite_latches (a : Nat) (bs : List Byte) : (sWrite s a bs).latches = s.latches := rfl
@[simp] theorem sWrite_mem (a : Nat) (bs : List Byte) : (sWrite s a bs).mem = { s.mem with scells := memWrite s.mem.scells a bs, sopen := cutOpen s.mem.sopen a bs.length } := rfl
@[simp] theorem sWrite_fe (a : Nat) (bs : List Byte) : (sWrite s a bs).fe = s.fe := rfl
@[simp] theorem sWrite_syncs (a : Nat) (bs : List Byte) : (sWrite s a bs).syncs = s.syncs := rfl
@[simp] theorem sWrite_cfg (a : Nat) (bs : List Byte) : (sWrite s a bs).cfg = s.cfg := rfl
@[simp] theorem sWrite_step (a : Nat) (bs : List Byte) : (sWrite s a bs).step = s.step := rfl
@[simp] theorem sWrite_hz (a : Nat) (bs : List Byte) : (sWrite s a bs).hz = s.hz := rfl
@[simp] theorem sWrite_units (a : Nat) (bs : List Byte) : (sWrite s a bs).units = s.units := rfl

/-! ### openUes -/

@[simp] theorem openUes_pending (l : List Nat) : (openUes s l).pending = s.pending := rfl
@[simp] theorem openUes_free (l : List Nat) : (openUes s l).free = s.free + 1 := rfl
@[simp] theorem openUes_regs (l : List Nat) : (openUes s l).regs = s.regs := rfl
@[simp] theorem openUes_latches (l : List Nat) : (openUes s l).latches = s.latches := rfl
@[simp] theorem openUes_fe (l : List Nat) : (openUes s l).fe = s.fe := rfl
@[simp] theorem openUes_syncs (l : List Nat) : (openUes s l).syncs = s.syncs := rfl
@[simp] theorem openUes_cfg (l : List Nat) : (openUes s l).cfg = s.cfg := rfl
@[simp] theorem openUes_step (l : List Nat) : (openUes s l).step = s.step := rfl
@[simp] theorem openUes_hz (l : List Nat) : (openUes s l).hz = s.hz := rfl
@[simp] theorem openUes_units (l : List Nat) : (openUes s l).units = s.units := rfl

/-! ### pWrite -/

@[simp] theorem pWrite_pending (a : Nat) (v : BitVec 8192) : (pWrite s a v).pending = s.pending := rfl
@[simp] theorem pWrite_free (a : Nat) (v : BitVec 8192) : (pWrite s a v).free = s.free := rfl
@[simp] theorem pWrite_regs (a : Nat) (v : BitVec 8192) : (pWrite s a v).regs = s.regs := rfl
@[simp] theorem pWrite_latches (a : Nat) (v : BitVec 8192) : (pWrite s a v).latches = s.latches := rfl
@[simp] theorem pWrite_fe (a : Nat) (v : BitVec 8192) : (pWrite s a v).fe = s.fe := rfl
@[simp] theorem pWrite_syncs (a : Nat) (v : BitVec 8192) : (pWrite s a v).syncs = s.syncs := rfl
@[simp] theorem pWrite_cfg (a : Nat) (v : BitVec 8192) : (pWrite s a v).cfg = s.cfg := rfl
@[simp] theorem pWrite_step (a : Nat) (v : BitVec 8192) : (pWrite s a v).step = s.step := rfl
@[simp] theorem pWrite_hz (a : Nat) (v : BitVec 8192) : (pWrite s a v).hz = s.hz := rfl
@[simp] theorem pWrite_units (a : Nat) (v : BitVec 8192) : (pWrite s a v).units = s.units := rfl

/-! ### updOp -/

@[simp] theorem updOp_pending (h : Word) (f : Op → Op) : (updOp s h f).pending = s.pending := rfl
@[simp] theorem updOp_free (h : Word) (f : Op → Op) : (updOp s h f).free = s.free := rfl
@[simp] theorem updOp_regs (h : Word) (f : Op → Op) : (updOp s h f).regs = s.regs := rfl
@[simp] theorem updOp_latches (h : Word) (f : Op → Op) : (updOp s h f).latches = s.latches := rfl
@[simp] theorem updOp_mem (h : Word) (f : Op → Op) : (updOp s h f).mem = s.mem := rfl
@[simp] theorem updOp_syncs (h : Word) (f : Op → Op) : (updOp s h f).syncs = s.syncs := rfl
@[simp] theorem updOp_cfg (h : Word) (f : Op → Op) : (updOp s h f).cfg = s.cfg := rfl
@[simp] theorem updOp_step (h : Word) (f : Op → Op) : (updOp s h f).step = s.step := rfl
@[simp] theorem updOp_hz (h : Word) (f : Op → Op) : (updOp s h f).hz = s.hz := rfl
@[simp] theorem updOp_units (h : Word) (f : Op → Op) : (updOp s h f).units = s.units := rfl

/-! ### acquire -/

@[simp] theorem acquire_pending (t : BitVec 4) : (acquire s t).pending = s.pending := rfl
@[simp] theorem acquire_free (t : BitVec 4) : (acquire s t).free = s.free := rfl
@[simp] theorem acquire_regs (t : BitVec 4) : (acquire s t).regs = s.regs := rfl
@[simp] theorem acquire_latches (t : BitVec 4) : (acquire s t).latches = s.latches := rfl
@[simp] theorem acquire_fe (t : BitVec 4) : (acquire s t).fe = s.fe := rfl
@[simp] theorem acquire_syncs (t : BitVec 4) : (acquire s t).syncs = s.syncs := rfl
@[simp] theorem acquire_cfg (t : BitVec 4) : (acquire s t).cfg = s.cfg := rfl
@[simp] theorem acquire_step (t : BitVec 4) : (acquire s t).step = s.step := rfl
@[simp] theorem acquire_hz (t : BitVec 4) : (acquire s t).hz = s.hz := rfl
@[simp] theorem acquire_units (t : BitVec 4) : (acquire s t).units = s.units := rfl

/-! ### markWaits -/

@[simp] theorem markWaits_pending (id : Nat) (v : DWord) : (markWaits s id v).pending = s.pending := rfl
@[simp] theorem markWaits_free (id : Nat) (v : DWord) : (markWaits s id v).free = s.free := rfl
@[simp] theorem markWaits_regs (id : Nat) (v : DWord) : (markWaits s id v).regs = s.regs := rfl
@[simp] theorem markWaits_latches (id : Nat) (v : DWord) : (markWaits s id v).latches = s.latches := rfl
@[simp] theorem markWaits_mem (id : Nat) (v : DWord) : (markWaits s id v).mem = s.mem := rfl
@[simp] theorem markWaits_syncs (id : Nat) (v : DWord) : (markWaits s id v).syncs = s.syncs := rfl
@[simp] theorem markWaits_cfg (id : Nat) (v : DWord) : (markWaits s id v).cfg = s.cfg := rfl
@[simp] theorem markWaits_step (id : Nat) (v : DWord) : (markWaits s id v).step = s.step := rfl
@[simp] theorem markWaits_hz (id : Nat) (v : DWord) : (markWaits s id v).hz = s.hz := rfl
@[simp] theorem markWaits_units (id : Nat) (v : DWord) : (markWaits s id v).units = s.units := rfl

/-! ### updQ -/

@[simp] theorem updQ_pending (q : Nat) (f : QCounts → QCounts) : (updQ s q f).pending = s.pending := rfl
@[simp] theorem updQ_free (q : Nat) (f : QCounts → QCounts) : (updQ s q f).free = s.free := rfl
@[simp] theorem updQ_regs (q : Nat) (f : QCounts → QCounts) : (updQ s q f).regs = s.regs := rfl
@[simp] theorem updQ_latches (q : Nat) (f : QCounts → QCounts) : (updQ s q f).latches = s.latches := rfl
@[simp] theorem updQ_mem (q : Nat) (f : QCounts → QCounts) : (updQ s q f).mem = s.mem := rfl
@[simp] theorem updQ_fe (q : Nat) (f : QCounts → QCounts) : (updQ s q f).fe = { s.fe with counts := nmSet s.fe.counts q (f (nmGet qZero s.fe.counts q)) } := rfl
@[simp] theorem updQ_syncs (q : Nat) (f : QCounts → QCounts) : (updQ s q f).syncs = s.syncs := rfl
@[simp] theorem updQ_cfg (q : Nat) (f : QCounts → QCounts) : (updQ s q f).cfg = s.cfg := rfl
@[simp] theorem updQ_step (q : Nat) (f : QCounts → QCounts) : (updQ s q f).step = s.step := rfl
@[simp] theorem updQ_hz (q : Nat) (f : QCounts → QCounts) : (updQ s q f).hz = s.hz := rfl
@[simp] theorem updQ_units (q : Nat) (f : QCounts → QCounts) : (updQ s q f).units = s.units := rfl

/-! ### awaitLanding -/

@[simp] theorem awaitLanding_pending (h : Word) (n : Nat) (r : Res) : (awaitLanding s h n r).pending = s.pending := rfl
@[simp] theorem awaitLanding_free (h : Word) (n : Nat) (r : Res) : (awaitLanding s h n r).free = s.free := rfl
@[simp] theorem awaitLanding_regs (h : Word) (n : Nat) (r : Res) : (awaitLanding s h n r).regs = s.regs := rfl
@[simp] theorem awaitLanding_latches (h : Word) (n : Nat) (r : Res) : (awaitLanding s h n r).latches = s.latches := rfl
@[simp] theorem awaitLanding_mem (h : Word) (n : Nat) (r : Res) : (awaitLanding s h n r).mem = s.mem := rfl
@[simp] theorem awaitLanding_syncs (h : Word) (n : Nat) (r : Res) : (awaitLanding s h n r).syncs = s.syncs := rfl
@[simp] theorem awaitLanding_cfg (h : Word) (n : Nat) (r : Res) : (awaitLanding s h n r).cfg = s.cfg := rfl
@[simp] theorem awaitLanding_step (h : Word) (n : Nat) (r : Res) : (awaitLanding s h n r).step = s.step := rfl
@[simp] theorem awaitLanding_hz (h : Word) (n : Nat) (r : Res) : (awaitLanding s h n r).hz = s.hz := rfl
@[simp] theorem awaitLanding_units (h : Word) (n : Nat) (r : Res) : (awaitLanding s h n r).units = s.units := rfl

/-! ### setCache -/

@[simp] theorem setCache_pending (l : List CacheLine) : (setCache s l).pending = s.pending := rfl
@[simp] theorem setCache_free (l : List CacheLine) : (setCache s l).free = s.free := rfl
@[simp] theorem setCache_regs (l : List CacheLine) : (setCache s l).regs = s.regs := rfl
@[simp] theorem setCache_latches (l : List CacheLine) : (setCache s l).latches = s.latches := rfl
@[simp] theorem setCache_mem (l : List CacheLine) : (setCache s l).mem = s.mem := rfl
@[simp] theorem setCache_fe (l : List CacheLine) : (setCache s l).fe = s.fe := rfl
@[simp] theorem setCache_syncs (l : List CacheLine) : (setCache s l).syncs = s.syncs := rfl
@[simp] theorem setCache_cfg (l : List CacheLine) : (setCache s l).cfg = s.cfg := rfl
@[simp] theorem setCache_step (l : List CacheLine) : (setCache s l).step = s.step := rfl
@[simp] theorem setCache_hz (l : List CacheLine) : (setCache s l).hz = s.hz := rfl
@[simp] theorem setCache_units (l : List CacheLine) : (setCache s l).units = { s.units with cache := l } := rfl

/-! ### updModule -/

@[simp] theorem updModule_pending (k : Nat) (f : HostModule → HostModule) : (updModule s k f).pending = s.pending := rfl
@[simp] theorem updModule_free (k : Nat) (f : HostModule → HostModule) : (updModule s k f).free = s.free := rfl
@[simp] theorem updModule_regs (k : Nat) (f : HostModule → HostModule) : (updModule s k f).regs = s.regs := rfl
@[simp] theorem updModule_latches (k : Nat) (f : HostModule → HostModule) : (updModule s k f).latches = s.latches := rfl
@[simp] theorem updModule_mem (k : Nat) (f : HostModule → HostModule) : (updModule s k f).mem = s.mem := rfl
@[simp] theorem updModule_syncs (k : Nat) (f : HostModule → HostModule) : (updModule s k f).syncs = s.syncs := rfl
@[simp] theorem updModule_cfg (k : Nat) (f : HostModule → HostModule) : (updModule s k f).cfg = s.cfg := rfl
@[simp] theorem updModule_step (k : Nat) (f : HostModule → HostModule) : (updModule s k f).step = s.step := rfl
@[simp] theorem updModule_hz (k : Nat) (f : HostModule → HostModule) : (updModule s k f).hz = s.hz := rfl
@[simp] theorem updModule_units (k : Nat) (f : HostModule → HostModule) : (updModule s k f).units = s.units := rfl

/-! ### updColl -/

@[simp] theorem updColl_pending (h : Word) (f : CollRun → CollRun) : (updColl s h f).pending = s.pending := rfl
@[simp] theorem updColl_free (h : Word) (f : CollRun → CollRun) : (updColl s h f).free = s.free := rfl
@[simp] theorem updColl_regs (h : Word) (f : CollRun → CollRun) : (updColl s h f).regs = s.regs := rfl
@[simp] theorem updColl_latches (h : Word) (f : CollRun → CollRun) : (updColl s h f).latches = s.latches := rfl
@[simp] theorem updColl_mem (h : Word) (f : CollRun → CollRun) : (updColl s h f).mem = s.mem := rfl
@[simp] theorem updColl_fe (h : Word) (f : CollRun → CollRun) : (updColl s h f).fe = s.fe := rfl
@[simp] theorem updColl_syncs (h : Word) (f : CollRun → CollRun) : (updColl s h f).syncs = s.syncs := rfl
@[simp] theorem updColl_cfg (h : Word) (f : CollRun → CollRun) : (updColl s h f).cfg = s.cfg := rfl
@[simp] theorem updColl_hz (h : Word) (f : CollRun → CollRun) : (updColl s h f).hz = s.hz := rfl
@[simp] theorem updColl_units (h : Word) (f : CollRun → CollRun) : (updColl s h f).units = s.units := rfl

/-! ### updTxg -/

@[simp] theorem updTxg_pending (g : Nat) (f : Txg → Txg) : (updTxg s g f).pending = s.pending := rfl
@[simp] theorem updTxg_free (g : Nat) (f : Txg → Txg) : (updTxg s g f).free = s.free := rfl
@[simp] theorem updTxg_regs (g : Nat) (f : Txg → Txg) : (updTxg s g f).regs = s.regs := rfl
@[simp] theorem updTxg_latches (g : Nat) (f : Txg → Txg) : (updTxg s g f).latches = s.latches := rfl
@[simp] theorem updTxg_mem (g : Nat) (f : Txg → Txg) : (updTxg s g f).mem = s.mem := rfl
@[simp] theorem updTxg_fe (g : Nat) (f : Txg → Txg) : (updTxg s g f).fe = s.fe := rfl
@[simp] theorem updTxg_syncs (g : Nat) (f : Txg → Txg) : (updTxg s g f).syncs = s.syncs := rfl
@[simp] theorem updTxg_cfg (g : Nat) (f : Txg → Txg) : (updTxg s g f).cfg = s.cfg := rfl
@[simp] theorem updTxg_hz (g : Nat) (f : Txg → Txg) : (updTxg s g f).hz = s.hz := rfl
@[simp] theorem updTxg_units (g : Nat) (f : Txg → Txg) : (updTxg s g f).units = s.units := rfl

/-! ### setTxgs -/

@[simp] theorem setTxgs_pending (f : List Txg → List Txg) : (setTxgs s f).pending = s.pending := rfl
@[simp] theorem setTxgs_free (f : List Txg → List Txg) : (setTxgs s f).free = s.free := rfl
@[simp] theorem setTxgs_regs (f : List Txg → List Txg) : (setTxgs s f).regs = s.regs := rfl
@[simp] theorem setTxgs_latches (f : List Txg → List Txg) : (setTxgs s f).latches = s.latches := rfl
@[simp] theorem setTxgs_mem (f : List Txg → List Txg) : (setTxgs s f).mem = s.mem := rfl
@[simp] theorem setTxgs_fe (f : List Txg → List Txg) : (setTxgs s f).fe = s.fe := rfl
@[simp] theorem setTxgs_syncs (f : List Txg → List Txg) : (setTxgs s f).syncs = s.syncs := rfl
@[simp] theorem setTxgs_cfg (f : List Txg → List Txg) : (setTxgs s f).cfg = s.cfg := rfl
@[simp] theorem setTxgs_step (f : List Txg → List Txg) : (setTxgs s f).step = { s.step with txgs := f s.step.txgs } := rfl
@[simp] theorem setTxgs_hz (f : List Txg → List Txg) : (setTxgs s f).hz = s.hz := rfl
@[simp] theorem setTxgs_units (f : List Txg → List Txg) : (setTxgs s f).units = s.units := rfl

/-! ### updInteg -/

@[simp] theorem updInteg_pending (f : Integrity → Integrity) : (updInteg s f).pending = s.pending := rfl
@[simp] theorem updInteg_free (f : Integrity → Integrity) : (updInteg s f).free = s.free := rfl
@[simp] theorem updInteg_regs (f : Integrity → Integrity) : (updInteg s f).regs = s.regs := rfl
@[simp] theorem updInteg_latches (f : Integrity → Integrity) : (updInteg s f).latches = s.latches := rfl
@[simp] theorem updInteg_mem (f : Integrity → Integrity) : (updInteg s f).mem = s.mem := rfl
@[simp] theorem updInteg_fe (f : Integrity → Integrity) : (updInteg s f).fe = s.fe := rfl
@[simp] theorem updInteg_syncs (f : Integrity → Integrity) : (updInteg s f).syncs = s.syncs := rfl
@[simp] theorem updInteg_cfg (f : Integrity → Integrity) : (updInteg s f).cfg = s.cfg := rfl
@[simp] theorem updInteg_step (f : Integrity → Integrity) : (updInteg s f).step = s.step := rfl
@[simp] theorem updInteg_hz (f : Integrity → Integrity) : (updInteg s f).hz = s.hz := rfl
@[simp] theorem updInteg_units (f : Integrity → Integrity) : (updInteg s f).units = { s.units with integ := f s.units.integ } := rfl

/-! ### updDrop -/

@[simp] theorem updDrop_pending (f : DropState → DropState) : (updDrop s f).pending = s.pending := rfl
@[simp] theorem updDrop_free (f : DropState → DropState) : (updDrop s f).free = s.free := rfl
@[simp] theorem updDrop_regs (f : DropState → DropState) : (updDrop s f).regs = s.regs := rfl
@[simp] theorem updDrop_latches (f : DropState → DropState) : (updDrop s f).latches = s.latches := rfl
@[simp] theorem updDrop_mem (f : DropState → DropState) : (updDrop s f).mem = s.mem := rfl
@[simp] theorem updDrop_fe (f : DropState → DropState) : (updDrop s f).fe = s.fe := rfl
@[simp] theorem updDrop_syncs (f : DropState → DropState) : (updDrop s f).syncs = s.syncs := rfl
@[simp] theorem updDrop_cfg (f : DropState → DropState) : (updDrop s f).cfg = s.cfg := rfl
@[simp] theorem updDrop_step (f : DropState → DropState) : (updDrop s f).step = s.step := rfl
@[simp] theorem updDrop_hz (f : DropState → DropState) : (updDrop s f).hz = { s.hz with drop := f s.hz.drop } := rfl
@[simp] theorem updDrop_units (f : DropState → DropState) : (updDrop s f).units = s.units := rfl

/-! ### updPort -/

@[simp] theorem updPort_pending (p : Nat) (f : HzPort → HzPort) : (updPort s p f).pending = s.pending := rfl
@[simp] theorem updPort_free (p : Nat) (f : HzPort → HzPort) : (updPort s p f).free = s.free := rfl
@[simp] theorem updPort_regs (p : Nat) (f : HzPort → HzPort) : (updPort s p f).regs = s.regs := rfl
@[simp] theorem updPort_latches (p : Nat) (f : HzPort → HzPort) : (updPort s p f).latches = s.latches := rfl
@[simp] theorem updPort_mem (p : Nat) (f : HzPort → HzPort) : (updPort s p f).mem = s.mem := rfl
@[simp] theorem updPort_fe (p : Nat) (f : HzPort → HzPort) : (updPort s p f).fe = s.fe := rfl
@[simp] theorem updPort_syncs (p : Nat) (f : HzPort → HzPort) : (updPort s p f).syncs = s.syncs := rfl
@[simp] theorem updPort_cfg (p : Nat) (f : HzPort → HzPort) : (updPort s p f).cfg = s.cfg := rfl
@[simp] theorem updPort_step (p : Nat) (f : HzPort → HzPort) : (updPort s p f).step = s.step := rfl
@[simp] theorem updPort_units (p : Nat) (f : HzPort → HzPort) : (updPort s p f).units = s.units := rfl

/-! ### updHusk -/

@[simp] theorem updHusk_pending (f : Husk → Husk) : (updHusk s f).pending = s.pending := rfl
@[simp] theorem updHusk_free (f : Husk → Husk) : (updHusk s f).free = s.free := rfl
@[simp] theorem updHusk_regs (f : Husk → Husk) : (updHusk s f).regs = s.regs := rfl
@[simp] theorem updHusk_latches (f : Husk → Husk) : (updHusk s f).latches = s.latches := rfl
@[simp] theorem updHusk_mem (f : Husk → Husk) : (updHusk s f).mem = s.mem := rfl
@[simp] theorem updHusk_fe (f : Husk → Husk) : (updHusk s f).fe = s.fe := rfl
@[simp] theorem updHusk_syncs (f : Husk → Husk) : (updHusk s f).syncs = s.syncs := rfl
@[simp] theorem updHusk_cfg (f : Husk → Husk) : (updHusk s f).cfg = s.cfg := rfl
@[simp] theorem updHusk_step (f : Husk → Husk) : (updHusk s f).step = s.step := rfl
@[simp] theorem updHusk_hz (f : Husk → Husk) : (updHusk s f).hz = s.hz := rfl
@[simp] theorem updHusk_units (f : Husk → Husk) : (updHusk s f).units = { s.units with husk := f s.units.husk } := rfl

/-! ### updTier -/

@[simp] theorem updTier_pending (f : TierUnits → TierUnits) : (updTier s f).pending = s.pending := rfl
@[simp] theorem updTier_free (f : TierUnits → TierUnits) : (updTier s f).free = s.free := rfl
@[simp] theorem updTier_regs (f : TierUnits → TierUnits) : (updTier s f).regs = s.regs := rfl
@[simp] theorem updTier_latches (f : TierUnits → TierUnits) : (updTier s f).latches = s.latches := rfl
@[simp] theorem updTier_mem (f : TierUnits → TierUnits) : (updTier s f).mem = s.mem := rfl
@[simp] theorem updTier_fe (f : TierUnits → TierUnits) : (updTier s f).fe = s.fe := rfl
@[simp] theorem updTier_syncs (f : TierUnits → TierUnits) : (updTier s f).syncs = s.syncs := rfl
@[simp] theorem updTier_cfg (f : TierUnits → TierUnits) : (updTier s f).cfg = s.cfg := rfl
@[simp] theorem updTier_step (f : TierUnits → TierUnits) : (updTier s f).step = s.step := rfl
@[simp] theorem updTier_hz (f : TierUnits → TierUnits) : (updTier s f).hz = s.hz := rfl
@[simp] theorem updTier_units (f : TierUnits → TierUnits) : (updTier s f).units = { s.units with tier := f s.units.tier } := rfl

/-! ### updPips -/

@[simp] theorem updPips_pending (f : PipUnits → PipUnits) : (updPips s f).pending = s.pending := rfl
@[simp] theorem updPips_free (f : PipUnits → PipUnits) : (updPips s f).free = s.free := rfl
@[simp] theorem updPips_regs (f : PipUnits → PipUnits) : (updPips s f).regs = s.regs := rfl
@[simp] theorem updPips_latches (f : PipUnits → PipUnits) : (updPips s f).latches = s.latches := rfl
@[simp] theorem updPips_mem (f : PipUnits → PipUnits) : (updPips s f).mem = s.mem := rfl
@[simp] theorem updPips_fe (f : PipUnits → PipUnits) : (updPips s f).fe = s.fe := rfl
@[simp] theorem updPips_syncs (f : PipUnits → PipUnits) : (updPips s f).syncs = s.syncs := rfl
@[simp] theorem updPips_cfg (f : PipUnits → PipUnits) : (updPips s f).cfg = s.cfg := rfl
@[simp] theorem updPips_step (f : PipUnits → PipUnits) : (updPips s f).step = s.step := rfl
@[simp] theorem updPips_hz (f : PipUnits → PipUnits) : (updPips s f).hz = s.hz := rfl
@[simp] theorem updPips_units (f : PipUnits → PipUnits) : (updPips s f).units = { s.units with pips := f s.units.pips } := rfl

/-! ### updAcorns -/

@[simp] theorem updAcorns_pending (f : AcornUnits → AcornUnits) : (updAcorns s f).pending = s.pending := rfl
@[simp] theorem updAcorns_free (f : AcornUnits → AcornUnits) : (updAcorns s f).free = s.free := rfl
@[simp] theorem updAcorns_regs (f : AcornUnits → AcornUnits) : (updAcorns s f).regs = s.regs := rfl
@[simp] theorem updAcorns_latches (f : AcornUnits → AcornUnits) : (updAcorns s f).latches = s.latches := rfl
@[simp] theorem updAcorns_mem (f : AcornUnits → AcornUnits) : (updAcorns s f).mem = s.mem := rfl
@[simp] theorem updAcorns_fe (f : AcornUnits → AcornUnits) : (updAcorns s f).fe = s.fe := rfl
@[simp] theorem updAcorns_syncs (f : AcornUnits → AcornUnits) : (updAcorns s f).syncs = s.syncs := rfl
@[simp] theorem updAcorns_cfg (f : AcornUnits → AcornUnits) : (updAcorns s f).cfg = s.cfg := rfl
@[simp] theorem updAcorns_step (f : AcornUnits → AcornUnits) : (updAcorns s f).step = s.step := rfl
@[simp] theorem updAcorns_hz (f : AcornUnits → AcornUnits) : (updAcorns s f).hz = s.hz := rfl
@[simp] theorem updAcorns_units (f : AcornUnits → AcornUnits) : (updAcorns s f).units = { s.units with acorns := f s.units.acorns } := rfl

/-! ### updCupule -/

@[simp] theorem updCupule_pending (f : Cupule → Cupule) : (updCupule s f).pending = s.pending := rfl
@[simp] theorem updCupule_free (f : Cupule → Cupule) : (updCupule s f).free = s.free := rfl
@[simp] theorem updCupule_regs (f : Cupule → Cupule) : (updCupule s f).regs = s.regs := rfl
@[simp] theorem updCupule_latches (f : Cupule → Cupule) : (updCupule s f).latches = s.latches := rfl
@[simp] theorem updCupule_mem (f : Cupule → Cupule) : (updCupule s f).mem = s.mem := rfl
@[simp] theorem updCupule_fe (f : Cupule → Cupule) : (updCupule s f).fe = s.fe := rfl
@[simp] theorem updCupule_syncs (f : Cupule → Cupule) : (updCupule s f).syncs = s.syncs := rfl
@[simp] theorem updCupule_cfg (f : Cupule → Cupule) : (updCupule s f).cfg = s.cfg := rfl
@[simp] theorem updCupule_step (f : Cupule → Cupule) : (updCupule s f).step = s.step := rfl
@[simp] theorem updCupule_hz (f : Cupule → Cupule) : (updCupule s f).hz = s.hz := rfl
@[simp] theorem updCupule_units (f : Cupule → Cupule) : (updCupule s f).units = { s.units with acorns := { s.units.acorns with cupule := f s.units.acorns.cupule } } := rfl

/-! ### updBoot -/

@[simp] theorem updBoot_pending (f : BootUnits → BootUnits) : (updBoot s f).pending = s.pending := rfl
@[simp] theorem updBoot_free (f : BootUnits → BootUnits) : (updBoot s f).free = s.free := rfl
@[simp] theorem updBoot_regs (f : BootUnits → BootUnits) : (updBoot s f).regs = s.regs := rfl
@[simp] theorem updBoot_latches (f : BootUnits → BootUnits) : (updBoot s f).latches = s.latches := rfl
@[simp] theorem updBoot_mem (f : BootUnits → BootUnits) : (updBoot s f).mem = s.mem := rfl
@[simp] theorem updBoot_fe (f : BootUnits → BootUnits) : (updBoot s f).fe = s.fe := rfl
@[simp] theorem updBoot_syncs (f : BootUnits → BootUnits) : (updBoot s f).syncs = s.syncs := rfl
@[simp] theorem updBoot_cfg (f : BootUnits → BootUnits) : (updBoot s f).cfg = s.cfg := rfl
@[simp] theorem updBoot_step (f : BootUnits → BootUnits) : (updBoot s f).step = s.step := rfl
@[simp] theorem updBoot_hz (f : BootUnits → BootUnits) : (updBoot s f).hz = s.hz := rfl
@[simp] theorem updBoot_units (f : BootUnits → BootUnits) : (updBoot s f).units = { s.units with boot := f s.units.boot } := rfl

/-! ### updPower -/

@[simp] theorem updPower_pending (f : PowerUnits → PowerUnits) : (updPower s f).pending = s.pending := rfl
@[simp] theorem updPower_free (f : PowerUnits → PowerUnits) : (updPower s f).free = s.free := rfl
@[simp] theorem updPower_regs (f : PowerUnits → PowerUnits) : (updPower s f).regs = s.regs := rfl
@[simp] theorem updPower_latches (f : PowerUnits → PowerUnits) : (updPower s f).latches = s.latches := rfl
@[simp] theorem updPower_mem (f : PowerUnits → PowerUnits) : (updPower s f).mem = s.mem := rfl
@[simp] theorem updPower_fe (f : PowerUnits → PowerUnits) : (updPower s f).fe = s.fe := rfl
@[simp] theorem updPower_syncs (f : PowerUnits → PowerUnits) : (updPower s f).syncs = s.syncs := rfl
@[simp] theorem updPower_cfg (f : PowerUnits → PowerUnits) : (updPower s f).cfg = s.cfg := rfl
@[simp] theorem updPower_step (f : PowerUnits → PowerUnits) : (updPower s f).step = s.step := rfl
@[simp] theorem updPower_hz (f : PowerUnits → PowerUnits) : (updPower s f).hz = s.hz := rfl
@[simp] theorem updPower_units (f : PowerUnits → PowerUnits) : (updPower s f).units = { s.units with power := f s.units.power } := rfl

/-! ### updTap -/

@[simp] theorem updTap_pending (f : Tap → Tap) : (updTap s f).pending = s.pending := rfl
@[simp] theorem updTap_free (f : Tap → Tap) : (updTap s f).free = s.free := rfl
@[simp] theorem updTap_regs (f : Tap → Tap) : (updTap s f).regs = s.regs := rfl
@[simp] theorem updTap_latches (f : Tap → Tap) : (updTap s f).latches = s.latches := rfl
@[simp] theorem updTap_mem (f : Tap → Tap) : (updTap s f).mem = s.mem := rfl
@[simp] theorem updTap_fe (f : Tap → Tap) : (updTap s f).fe = s.fe := rfl
@[simp] theorem updTap_syncs (f : Tap → Tap) : (updTap s f).syncs = s.syncs := rfl
@[simp] theorem updTap_cfg (f : Tap → Tap) : (updTap s f).cfg = s.cfg := rfl
@[simp] theorem updTap_step (f : Tap → Tap) : (updTap s f).step = s.step := rfl
@[simp] theorem updTap_hz (f : Tap → Tap) : (updTap s f).hz = s.hz := rfl
@[simp] theorem updTap_units (f : Tap → Tap) : (updTap s f).units = { s.units with tap := f s.units.tap } := rfl

/-! ### updShard -/

@[simp] theorem updShard_pending (n : Nat) (f : ShardDyn → ShardDyn) : (updShard s n f).pending = s.pending := rfl
@[simp] theorem updShard_free (n : Nat) (f : ShardDyn → ShardDyn) : (updShard s n f).free = s.free := rfl
@[simp] theorem updShard_regs (n : Nat) (f : ShardDyn → ShardDyn) : (updShard s n f).regs = s.regs := rfl
@[simp] theorem updShard_latches (n : Nat) (f : ShardDyn → ShardDyn) : (updShard s n f).latches = s.latches := rfl
@[simp] theorem updShard_mem (n : Nat) (f : ShardDyn → ShardDyn) : (updShard s n f).mem = s.mem := rfl
@[simp] theorem updShard_fe (n : Nat) (f : ShardDyn → ShardDyn) : (updShard s n f).fe = s.fe := rfl
@[simp] theorem updShard_syncs (n : Nat) (f : ShardDyn → ShardDyn) : (updShard s n f).syncs = s.syncs := rfl
@[simp] theorem updShard_cfg (n : Nat) (f : ShardDyn → ShardDyn) : (updShard s n f).cfg = s.cfg := rfl
@[simp] theorem updShard_hz (n : Nat) (f : ShardDyn → ShardDyn) : (updShard s n f).hz = s.hz := rfl
@[simp] theorem updShard_units (n : Nat) (f : ShardDyn → ShardDyn) : (updShard s n f).units = s.units := rfl

/-! ### updRun -/

@[simp] theorem updRun_pending (h : Word) (f : StepRun → StepRun) : (updRun s h f).pending = s.pending := rfl
@[simp] theorem updRun_free (h : Word) (f : StepRun → StepRun) : (updRun s h f).free = s.free := rfl
@[simp] theorem updRun_regs (h : Word) (f : StepRun → StepRun) : (updRun s h f).regs = s.regs := rfl
@[simp] theorem updRun_latches (h : Word) (f : StepRun → StepRun) : (updRun s h f).latches = s.latches := rfl
@[simp] theorem updRun_mem (h : Word) (f : StepRun → StepRun) : (updRun s h f).mem = s.mem := rfl
@[simp] theorem updRun_fe (h : Word) (f : StepRun → StepRun) : (updRun s h f).fe = s.fe := rfl
@[simp] theorem updRun_syncs (h : Word) (f : StepRun → StepRun) : (updRun s h f).syncs = s.syncs := rfl
@[simp] theorem updRun_cfg (h : Word) (f : StepRun → StepRun) : (updRun s h f).cfg = s.cfg := rfl
@[simp] theorem updRun_hz (h : Word) (f : StepRun → StepRun) : (updRun s h f).hz = s.hz := rfl
@[simp] theorem updRun_units (h : Word) (f : StepRun → StepRun) : (updRun s h f).units = s.units := rfl

/-! ### updSweep -/

@[simp] theorem updSweep_pending (n : Nat) (f : SweepRec → SweepRec) : (updSweep s n f).pending = s.pending := rfl
@[simp] theorem updSweep_free (n : Nat) (f : SweepRec → SweepRec) : (updSweep s n f).free = s.free := rfl
@[simp] theorem updSweep_regs (n : Nat) (f : SweepRec → SweepRec) : (updSweep s n f).regs = s.regs := rfl
@[simp] theorem updSweep_latches (n : Nat) (f : SweepRec → SweepRec) : (updSweep s n f).latches = s.latches := rfl
@[simp] theorem updSweep_mem (n : Nat) (f : SweepRec → SweepRec) : (updSweep s n f).mem = s.mem := rfl
@[simp] theorem updSweep_fe (n : Nat) (f : SweepRec → SweepRec) : (updSweep s n f).fe = s.fe := rfl
@[simp] theorem updSweep_syncs (n : Nat) (f : SweepRec → SweepRec) : (updSweep s n f).syncs = s.syncs := rfl
@[simp] theorem updSweep_cfg (n : Nat) (f : SweepRec → SweepRec) : (updSweep s n f).cfg = s.cfg := rfl
@[simp] theorem updSweep_hz (n : Nat) (f : SweepRec → SweepRec) : (updSweep s n f).hz = s.hz := rfl
@[simp] theorem updSweep_units (n : Nat) (f : SweepRec → SweepRec) : (updSweep s n f).units = s.units := rfl

/-! ### updTile -/

@[simp] theorem updTile_pending (t : Nat) (f : TileDyn → TileDyn) : (updTile s t f).pending = s.pending := rfl
@[simp] theorem updTile_free (t : Nat) (f : TileDyn → TileDyn) : (updTile s t f).free = s.free := rfl
@[simp] theorem updTile_regs (t : Nat) (f : TileDyn → TileDyn) : (updTile s t f).regs = s.regs := rfl
@[simp] theorem updTile_latches (t : Nat) (f : TileDyn → TileDyn) : (updTile s t f).latches = s.latches := rfl
@[simp] theorem updTile_mem (t : Nat) (f : TileDyn → TileDyn) : (updTile s t f).mem = s.mem := rfl
@[simp] theorem updTile_fe (t : Nat) (f : TileDyn → TileDyn) : (updTile s t f).fe = s.fe := rfl
@[simp] theorem updTile_syncs (t : Nat) (f : TileDyn → TileDyn) : (updTile s t f).syncs = s.syncs := rfl
@[simp] theorem updTile_cfg (t : Nat) (f : TileDyn → TileDyn) : (updTile s t f).cfg = s.cfg := rfl
@[simp] theorem updTile_hz (t : Nat) (f : TileDyn → TileDyn) : (updTile s t f).hz = s.hz := rfl
@[simp] theorem updTile_units (t : Nat) (f : TileDyn → TileDyn) : (updTile s t f).units = s.units := rfl

/-! ### updTree -/

@[simp] theorem updTree_pending (u : TreeUse) (f : TreeRun → TreeRun) : (updTree s u f).pending = s.pending := rfl
@[simp] theorem updTree_free (u : TreeUse) (f : TreeRun → TreeRun) : (updTree s u f).free = s.free := rfl
@[simp] theorem updTree_regs (u : TreeUse) (f : TreeRun → TreeRun) : (updTree s u f).regs = s.regs := rfl
@[simp] theorem updTree_latches (u : TreeUse) (f : TreeRun → TreeRun) : (updTree s u f).latches = s.latches := rfl
@[simp] theorem updTree_mem (u : TreeUse) (f : TreeRun → TreeRun) : (updTree s u f).mem = s.mem := rfl
@[simp] theorem updTree_fe (u : TreeUse) (f : TreeRun → TreeRun) : (updTree s u f).fe = s.fe := rfl
@[simp] theorem updTree_syncs (u : TreeUse) (f : TreeRun → TreeRun) : (updTree s u f).syncs = s.syncs := rfl
@[simp] theorem updTree_cfg (u : TreeUse) (f : TreeRun → TreeRun) : (updTree s u f).cfg = s.cfg := rfl
@[simp] theorem updTree_hz (u : TreeUse) (f : TreeRun → TreeRun) : (updTree s u f).hz = s.hz := rfl
@[simp] theorem updTree_units (u : TreeUse) (f : TreeRun → TreeRun) : (updTree s u f).units = s.units := rfl

end Sys2Proof.Machine
end

