-- ==== Sys2Proof/Laws/Ops.lean ====
section
/-! SUPPORT. What the shared operations can do, said once: events, signals, the ends of operations, and writes to memory. -/

namespace Sys2Proof.Machine

/-! ### Events -/

/-- What raising events leaves: all but the free counter, the alert register and the front end's rings, writes and held writes. -/
structure OnlyEvents (s t : State) : Prop where
  pending : t.pending = s.pending
  latches : t.latches = s.latches
  mem : t.mem = s.mem
  syncs : t.syncs = s.syncs
  cfg : t.cfg = s.cfg
  step : t.step = s.step
  hz : t.hz = s.hz
  units : t.units = s.units
  counts : t.fe.counts = s.fe.counts
  ops : t.fe.ops = s.fe.ops
  held : t.fe.held = s.fe.held
  modules : t.fe.modules = s.fe.modules

theorem OnlyEvents.refl (s : State) : OnlyEvents s s := ⟨rfl, rfl, rfl, rfl, rfl, rfl, rfl, rfl, rfl, rfl, rfl, rfl⟩

theorem OnlyEvents.trans {s t u : State} (h : OnlyEvents s t) (k : OnlyEvents t u) : OnlyEvents s u :=
  ⟨k.pending.trans h.pending, k.latches.trans h.latches, k.mem.trans h.mem, k.syncs.trans h.syncs, k.cfg.trans h.cfg, k.step.trans h.step,
    k.hz.trans h.hz, k.units.trans h.units, k.counts.trans h.counts, k.ops.trans h.ops, k.held.trans h.held, k.modules.trans h.modules⟩

theorem OnlyEvents.foldl {α : Type} (f : State → α → State) (hf : ∀ s x, OnlyEvents s (f s x)) :
    ∀ (l : List α) (s : State), OnlyEvents s (l.foldl f s)
  | [], s => .refl s
  | x :: l, s => (hf s x).trans (OnlyEvents.foldl f hf l (f s x))

theorem onlyEvents_takeNat (s : State) : OnlyEvents s (takeNat s).1 := ⟨rfl, rfl, rfl, rfl, rfl, rfl, rfl, rfl, rfl, rfl, rfl, rfl⟩

theorem onlyEvents_setAlert (s : State) (code : BitVec 16) : OnlyEvents s (setAlert s code) := by
  unfold setAlert; split
  · exact ⟨rfl, rfl, rfl, rfl, rfl, rfl, rfl, rfl, rfl, rfl, rfl, rfl⟩
  · exact .refl s

theorem onlyEvents_setRing (s : State) (t : Nat) (r : EvtRing) : OnlyEvents s (setRing s t r) :=
  ⟨rfl, rfl, rfl, rfl, rfl, rfl, rfl, rfl, rfl, rfl, rfl, rfl⟩

theorem onlyEvents_cplWrite (s : State) (g a : Nat) (d : List Byte) : OnlyEvents s (cplWrite s g a d) := by
  unfold cplWrite holdCpl; repeat' split
  all_goals exact ⟨rfl, rfl, rfl, rfl, rfl, rfl, rfl, rfl, rfl, rfl, rfl, rfl⟩

theorem onlyEvents_writeEvent (s : State) (t : Nat) (e : EvtEntry) : OnlyEvents s (writeEvent s t e) :=
  (onlyEvents_setRing s t _).trans (onlyEvents_cplWrite _ _ _ _)

theorem onlyEvents_raiseEvent (s : State) (t : Nat) (code : BitVec 16) (w d : DWord) (h : Word) : OnlyEvents s (raiseEvent s t code w d h) := by
  unfold raiseEvent
  refine (onlyEvents_setAlert s code).trans ?_
  simp only
  split
  · exact onlyEvents_writeEvent _ _ _
  · exact onlyEvents_setRing _ _ _

theorem onlyEvents_raiseEventFree (s : State) (t : Nat) (code : BitVec 16) (w : DWord) (h : Word) : OnlyEvents s (raiseEventFree s t code w h) :=
  (onlyEvents_takeNat s).trans (onlyEvents_raiseEvent _ _ _ _ _ _)

theorem onlyEvents_raiseEventOpen (s : State) (t : Nat) (code : BitVec 16) (h : Word) : OnlyEvents s (raiseEventOpen s t code h) :=
  (onlyEvents_takeNat s).trans (onlyEvents_raiseEventFree _ _ _ _ _)

theorem onlyEvents_raiseAll (s : State) (code : BitVec 16) (w d : DWord) : OnlyEvents s (raiseAll s code w d) :=
  .foldl _ (fun s t => onlyEvents_raiseEvent s t code w d 0) _ s

theorem onlyEvents_raiseAllOpen (s : State) (code : BitVec 16) : OnlyEvents s (raiseAllOpen s code) :=
  .foldl _ (fun s t => onlyEvents_raiseEventOpen s t code 0) _ s

/-! ### The life of an operation -/

/-- What a signal, a promotion and the end of an operation leave: the memories' contents, the configuration but for LAST_ST, the step
engine but for the numbers of collective commands, the fabric, and the units but for the numeric totals. -/
structure OnlyOps (s t : State) : Prop where
  pending : t.pending = s.pending
  latches : t.latches = s.latches
  mem : t.mem = { s.mem with gens := t.mem.gens }
  cfg : t.cfg = { s.cfg with lastSt := t.cfg.lastSt }
  step : t.step = { s.step with collSeq := t.step.collSeq }
  hz : t.hz = s.hz
  units : t.units = { s.units with totals := t.units.totals }
  held : t.fe.held = s.fe.held
  modules : t.fe.modules = s.fe.modules

theorem OnlyOps.refl (s : State) : OnlyOps s s := ⟨rfl, rfl, rfl, rfl, rfl, rfl, rfl, rfl, rfl⟩

theorem OnlyOps.trans {s t u : State} (h : OnlyOps s t) (k : OnlyOps t u) : OnlyOps s u where
  pending := k.pending.trans h.pending
  latches := k.latches.trans h.latches
  mem := by rw [k.mem, h.mem]
  cfg := by rw [k.cfg, h.cfg]
  step := by rw [k.step, h.step]
  hz := k.hz.trans h.hz
  units := by rw [k.units, h.units]
  held := k.held.trans h.held
  modules := k.modules.trans h.modules

theorem OnlyOps.foldl {α : Type} (f : State → α → State) (hf : ∀ s x, OnlyOps s (f s x)) :
    ∀ (l : List α) (s : State), OnlyOps s (l.foldl f s)
  | [], s => .refl s
  | x :: l, s => (hf s x).trans (OnlyOps.foldl f hf l (f s x))

theorem OnlyEvents.onlyOps {s t : State} (h : OnlyEvents s t) : OnlyOps s t :=
  ⟨h.pending, h.latches, by rw [h.mem], by rw [h.cfg], by rw [h.step], h.hz, by rw [h.units], h.held, h.modules⟩

theorem OnlyOps.wf {s t : State} (h : OnlyOps s t) (hs : Memory.wf s.mem = true) : Memory.wf t.mem = true := by
  rw [h.mem]; exact hs

theorem onlyOps_updOp (s : State) (h : Word) (f : Op → Op) : OnlyOps s (updOp s h f) := ⟨rfl, rfl, rfl, rfl, rfl, rfl, rfl, rfl, rfl⟩

theorem onlyOps_updQ (s : State) (q : Nat) (f : QCounts → QCounts) : OnlyOps s (updQ s q f) := ⟨rfl, rfl, rfl, rfl, rfl, rfl, rfl, rfl, rfl⟩

theorem onlyOps_acquire (s : State) (t : BitVec 4) : OnlyOps s (acquire s t) := ⟨rfl, rfl, rfl, rfl, rfl, rfl, rfl, rfl, rfl⟩

theorem onlyOps_markWaits (s : State) (id : Nat) (v : DWord) : OnlyOps s (markWaits s id v) := ⟨rfl, rfl, rfl, rfl, rfl, rfl, rfl, rfl, rfl⟩

theorem onlyOps_addTotals (s : State) (t : BitVec 4) (c : Counts) : OnlyOps s (addTotals s t c) := by
  unfold addTotals; split
  · exact .refl s
  · exact ⟨rfl, rfl, rfl, rfl, rfl, rfl, rfl, rfl, rfl⟩

theorem onlyOps_noteCfg (s : State) (o : Op) (st : Status) : OnlyOps s (noteCfg s o st) := by
  unfold noteCfg; split
  · exact ⟨rfl, rfl, rfl, rfl, rfl, rfl, rfl, rfl, rfl⟩
  · exact .refl s

theorem onlyOps_enterRunning (s : State) (o : Op) : OnlyOps s (enterRunning s o) := by
  unfold enterRunning
  simp only
  split <;> exact ⟨rfl, rfl, rfl, rfl, rfl, rfl, rfl, rfl, rfl⟩

theorem onlyOps_promoteOne (s : State) (o : Op) : OnlyOps s (promoteOne s o) := by
  unfold promoteOne
  simp only
  split
  · split
    · exact (onlyOps_enterRunning s o).trans (onlyOps_acquire _ _)
    · exact onlyOps_enterRunning s o
  · exact .refl s

theorem onlyOps_promote (s : State) : OnlyOps s (promote s) := .foldl _ onlyOps_promoteOne _ s

theorem onlyOps_syncSet (s : State) (id : Nat) (v : DWord) : OnlyOps s (syncSet s id v) :=
  OnlyOps.trans (t := { s with syncs := nmSet s.syncs id v }) ⟨rfl, rfl, rfl, rfl, rfl, rfl, rfl, rfl, rfl⟩
    ((onlyOps_markWaits _ _ _).trans (onlyOps_promote _))

theorem onlyOps_syncAdd (s : State) (id : Nat) (v : DWord) : OnlyOps s (syncAdd s id v) := onlyOps_syncSet s id _

theorem onlyOps_stallCheck (s : State) (o : Op) : OnlyOps s (stallCheck s o) := by
  unfold stallCheck; split
  · exact (onlyOps_updQ s _ _).trans (onlyEvents_raiseEventFree _ _ _ _ _).onlyOps
  · exact .refl s

theorem onlyOps_finishOp (s : State) (o : Op) (r : Res) : OnlyOps s (finishOp s o r) := by
  unfold finishOp
  simp only
  split
  · split
    · exact ((onlyOps_updOp s _ _).trans ((onlyOps_addTotals _ _ _).trans (onlyOps_noteCfg _ _ _))).trans (onlyOps_syncAdd _ _ _)
    · exact ((onlyOps_updOp s _ _).trans ((onlyOps_addTotals _ _ _).trans (onlyOps_noteCfg _ _ _))).trans (onlyOps_promote _)
  · refine OnlyOps.trans ?_ (onlyOps_stallCheck _ _)
    split
    · exact ((onlyOps_updOp s _ _).trans ((onlyOps_addTotals _ _ _).trans (onlyOps_noteCfg _ _ _))).trans (onlyOps_syncAdd _ _ _)
    · exact ((onlyOps_updOp s _ _).trans ((onlyOps_addTotals _ _ _).trans (onlyOps_noteCfg _ _ _))).trans (onlyOps_promote _)

theorem onlyOps_endDue {s t : State} (h : endDue s = some t) : OnlyOps s t := by
  unfold endDue at h
  split at h
  · cases h
  · split at h
    · cases h
    · split at h
      · simp only [Option.some.injEq] at h; subst h; exact onlyOps_updOp s _ _
      · simp only [Option.some.injEq] at h
        subst h
        split
        · exact (onlyOps_acquire s _).trans (onlyOps_finishOp _ _ _)
        · exact onlyOps_finishOp _ _ _

theorem onlyOps_settleGo : ∀ (n : Nat) (s : State), OnlyOps s (settleGo n s)
  | 0, s => .refl s
  | n + 1, s => by
    simp only [settleGo]
    split
    · exact .refl s
    · exact (onlyOps_endDue ‹_›).trans (onlyOps_settleGo n _)

theorem onlyOps_settle (s : State) : OnlyOps s (settle s) := (onlyOps_promote s).trans (onlyOps_settleGo _ _)

theorem onlyOps_complete (s : State) (o : Op) (r : Res) : OnlyOps s (complete s o r) := (onlyOps_finishOp s o r).trans (onlyOps_settle _)

/-- How a command ends: Done, unless it still owes its signal on another package (R776). -/
theorem endAway_eq (s : State) (o : Op) (r : Res) (h : finalOwed s o r = false) : endAway s o r = complete s o r := by
  simp [endAway, h]

/-- A command without a destination on another package, or with a status of ST_OK, owes nothing there. -/
theorem finalOwed_false (s : State) (o : Op) (r : Res) (h : farDst s.cfg.live o.desc = false ∨ r.status = stOk) :
    finalOwed s o r = false := by
  rcases h with h | h <;> simp [finalOwed, h]

/-- Where a command of a descriptor goes: it changes nothing, it is complete, or it has acted and stays. -/
theorem runCommand_cases (c : Nat) (f : State → Op → Outcome) (h : Word) (s : State) :
    runCommand c f h s = s ∨
    (∃ o, findOp s h = some o ∧ 0 < o.remote ∧ runCommand c f h s = endAway s o (landedRes o)) ∨
    (∃ o s' r, findOp s h = some o ∧ o.started = false ∧
      f (updOp s h fun x => { x with started := true }) { o with started := true } = .done s' r ∧ runCommand c f h s = endAway s' o r) ∨
    (∃ o s', findOp s h = some o ∧ o.started = false ∧
      f (updOp s h fun x => { x with started := true }) { o with started := true } = .go s' ∧ runCommand c f h s = settle s') ∨
    (∃ o s', findOp s h = some o ∧ o.started = false ∧
      f (updOp s h fun x => { x with started := true }) { o with started := true } = .again s' ∧
      runCommand c f h s = settle (updOp { s with step := s'.step } h fun x => { x with started := false })) ∨
    (∃ o s', findOp s h = some o ∧ o.started = false ∧
      f (updOp s h fun x => { x with started := true }) { o with started := true } = .sensed s' ∧
      runCommand c f h s = updOp s' h fun x => { x with started := false }) := by
  unfold runCommand
  split
  · exact .inl rfl
  · next o ho =>
    split
    · by_cases hs : o.started = false
      · simp only [hs, Bool.not_false, if_true]
        split
        · exact .inl rfl
        · next s' hf => exact .inr (.inr (.inr (.inr (.inl ⟨o, s', ho, hs, by simpa [hs] using hf, rfl⟩))))
        · next s' hf => exact .inr (.inr (.inr (.inr (.inr ⟨o, s', ho, hs, by simpa [hs] using hf, rfl⟩))))
        · next s' hf => exact .inr (.inr (.inr (.inl ⟨o, s', ho, hs, by simpa [hs] using hf, rfl⟩)))
        · next s' r hf => exact .inr (.inr (.inl ⟨o, s', r, ho, hs, by simpa [hs] using hf, rfl⟩))
      · simp only [Bool.not_eq_false] at hs
        simp only [hs, Bool.not_true, Bool.false_eq_true, if_false]
        split
        · next hr => simp only [Bool.and_eq_true, decide_eq_true_eq] at hr; exact .inr (.inl ⟨o, ho, hr.1, rfl⟩)
        · exact .inl rfl
    · exact .inl rfl

/-! ### Frames -/

/-- A sealed frame whose payload is no longer than LEN can state is a good frame. -/
theorem frameGood_sealFrame (f : Frame) (h : f.payload.length ≤ 16384) : frameGood (sealFrame f) = true := by
  simp [frameGood, sealFrame, frameCrc, frameHeader, h]

/-! ### Writes to D-space -/

/-- What a write to D-space leaves: all but the cells, the written granules and the poison, and the channels that Pips hold. -/
theorem dWrite_rest (s : State) (a : Nat) (bs : List Byte) :
    (dWrite s a bs).pending = s.pending ∧ (dWrite s a bs).regs = s.regs ∧ (dWrite s a bs).free = s.free ∧ (dWrite s a bs).fe = s.fe ∧
    (dWrite s a bs).syncs = s.syncs ∧ (dWrite s a bs).cfg = s.cfg ∧ (dWrite s a bs).step = s.step ∧ (dWrite s a bs).hz = s.hz ∧
    (dWrite s a bs).mem.scells = s.mem.scells ∧ (dWrite s a bs).mem.prows = s.mem.prows := by
  unfold dWrite
  split
  · exact ⟨rfl, rfl, rfl, rfl, rfl, rfl, rfl, rfl, rfl, rfl⟩
  · rw [dirtyLines_only, releaseHold_only]
    exact ⟨rfl, rfl, rfl, rfl, rfl, rfl, rfl, rfl, rfl, rfl⟩

end Sys2Proof.Machine
end

