-- ==== Sys2Proof/Laws/Reads.lean ====
section
/-! SUPPORT. What a read at the homes does: nothing, where the arrays and the bridges give what was written. -/

namespace Sys2Proof.Machine

theorem forgetUnlisted_none (s : State) (a n : Nat) (h : s.units.tier.unlisted = []) : forgetUnlisted s a n = s := by
  simp [forgetUnlisted, h]

theorem failedGranules_none (s : State) (a n : Nat) (h : ∀ c ∈ s.units.chans, c.2.failed = false) : failedGranules s a n = [] := by
  have : (s.units.chans.any fun c => c.2.failed) = false := by
    rw [List.any_eq_false]; intro c hc; simp [h c hc]
  simp [failedGranules, this]

/-- A read of clean memory finds nothing. -/
theorem detectRead_clean (s : State) (a n : Nat) (h : NoFailed s) : detectRead s a n = s := by
  obtain ⟨hc, hf, hl, hu⟩ := h
  simp [detectRead, forgetUnlisted_none s a n hu, failedGranules_none s a n hc, hf, hl]

theorem mergeRead_clean (s : State) (a n : Nat) (h : NoFailed s) : mergeRead s a n = s := by
  obtain ⟨_, hf, hl, hu⟩ := h
  simp [mergeRead, forgetUnlisted_none s a n hu, hf, hl]

/-- No channel is held under HOLD: an access ends none. -/
theorem releaseHold_none (s : State) (a n : Nat) (h : s.units.pips.held = []) : releaseHold s a n = s := by simp [releaseHold, h]

/-- Reads of clean memory with no channel under HOLD change nothing. -/
theorem reach_clean (s : State) (l : List (Nat × Nat)) (h : NoFailed s) (hp : s.units.pips.held = []) : reach s l = s := by
  induction l with
  | nil => rfl
  | cons x l ih =>
    have : reach s (x :: l) = reach (detectRead (releaseHold s x.1 x.2) x.1 x.2) l := rfl
    rw [this, releaseHold_none s x.1 x.2 hp, detectRead_clean s x.1 x.2 h, ih]

theorem reachFree_clean (s : State) (l : List (Nat × Nat)) (h : NoFailed s) (hp : s.units.pips.held = []) : reachFree s l = s :=
  reach_clean s _ h hp

/-- With no failed channel listed, none has failed. -/
theorem chanOf_failed (s : State) (c : Nat) (h : ∀ e ∈ s.units.chans, e.2.failed = false) : (chanOf s c).failed = false := by
  unfold chanOf nmGet
  cases hg : nmGet? s.units.chans c with
  | none => rfl
  | some v => exact h _ (nmGet?_mem _ _ _ hg)

/-- A REF owed is issued: no channel fails or recovers by it. -/
theorem catchUp_noFailed (s : State) (c : Nat) (h : NoFailed s) : NoFailed (catchUp s c) := by
  unfold catchUp
  split
  · refine ⟨fun e he => ?_, h.2⟩
    rcases mem_nmSet _ _ _ _ he with rfl | he
    · exact chanOf_failed s c h.1
    · exact h.1 e he
  · exact h

theorem catchUps_noFailed : ∀ (l : List Nat) (s : State), NoFailed s → NoFailed (l.foldl catchUp s)
  | [], _, h => h
  | c :: l, s, h => catchUps_noFailed l _ (catchUp_noFailed s c h)

/-- The end of HOLD leaves the arrays and the bridges as they are. -/
theorem releaseHold_noFailed (s : State) (a n : Nat) (h : NoFailed s) : NoFailed (releaseHold s a n) := by
  unfold releaseHold
  split
  · exact h
  · exact catchUps_noFailed _ _ h

/-- Reads of clean memory change at most the channels that HOLD kept: neither the memories nor anything outside the package's units. -/
theorem reach_noFailed : ∀ (l : List (Nat × Nat)) (s : State), NoFailed s →
    reach s l = { s with units := (reach s l).units } ∧ NoFailed (reach s l)
  | [], _, h => ⟨rfl, h⟩
  | x :: l, s, h => by
    have hr := releaseHold_noFailed s x.1 x.2 h
    have e : reach s (x :: l) = reach (releaseHold s x.1 x.2) l := by
      show reach (detectRead _ x.1 x.2) l = _
      rw [detectRead_clean _ _ _ hr]
    obtain ⟨h1, h2⟩ := reach_noFailed l _ hr
    refine ⟨?_, e ▸ h2⟩
    rw [e, h1, releaseHold_only]

/-- A command that goes as far as it can is not changed by what its reads find. -/
theorem sensing_done (l : State → Op → List (Nat × Nat)) (f : State → Op → Outcome) (s : State) (o : Op) (t : State) (r : Res)
    (h : f s o = .done t r) : sensing l f s o = .done t r := by simp [sensing, h]

theorem sensing_go (l : State → Op → List (Nat × Nat)) (f : State → Op → Outcome) (s : State) (o : Op) (t : State)
    (h : f s o = .go t) : sensing l f s o = .go t := by simp [sensing, h]

end Sys2Proof.Machine
end

