-- ==== Sys2Proof/Tests/Slice0.lean ====
section
/-! SUPPORT. Tests of the model on small states: ill-formed terms that `Instr.wf` refuses, decodings, results worked out by hand from the
spec, and for each statement with hypotheses a state and operands that meet them. -/

namespace Sys2Proof.Tests

open Sys2Proof Sys2Proof.Machine

set_option Elab.async false

/-! ### Small states -/

/-- A descriptor of an opcode with some fields: (byte, value). -/
def desc (opc : Nat) (fields : List (Nat × Nat)) : BitVec 512 :=
  BitVec.ofNat 512 (opc + (fields.map fun x => x.2 * 2 ^ (8 * x.1)).sum)

/-- A Running operation of queue 0, tenant 0, with handle 7. -/
def op (d : BitVec 512) : Op :=
  { handle := 7, queue := 0, number := 0, order := 0, tenant := 0, desc := d, phase := .running, failed := none, started := false
    met := none, status := 0, empty := false, signalled := false, replayed := false, event := false, res0 := 0, res1 := 0
    counts := countsZero, cursor := 0, pieces := [], remote := 0, pull := false, spoiled := [], stream := 0, last := false, seat := 0, behind := false, collNo := 0 }

/-- The reset state with some operations. -/
def withOps (s : State) (l : List Op) : State := { s with fe := { s.fe with ops := l } }

/-- The reset state with one Running operation. -/
def running (d : BitVec 512) : State := withOps State.reset [op d]

/-- The reset state with another live plane, which the shadow plane equals, Acorn A leading, and the spine in service. -/
def live (p : Plane) : State :=
  { State.reset with
    cfg := { State.reset.cfg with live := p, shadow := p }
    units := { unitsReset with
      acorns := { acornsReset with a := { acornsReset.a with up := true, epoch := 2 }, cupule := ⟨2, 1, 1, true, false, false, 1⟩ }
      boot := { bootReset with phase := 4, spine := (List.range 14).map fun k => (k, 8) } } }

/-- A live image: package 5 of a system of 8, with one more tenant, queue 1 of it, and a shard. -/
def shard0 : ShardCfg :=
  { tenant := 0, n := 4096, capTier := false, intKind := false, fields := 7, mode := .dual, stateBase := 0x100000, accBase := 0x200000
    accFmt := 0, accSat := false, ueSet := [0], fmtIndex := 0, prog := 0, gather := 0, gatherOff := 0, factorBase := 0, cols := 0
    trustGroup := none, group := 0, members := [5, 6, 7], digestBase := 0x300000, epoch0 := false }

def plane : Plane :=
  { bootPlane with
    isImage := true, spid := 9, package := 5, sysSize := 8
    groups := (List.range 16).map fun g => (g, 3#16)
    granules := [⟨0, 1, 0⟩, ⟨1, 1, 1⟩, ⟨2, granuleCount, 0⟩]
    tenants := [(0, { bootTenant0 with eventRing := some 0x8000 }), (1, bootTenant0)]
    queues := [(0, { bootQueue0 with cqBase := 0x9000 }), (1, { bootQueue0 with tenant := 1, hbase := 16 })]
    syncs := [(5, 1)]
    shards := [(0, shard0)]
    dmap := { bootDMap with owned := [⟨0x100000, 0x10000, 0, .state⟩], gathers := [⟨0x400000, 0x10000, 0x500000, some 0x600000, 0, 0, []⟩] } }

/-- A request on a module. -/
def req (m : Fin 64) (t : BitVec 4) (attr : BitVec 2) (addr : Nat) (data : List Byte) : HostReq :=
  ⟨m, t, 0, attr, 1, BitVec.ofNat 44 addr, data⟩

/-- A frame of a type. -/
def frame (type : BitVec 8) (addr : Nat) (payload : List Byte) : Frame :=
  { type := type, flags := 0, src := 4, dst := 0, spid := 0, plan := 0, step := 0, attempt := 0, tenant := 0, vc := 0, group := 0
    pticket := 0, addr := BitVec.ofNat 44 addr, sigAdd := 0, stream := 0, prior := 0, aux := 0, cretVc := 0, cret := 0, crc := 0, payload := payload }

/-- A command answers a next state of which something holds. -/
def answers (c : Instr) (s : State) (f : State → Bool) : Bool := match exec c s with | .next t => f t | _ => false

/-! ### Host transport -/

/-- Memory of 64 bytes of 0x5A at 0x1000, its granule written. -/
def filled : State :=
  { State.reset with mem := { memReset with cells := (List.range 64).map fun i => (0x1000 + i, 0x5A), written := [1] } }

/-- A state whose memory is poisoned nowhere and written at 0x1000 with the live image. -/
def imaged : State := { live plane with mem := filled.mem }

theorem witness_StepTakesFront : (State.reset).pending = [] := by decide

theorem witness_HostReadsMemory :
    let r := req 0 0 0 0x1000 []
    let r' := req 0 0 0 0x1020 []
    let w := { filled with fe := { filled.fe with held := [⟨.request 0x02 r, [], 0x1000⟩] } }
    (gatherMap filled r.addr.toNat = 0x1000 ∧ readRefusal filled r 64 = none ∧ NoFailed filled ∧ ServedAt filled r 64 0x1000 ∧
      poisonIn filled 0x1000 64 = false ∧ freshIn filled 0x1000 64 = 0 ∧ filled.mem.copies = [] ∧ ∀ l ∈ filled.units.cache, l.visitor = none) ∧
    (gatherMap filled r'.addr.toNat = 0x1020 ∧ readRefusal filled r' 32 = none ∧ ServedAt filled r' 32 0x1020 ∧
      poisonIn filled 0x1020 32 = false ∧ freshIn filled 0x1020 32 = 0 ∧ r'.addr.toNat % 64 ≤ 0x1020) ∧
    (readRefusal w r 64 = none ∧ NoFailed w ∧ heldMeets w.fe.held r 64 = true) := by decide +kernel

/-- What the hypotheses of `HostWriteLands` ask. -/
def writeLands (s : State) (r : HostReq) (n : Nat) : Prop :=
  reqAllowed s r = true ∧ r.addr.toNat % n = 0 ∧ protectedOwner s r.addr.toNat n = none ∧ dOwned s r.tenant r.addr.toNat n = true ∧
  dMapped s r.addr.toNat n = true ∧ heldMeets s.fe.held r n = false ∧ writeHeld s none r.addr.toNat n = false ∧
  orderChans s [(r.addr.toNat, n)] = [] ∧ poisonCut s r.addr.toNat n = false ∧ NoFailed s ∧ s.units.integ.refetch = [] ∧ r.data.length = n

theorem witness_HostWriteLands :
    writeLands imaged (req 63 0 0 0x1000 (List.replicate 64 0x11)) 64 ∧ writeLands imaged (req 0 1 0 0x4000020 (List.replicate 32 0)) 32 := by
  unfold writeLands; decide +kernel

/-- A write of 64 bytes changes its bytes and answers 0; a byte that it writes 0 leaves the list. -/
theorem test_mwr64 :
    answers (.mwr64 (req 0 0 0 0x1000 (1 :: List.replicate 63 0))) filled (fun t =>
      t.mem == { filled.mem with cells := [(0x1000, 1)] } && t.fe == { filled.fe with hostOut := [.rsp 0 0 1 0 []] }) = true := by
  decide +kernel

theorem witness_ForeignTenantBounds : reqAllowed State.reset (req 63 1 0 0 []) = false ∧ (0x05#8).toNat ∉ [0x01, 0x02, 0x03, 0x04, 0x08, 0x09, 0x0A] := by decide +kernel

theorem witness_MisalignedRequest :
    reqAllowed filled (req 0 0 0 0x103F []) = true ∧ (0x103F % 64 ≠ 0 ∧ 0x103F % 32 ≠ 0 ∧ 0x103F % 4 ≠ 0) ∧
    (req 0 0 0 0x103F []).addr.toNat = 0x103F ∧ (req 0 0 1 0x103F []).attr = 1 := by decide +kernel

theorem witness_OwnedWriteDiscarded :
    protectedOwner imaged 0x10FFC0 64 = some 0 ∧ reqAllowed imaged (req 0 0 0 0x10FFC0 (List.replicate 64 0)) = true ∧
    (req 0 0 0 0x10FFC0 []).addr.toNat % 64 = 0 ∧
    (∃ x ∈ imaged.cfg.live.dmap.owned, meets 0x10FFFF 1 x.base x.bytes = true) ∧ meetsStore imaged (imageStoreBase plane) 1 = true ∧
    (∀ x ∈ imaged.cfg.live.dmap.owned, meets (imageStoreBase plane) 1 x.base x.bytes = false) := by decide +kernel

/-- Queue 0 with counts P 3 and H 1. -/
def queued : State := { live plane with fe := { feReset with counts := [(0, { qZero with p := 3, h := 1 })] } }

theorem witness_DoorbellRule :
    let a := 0x02000000
    sqTailOf (req 0 0 0 a []).addr.toNat = some 0 ∧ reqAllowed queued (req 0 0 0 a []) = true ∧ (req 0 0 0 a []).addr.toNat % 4 = 0 ∧
    (planeQueue plane 0).tenant = 0 ∧ reqAllowed queued (req 0 1 0 a []) = true ∧ (qOf queued 0).p = 3 ∧
    (17#32 ≠ 3 ∧ (17#32 - (qOf queued 0).h).toNat = 16 ∧ 16 < (18#32 - (qOf queued 0).h).toNat) ∧
    heldWrites { queued with fe := { queued.fe with held := [⟨.request 0x02 (req 0 0 0 0x1000 []), [], 0x1000⟩] } } (req 0 0 0 a []).module ≠ [] := by
  decide +kernel

/-- V = H + SQ_ENTRIES is the last value accepted, and it passes the end of the first ring once. -/
theorem test_db :
    answers (.db (req 0 0 0 0x02000000 [17, 0, 0, 0])) queued (fun t => (qOf t 0).p == 17 && (qOf t 0).l == 1 && (qOf t 0).badDb == false) = true ∧
    answers (.db (req 0 0 0 0x02000000 [18, 0, 0, 0])) queued (fun t => (qOf t 0).p == 3 && (qOf t 0).badDb &&
      t.fe.hostOut.getLast? == some (.rsp 0 0 1 0x02 [])) = true := by decide +kernel

/-- A fetched ACCUM of queue 0 that takes push pieces of PUSH_ID 3. -/
def accumPush : Op := op (desc 0x20 [(3, 3), (48, 3), (40, 16)])

theorem witness_PushAndBadType :
    let r := req 0 0 1 (3 * 2 ^ 20) (List.replicate 64 7)
    let s := live plane
    let u := { s with fe := { s.fe with push := [⟨0, 3, 0, 0, []⟩] } }
    reqAllowed s r = true ∧ (planeQueue s.cfg.live (pushQueue r)).en = true ∧ queueDie s.cfg.live (pushQueue r) = r.module.val / 16 ∧
    r.tenant = (planeQueue s.cfg.live (pushQueue r)).tenant ∧ pushTarget s r = none ∧ pushHeld s (r.module.val / 16) < 65536 ∧
    (∃ x ∈ u.fe.push, x.queue = pushQueue r ∧ x.pushId = pushId r ∧ x.offset = pushOffset r) ∧
    (pushTarget (withOps s [accumPush]) r).isSome = true ∧ reqAllowed s { r with tenant := 1 } = true ∧
    (u.fe.push.find? fun x => x.queue = 0 && x.pushId = 3 && x.offset = 0).isSome = true := by decide +kernel

/-- A push buffer of base die 0 that is full of pieces of PUSH_ID 4. -/
def pushFull : State := { live plane with fe := { feReset with push := List.replicate 65536 ⟨0, 4, 0, 0, []⟩ } }

theorem witness_PushAndBadType_full :
    let r := req 0 0 1 (3 * 2 ^ 20) (List.replicate 64 7)
    pushTarget pushFull r = none ∧ (¬ ∃ x ∈ pushFull.fe.push, x.queue = pushQueue r ∧ x.pushId = pushId r ∧ x.offset = pushOffset r) ∧
    65536 ≤ pushHeld pushFull (r.module.val / 16) := by
  refine ⟨by decide +kernel, ?_, ?_⟩
  · rintro ⟨x, hx, -, h, -⟩
    rw [List.eq_of_mem_replicate (show x ∈ List.replicate 65536 _ from hx)] at h
    exact absurd h (by decide +kernel)
  · show 65536 ≤ ((List.replicate 65536 (⟨0, 4, 0, 0, []⟩ : PushPiece)).filter fun x => queueDie plane x.queue = 0).length
    rw [List.filter_replicate, if_pos (by decide +kernel), List.length_replicate]

/-! ### Descriptors, records and the life of a command -/

/-- Two symbols in error in the slot of descriptor 1, which lies in a shared region that another package holds too. -/
def fetchSpoiled : State :=
  let s := { queued with cfg := { queued.cfg with live := { plane with dmap := { plane.dmap with shared := [⟨0, 4096, 0⟩] } } } }
  { s with mem := { s.mem with flips := ((sectorAt s 64).map fun id => (id, [0, 7, 0, 9])).toList } }

theorem witness_FetchTakesDescriptor :
    canFetch queued 0 = true ∧ canFetch (reach queued [(fetchAddr queued 0, 64)]) 0 = true ∧
    canFetch { State.reset with fe := { feReset with counts := [(0, { qZero with p := 1 })] } } 0 = true ∧ canFetch fetchSpoiled 0 = true ∧
    fetchSpoiled.mem.flips.length = 1 ∧ canFetch (reach fetchSpoiled [(fetchAddr fetchSpoiled 0, 64)]) 0 = false := by decide +kernel

/-- An operation that is Done. -/
def done_ : Op := { op (desc opNop []) with phase := .done }

/-- A state with an operation of queue 0 Done, the ring of queue 0 holding `n` records. -/
def doneWith (n : Word) : State :=
  { live plane with fe := { feReset with ops := [done_], counts := [(0, { qZero with t := n })] } }

theorem witness_RecordsWritten :
    (findOp (doneWith 15) 7 = some done_ ∧ cqRoom (doneWith 15) 0 = true ∧ cqRoom (doneWith 16) 0 = false ∧ findOp (doneWith 16) 7 = some done_) ∧
    (let s := setRing (live plane) 0 ⟨255, 0, [⟨evCqFull, 0, 0, 0, 0⟩]⟩;
      ((ringOf s 0).pending.find? fun e => e.code = evCqFull).isSome = true ∧ ringRoom s 0 = true) ∧
    ringRoom (setRing (live plane) 0 ⟨256, 0, []⟩) 0 = false := by decide +kernel

/-- The record of a NOP that is Done: handle, opcode and flags as Table 16 places them, at the ring's last slot. -/
theorem test_completion_record :
    answers (.completionRecordWrite 7) { doneWith 15 with fe := { (doneWith 15).fe with modules := [(0, ⟨true, 0, false⟩)] } } (fun t =>
      t.fe.hostOut.getLast? == some (.cplWr 0 (0x9000 + 32 * 15) (7 :: List.replicate 31 0)) && (qOf t 0).t == 16 &&
      findOp t 7 == none) = true := by decide +kernel

theorem witness_CompleteMakesDone :
    (op (desc opNop [])) ∈ (running (desc opNop [])).fe.ops ∧ (op (desc opNop [])).phase = .running ∧
    ((running (desc opNop [])).fe.ops.map (·.handle)).Nodup := by decide +kernel

theorem witness_SyncCommandsAct :
    Ready (running (desc opNop [])) 7 opNop (op (desc opNop [])) ∧ Ready (running (desc opFence [])) 7 opFence (op (desc opFence [])) ∧
    (let w := desc opWait [(24, 5), (32, 1)];
      Ready (running w) 7 opWait (op w) ∧ waitHolds (op w) (syncGet (running w) 5) = false ∧
      waitHolds (op w) (syncGet { running w with syncs := [(5, 1)] } 5) = true ∧ Ready { running w with syncs := [(5, 1)] } 7 opWait (op w)) ∧
    (let a := desc opSignal [(24, 5), (32, 2 ^ 64 - 1)];
      Ready (running a) 7 opSignal (op a) ∧ signalFar State.reset.cfg.live a = false ∧ dField a 28 1 = 0) ∧
    (let b := desc opSignal [(24, 5), (28, 1), (32, 3)];
      Ready (running b) 7 opSignal (op b) ∧ signalFar State.reset.cfg.live b = false ∧ dField b 28 1 = 1) := by decide +kernel

/-- A signal wraps modulo 2^64 and wakes the WAIT that it satisfies: both are Done. -/
theorem test_signal_wakes :
    answers (.signal 7) { withOps State.reset [op (desc opSignal [(24, 5), (32, 2)]),
        { op (desc opWait [(24, 5), (26, 1), (32, 1)]) with handle := 8, queue := 1, started := true }] with
      syncs := [(5, BitVec.allOnes 64)] } (fun t =>
      syncGet t 5 == 1 && (t.fe.ops.map fun o => (o.handle, o.phase, o.res1)) == [(7, .done, 0), (8, .done, 1)]) = true := by decide +kernel

theorem witness_WaitTimeoutRule :
    let w := desc opWait [(24, 5), (28, 100), (32, 1)]
    let o := { op w with started := true }
    let s := withOps State.reset [o]
    findOp s 7 = some o ∧ dOpcode o.desc = opWait ∧ o.phase = .running ∧ o.started = true ∧ dField o.desc 28 4 ≠ 0 ∧
    waitHolds o (syncGet s (dField o.desc 24 2)) = false ∧
    waitHolds o (syncGet { s with syncs := [(5, 1)] } (dField o.desc 24 2)) = true ∧ (s.fe.ops.map (·.handle)).Nodup := by decide +kernel

/-! ### Registers -/

theorem witness_RegisterReads :
    ReadOk State.reset (hostRequester (req 0 0 0 0 [])) (req 0 0 0 0 []).addr.toNat ∧ ReadOk (newI3c State.reset) .i3c (0x3000#32).toNat ∧
    ReadOk State.reset .i3c (syncOff (0x3FFF#14).toNat 0) ∧ ReadOk State.reset .tap 0x1054 ∧
    reqNumber (.host 0 0 0) ≠ reqNumber .i3c ∧ (2 ^ 15 : Nat) < 2 ^ 16 := by decide +kernel

theorem witness_RegisterWritesStore :
    (plainReg 0x00A0).isSome = true ∧ (0x3024 : Nat) ∈ [0x00A0, 0x1000, 0x2004, 0x2018, 0x3024] ∧
    (∀ o ∈ [0x00A0, 0x1000, 0x2004, 0x2018, 0x3024], WriteOk State.reset (hostRequester (req 0 0 0 o [])) o ∧
      WriteOk (newI3c State.reset) .i3c o) ∧
    (WriteOk State.reset .i3c (syncOff (0x3FFF#14).toNat 0x08) ∧ WriteOk State.reset .tap (syncOff 0 0x0C) ∧
      WriteOk State.reset (.host 0 0 1) (syncOff 5 0x10)) := by decide +kernel

theorem witness_RefusedRegisterAccesses :
    (reqAllowed (live plane) (rspFor 0 1 0) = true ∧ (1#4) ≠ planeSyncOwner plane 6 ∧ (1#4) ≠ plane.control) ∧
    i3cKnown [0x01, 0, 0, 0] = false ∧
    (readDenied State.reset (hostRequester (req 0 0 0 0x100000 [])) 0x100000 = none ∧ dieLost State.reset 0x100000 = true) ∧
    (let h : HeldReg := ⟨.i3c, 0x100000, none⟩;
      (({ feReset with heldReg := [h] } : FrontEnd).heldReg.find? fun h => h.req = .i3c && h.offset = (0x100000#32).toNat) = some h) := by decide +kernel

/-- SET_HI uses the low word that its requester staged, and clears it. -/
theorem test_setHi :
    answers (.setHi .i3c 5 1) (setLatch State.reset .i3c (stagedEntry 5) 0xABCD) (fun t =>
      syncGet t 5 == 0x10000ABCD && latchOf t .i3c (stagedEntry 5) == 0) = true := by decide +kernel

theorem witness_HeadsAndTotals :
    WriteOk State.reset .i3c (doorbellPage + 0x1000 * 255 + 8) ∧ WriteOk (live plane) .tap (0x10000 + 15 * 0x100 + 0x34) ∧
    (((ringOf (setRing (live plane) 15 ⟨256, 0, []⟩) 15).seq - 0).toNat ≤ 256 ∧
      256 < ((ringOf (setRing (live plane) 15 ⟨256, 0, []⟩) 15).seq - (0xFFFFFFFF#32)).toNat) ∧
    WriteOk State.reset .i3c 0x1050 ∧ reqTenant State.reset .i3c = State.reset.cfg.live.control ∧ (0x10F#32).getLsbD 8 = true := by decide +kernel

theorem witness_PaceLimitsRule :
    WriteOk State.reset .i3c 0x3000 ∧
    (let v := 0x00641F1F#32;
      v.toNat % 256 ≤ v.toNat / 256 % 256 ∧ 100 ≤ v.toNat / 65536 % 1024 ∧ v.toNat / 65536 % 1024 ≤ 560) ∧
    (let v := 0x00631F1F#32;
      ¬ (v.toNat % 256 ≤ v.toNat / 256 % 256 ∧ 100 ≤ v.toNat / 65536 % 1024 ∧ v.toNat / 65536 % 1024 ≤ 560)) := by decide +kernel

theorem witness_LockedFields :
    let s := State.reset
    let u := { s with cfg := { s.cfg with isSealed := true } }
    let w := regSet s 0x1C 5
    WriteOk s .i3c 0x3114 ∧ s.cfg.isSealed = false ∧ WriteOk s .i3c 0x1C ∧ (regGet w 0x1C 0).toNat ≤ (5#32).toNat ∧
    (4#32).toNat < (regGet w 0x1C 0).toNat ∧ WriteOk w .i3c 0x1C ∧ WriteOk u .i3c 0x3114 ∧ u.cfg.isSealed = true ∧ WriteOk u .i3c 0x1C := by
  decide +kernel

theorem witness_ShadowWrites :
    let s := State.reset
    let u := { s with cfg := { s.cfg with wait := some ⟨7, []⟩ } }
    s.cfg.wait = none ∧ shOffset 0x4000 = true ∧ WriteOk s .i3c 0x4000 ∧ WriteOk s .i3c 0x10 ∧ (1#32).getLsbD 0 = true ∧
    stageRunning s = false ∧ u.cfg.wait.isSome = true ∧ writeDenied u .i3c 0x4000 = none ∧
    stageRunning (running (desc opCfgStage [])) = true := by decide +kernel

/-! ### Data movement -/

theorem source_here (s : State) (addr a n : Nat) (h : sysAddr s.cfg.live addr = .here a) (p : PlainSrc s a n) :
    SourceIs s 0 addr n (dRead s a n) := Or.inr ⟨rfl, a, h, p, rfl⟩

theorem source_ue (s : State) (addr n : Nat) : SourceIs s 1 addr n (sRead s addr n) := Or.inl ⟨rfl, rfl⟩

theorem dest_here (s : State) (addr b n : Nat) (h : sysAddr s.cfg.live addr = .here b) (p : PlainDst s b n) : DestOk s 0 addr n :=
  Or.inr ⟨rfl, b, h, p⟩

theorem dest_ue (s : State) (addr n : Nat) : DestOk s 1 addr n := Or.inl rfl

/-- COPY of 64 bytes from 0x1000 to 0x2000, in D-space. -/
def dCopy : BitVec 512 := desc opCopy [(24, 0x1000), (32, 0x2000), (40, 64)]

/-- CONVERT of 4 FP32 elements (0xDA5A5A5A each byte 0x5A) to FP16, from D-space to S-space. -/
def dConvert : BitVec 512 := desc opConvert [(3, 4), (24, 0x1000), (32, 0x40), (40, 4), (48, 0x00), (49, 0x01)]

/-- The filled state with one Running operation. -/
def at_ (d : BitVec 512) : State := withOps filled [op d]

theorem witness_CopyMovesBytes :
    (Ready (at_ dCopy) 7 opCopy (op dCopy) ∧ Groupless (at_ dCopy) ∧ InTurn (at_ dCopy) 7 (op dCopy) ∧ dEmpty dCopy = false) ∧
    (dSrcSpace dCopy = 0 ∧ dSrc dCopy = 0x1000 ∧ dDstSpace dCopy = 0 ∧ dDst dCopy = 0x2000 ∧ dCount dCopy = 64) ∧
    SourceIs (at_ dCopy) 0 0x1000 64 (dRead (at_ dCopy) 0x1000 64) ∧ DestOk (at_ dCopy) 0 0x2000 64 :=
  ⟨by decide +kernel, by decide +kernel, source_here _ _ 0x1000 64 (by decide +kernel) (by decide +kernel),
    dest_here _ _ 0x2000 64 (by decide +kernel) (by decide +kernel)⟩

/-- A COPY moves its 64 bytes, marks the granule it writes, and ends with RESULT1 64. -/
theorem test_copy :
    answers (.copy 7) (at_ dCopy) (fun t => t.mem.cells == filled.mem.cells ++ (List.range 64).map (fun i => (0x2000 + i, 0x5A)) &&
      t.mem.written == [1, 2] && (t.fe.ops.map fun o => (o.phase, o.status, o.res1)) == [(.done, 0, 64)]) = true := by decide +kernel

theorem witness_ConvertEncodes :
    (Ready (at_ dConvert) 7 opConvert (op dConvert) ∧ Groupless (at_ dConvert) ∧ InTurn (at_ dConvert) 7 (op dConvert) ∧ dEmpty dConvert = false) ∧
    (dSrcSpace dConvert = 0 ∧ dSrc dConvert = 0x1000 ∧ operandBytes (dSfmt dConvert) (dCount dConvert) = 16 ∧ dDstSpace dConvert = 1) ∧
    SourceIs (at_ dConvert) 0 0x1000 16 (dRead (at_ dConvert) 0x1000 16) ∧ ∀ n, DestOk (at_ dConvert) 1 0x40 n :=
  ⟨by decide +kernel, by decide +kernel, source_here _ _ 0x1000 16 (by decide +kernel) (by decide +kernel), dest_ue _ _⟩

/-- 1.0 in FP32 is 0x3C00 in FP16; 2^-14 and 65504 are the ends of FP16, whose subnormals are flushed (Table 1 of *Number formats and arithmetic*). -/
theorem test_convert :
    answers (.convert 7) (dWrite (at_ dConvert) 0x1000 ([0x3F800000, 0x477FE000, 0x38800000, 0xBF800000].flatMap fun w => leBytes 4 w)) (fun t =>
      sRead t 0x40 8 == [0x00, 0x3C, 0xFF, 0x7B, 0x00, 0x04, 0x00, 0xBC]) = true := by decide +kernel

/-- COPY from another package, COPY to one, and SIGNAL of another's object. -/
def dPull : BitVec 512 := desc opCopy [(24, 3 * 2 ^ 44 + 0x1000), (32, 0x2000), (40, 64)]
def dPush : BitVec 512 := desc opCopy [(3, 1), (24, 0x40), (32, 3 * 2 ^ 44 + 0x1000), (40, 64)]
def dFar : BitVec 512 := desc opSignal [(24, 5), (26, 0x8003), (32, 2 ^ 32 - 1)]

theorem witness_RemoteOperands :
    let a := withOps (live plane) [op dPull]
    let b := withOps (live plane) [op dPush]
    let c := withOps (live plane) [op dFar]
    (Ready a 7 opCopy (op dPull) ∧ Groupless a ∧ InTurn a 7 (op dPull) ∧ dEmpty dPull = false ∧ dSrcSpace dPull = 0 ∧ sysAddr plane (dSrc dPull) = .there 3 0x1000) ∧
    (Ready b 7 opCopy (op dPush) ∧ Groupless b ∧ InTurn b 7 (op dPush) ∧ dEmpty dPush = false ∧ dSrcSpace dPush = 1 ∧ dDstSpace dPush = 0 ∧
      sysAddr plane (dDst dPush) = .there 3 0x1000 ∧ (sendData (begun b 7) (begunOp (op dPush)) 3 0x1000 (sRead b 0x40 64) stOk).2 ≠ 0) ∧
    (Ready c 7 opSignal (op dFar) ∧ signalFar plane dFar = true ∧ dField dFar 32 8 < 2 ^ 32) ∧
    (Ready (withOps (live plane) [op (desc opConvert [(24, 3 * 2 ^ 44), (40, 1)])]) 7 opConvert (op (desc opConvert [(24, 3 * 2 ^ 44), (40, 1)]))) := by
  decide +kernel

/-- Elements of one byte into 8 rows of channel 0, and back. -/
def dIn : BitVec 512 := desc opTransposeIn [(3, 8), (24, 0x1000), (32, 0), (40, 64), (48, 0x22), (49, 8)]
def dOut : BitVec 512 := desc opTransposeOut [(3, 2), (24, 0), (32, 0x2000), (40, 4), (48, 0x22), (49, 8)]

theorem witness_TransposeInLaysRows :
    (Ready (at_ dIn) 7 opTransposeIn (op dIn) ∧ Groupless (at_ dIn) ∧ InTurn (at_ dIn) 7 (op dIn) ∧ dEmpty dIn = false ∧ pimBusy (at_ dIn) dIn = false) ∧
    (dSrcSpace dIn = 0 ∧ dSrc dIn = 0x1000 ∧ operandBytes (dSfmt dIn) (dCount dIn) = 64) ∧
    SourceIs (at_ dIn) 0 0x1000 64 (dRead (at_ dIn) 0x1000 64) :=
  ⟨by decide +kernel, by decide +kernel, source_here _ _ 0x1000 _ (by decide +kernel) (by decide +kernel)⟩

theorem witness_TransposeOutReadsRows :
    (Ready (at_ dOut) 7 opTransposeOut (op dOut) ∧ Groupless (at_ dOut) ∧ InTurn (at_ dOut) 7 (op dOut) ∧ (at_ dOut).mem.flips = [] ∧ dEmpty dOut = false ∧ pimBusy (at_ dOut) dOut = false ∧
      (at_ dOut).mem.pbad = []) ∧
    (dDstSpace dOut = 0 ∧ dDst dOut = 0x2000 ∧ fmtBits (dDfmt dOut) / 8 = 1 ∧ dCount dOut = 4 ∧ (transposeBanks (dSrc dOut) 4).length = 1) ∧
    DestOk (at_ dOut) 0 0x2000 4 :=
  ⟨by decide +kernel, by decide +kernel, dest_here _ _ 0x2000 4 (by decide +kernel) (by decide +kernel)⟩

/-- ZERO of 4,096 bytes, and of one stripe of P-space. -/
def dZero : BitVec 512 := desc opZero [(32, 0x1000), (40, 4096)]
def dStripe : BitVec 512 := desc opZero [(3, 8), (32, 32767), (40, 49152)]

theorem witness_ZeroClears :
    (Ready (at_ dZero) 7 opZero (op dZero) ∧ Groupless (at_ dZero) ∧ InTurn (at_ dZero) 7 (op dZero) ∧ dEmpty dZero = false ∧ dDstSpace dZero = 0 ∧
      sysAddr (at_ dZero).cfg.live (dDst dZero) = .here 0x1000 ∧ PlainDst (at_ dZero) 0x1000 (dCount dZero) ∧
      pimOnRange (at_ dZero) 0x1000 (dCount dZero) = false ∧
      ((tileRuns (at_ dZero).cfg.live).flatMap fun r => coveredTiles r 0x1000 (dCount dZero)) = []) ∧
    (Ready (at_ dStripe) 7 opZero (op dStripe) ∧ Groupless (at_ dStripe) ∧ InTurn (at_ dStripe) 7 (op dStripe) ∧ dEmpty dStripe = false ∧ dDstSpace dStripe = 2 ∧ pimBusy (at_ dStripe) dStripe = false ∧
      dCount dStripe / 49152 = 1) := by decide +kernel

/-- RNG_FILL of one element of lane 0 in S-space, DRAW of 4 scores, INIT_PARAMS of shard 0. -/
def dFill : BitVec 512 := desc opRngFill [(3, 4), (32, 0x40), (40, 1), (48, 0x00), (49, 0), (52, 0), (56, 0x3F800000)]
def dDraw : BitVec 512 := desc opDraw [(32, 0x1000), (40, 16)]
def dInit : BitVec 512 := desc opInitParams [(32, 0)]

/-- The live image with one Running operation, and shard 0 in a state. -/
def shardAt (st : ShardState) (d : BitVec 512) : State :=
  { withOps (live plane) [op d] with step := { stepReset with shards := [(0, { shardZero with st := st })] } }

theorem witness_RandomCommands :
    (Ready (at_ dFill) 7 opRngFill (op dFill) ∧ Groupless (at_ dFill) ∧ InTurn (at_ dFill) 7 (op dFill) ∧ dEmpty dFill = false ∧ (fillBytes (at_ dFill) (op dFill)).1 ≠ [] ∧
      dDstSpace dFill = 1) ∧ (∀ n, DestOk (at_ dFill) 1 0x40 n) ∧
    (Ready (at_ dDraw) 7 opDraw (op dDraw) ∧ Groupless (at_ dDraw) ∧ InTurn (at_ dDraw) 7 (op dDraw) ∧ dEmpty dDraw = false ∧ dSrcSpace dDraw = 0 ∧ dSrc dDraw = 0x1000 ∧ 4 * dCount dDraw = 64) ∧
    SourceIs (at_ dDraw) 0 0x1000 64 (dRead (at_ dDraw) 0x1000 64) ∧
    (let s := shardAt .clean dInit;
      Ready s 7 opInitParams (op dInit) ∧ (commandShards s (op dInit)).map (·.1) = [0] ∧
      ∀ e ∈ commandShards s (op dInit), outcomePending s e.1 = false ∧ writeHeld s none e.2.stateBase (stateBytes e.2) = false) ∧
    (let s := shardAt .ready dInit;
      Ready s 7 opInitParams (op dInit) ∧ ∃ e ∈ commandShards s (op dInit), outcomePending s e.1 = true) :=
  ⟨by decide +kernel, dest_ue _ _, by decide +kernel, source_here _ _ 0x1000 64 (by decide +kernel) (by decide +kernel),
    by decide +kernel, by decide +kernel⟩

/-! ### Accumulation, sweeps and steps -/

/-- ACCUM of 2 FP32 elements in S-space to the tile at 0x200000, TICKET 0, FINAL. -/
def dAccum : BitVec 512 := desc opAccum [(3, 1), (24, 5 * 2 ^ 44 + 0x200000), (32, 0), (38, 1), (39, 0), (40, 2), (48, 0x40)]

/-- A contribution of 1.0 to the first element of a tile. -/
def part (k : Nat) : Contribution := ⟨k, .accum 7, false, false, false, [(0, 0x3F800000)]⟩

/-- The live image with one tile's sequence. -/
def tileAt (d : TileDyn) : State := { live plane with step := { stepReset with tiles := [(0x200000, d)] } }

theorem witness_TicketRules :
    stepTile (tileAt tileZero) 0x200000 = false ∧ hostDone (tileDyn (tileAt tileZero) 0x200000) = false ∧
    (let d := tileDyn (tileAt { tileZero with next := 1, held := [part 3] }) 0x200000;
      d.final = none ∧ hostDone d = false ∧ (0 : Nat) < d.next ∧ d.next ≤ 3 ∧ (∃ c ∈ d.held, c.ticket = 3) ∧ d.next + 64 ≤ 65 ∧ (∀ c ∈ d.held, c.ticket ≠ 65) ∧
      (64 : Nat) < d.next + 64 ∧ (∀ c ∈ d.held, c.ticket ≠ 64)) ∧
    (let d := tileDyn (tileAt { tileZero with final := some 4 }) 0x200000; hostDone d = false ∧ d.final = some 4 ∧ d.next ≤ 5 ∧ ∀ c ∈ d.held, c.ticket ≠ 5) ∧
    hostDone (tileDyn (tileAt { tileZero with final := some 4, next := 5 }) 0x200000) = true := by decide +kernel

/-- Applied, held, beyond the window, inside it, and above an accepted FINAL (R141, R242, R243, R245). -/
theorem test_tickets :
    (let s := tileAt { tileZero with next := 1, held := [part 3] };
      ticketCheck s 0x200000 0 false = .bad stTicket ∧ ticketCheck s 0x200000 3 false = .bad stTicket ∧
      ticketCheck s 0x200000 65 false = .wait ∧ ticketCheck s 0x200000 64 false = .fine) ∧
    ticketCheck (tileAt { tileZero with final := some 4 }) 0x200000 5 false = .bad stBadField ∧
    ticketCheck (tileAt { tileZero with final := some 4, next := 5 }) 0x200000 5 false = .bad stBadField := by decide +kernel

theorem witness_AccumAndApply :
    (let s := withOps (live plane) [op dAccum];
      Ready s 7 opAccum (op dAccum) ∧ Groupless s ∧ InTurn s 7 (op dAccum) ∧
      ((localAddr s.cfg.live (dDst dAccum)).bind fun a => (tileRunAt s.cfg.live a).bind fun r => (accumFirst r a).map fun e => (r, e)) =
        some (⟨0x200000, 1, 0, false, 0, 4096, some 0⟩, 0) ∧
      ticketChecks s ((tileSplit ⟨0x200000, 1, 0, false, 0, 4096, some 0⟩ 0 (List.replicate (dCount dAccum) 0)).map (·.1)) (dTicket dAccum)
        (dBits dAccum 38 0 1 = 1) = .fine ∧ dEmpty dAccum = false ∧ dSrcSpace dAccum = 1 ∧
      accumRoom (begun s 7) (dTicket dAccum) (tileSplit ⟨0x200000, 1, 0, false, 0, 4096, some 0⟩ 0
        (accumElems 0 (op dAccum) 4096 ⟨begun s 7, sRead s (dSrc dAccum) (operandBytes (dSfmt dAccum) (dCount dAccum)), [], 0⟩).1) = true ∧
      ticketChecks (tileAt { tileZero with next := 1 }) [0x200000] (dTicket dAccum) true = .bad stTicket) ∧
    (let s := tileAt { tileZero with held := [part 0] };
      tileRunAt s.cfg.live (0x200000#44).toNat = some ⟨0x200000, 1, 0, false, 0, 4096, some 0⟩ ∧ (0x200000 - 0x200000) % accTileBytes 0 = 0 ∧
      contribGroup s 0x200000 (part 0) = none ∧ contribRange 0x200000 0 (part 0) = (0x200000, 256) ∧
      writeHeld s none 0x200000 256 = false ∧ hostDone (tileDyn s 0x200000) = false ∧
      (tileDyn s 0x200000).held.find? (fun c => c.ticket = (tileDyn s 0x200000).next) = some (part 0) ∧ NoFailed s ∧ s.mem.poison = []) ∧
    ((2 ^ 31 - 1 : Nat) < 2 ^ 31 ∧ (1 : Nat) < 2 ^ 31 ∧ (2 ^ 31 : Nat) ≤ 2 ^ 31 - 1 + 1) := by decide +kernel

/-- The lowest ticket of a tile is applied: 1.0 lands in its first element, and the next ticket is 1. -/
theorem test_ticketApply :
    answers (.ticketApply 0x200000) (tileAt { tileZero with held := [part 0] }) (fun t =>
      dRead t 0x200000 8 == [0, 0, 0x80, 0x3F, 0, 0, 0, 0] && (tileDyn t 0x200000).next == 1 && (tileDyn t 0x200000).held == []) = true := by
  decide +kernel

def dReduce : BitVec 512 := desc opReduce [(24, 0x1000), (32, 0x2000), (40, 64), (48, 2)]
def dGather : BitVec 512 := desc opGather [(24, 0x1000), (32, 0x2000), (40, 64), (48, 2)]
def dNormPlan : BitVec 512 := desc opNorm [(24, 0x1000), (40, 16), (52, 2)]
def dNorm : BitVec 512 := desc opNorm [(24, 0x1000), (40, 16), (52, 0xFFFFFFFF)]

/-- A collective plan with no phases. -/
def cplan0 : CPlan := ⟨0, 0, false, 1, 0, 4096, 0, [], []⟩

/-- A collective command at work. -/
def coll (h : Word) : CollRun := ⟨h, 0, 2, 0, 0x1000, 0x2000, 0, false, []⟩

theorem witness_CollectiveNumbers :
    (let o := { op dReduce with phase := .waiting };
      o ∈ (withOps State.reset [o]).fe.ops ∧ o.phase = .waiting ∧ isColl o = true) ∧
    (let s := withOps State.reset [op dReduce]; Ready s 7 opReduce (op dReduce) ∧ dEmpty dReduce = false ∧ Groupless s) ∧
    (let s := withOps State.reset [op dGather];
      Ready s 7 opGather (op dGather) ∧ dEmpty dGather = false ∧ Groupless s ∧ InTurn s 7 (op dGather)) ∧
    (let s := withOps State.reset [op dNormPlan];
      Ready s 7 opNorm (op dNormPlan) ∧ dCplan dNormPlan ≠ allShards ∧ Groupless s ∧ InTurn s 7 (op dNormPlan)) ∧
    (let s := { withOps (live { plane with cplans := [(2, cplan0)] }) [op dReduce] with step := { stepReset with colls := [coll 7] } };
      s.step.colls.find? (fun c => c.handle = 7) = some (coll 7) ∧ (coll 7).begun = false ∧ collWaits s (coll 7) = false ∧
      s.hz.drop.dropped = false ∧ nmGet? s.cfg.live.cplans 2 = some cplan0 ∧ findOp s 7 = some (op dReduce) ∧ dOpcode dReduce = opReduce) ∧
    (let s := { withOps State.reset [{ op dReduce with handle := 6 }, { op dReduce with seat := 1 }] with
        step := { stepReset with colls := [coll 6, coll 7] } };
      s.step.colls.find? (fun c => c.handle = 7) = some (coll 7) ∧ collWaits s (coll 7) = true) := by decide +kernel

theorem witness_NormIsLocal :
    (Ready (at_ dNorm) 7 opNorm (op dNorm) ∧ Groupless (at_ dNorm) ∧ InTurn (at_ dNorm) 7 (op dNorm) ∧ dCplan dNorm = allShards ∧ dEmpty dNorm = false ∧ (op dNorm).empty = false ∧ dSrcSpace dNorm = 0 ∧
      dSrc dNorm = 0x1000 ∧ operandBytes (dSfmt dNorm) (dCount dNorm) = 64) ∧ SourceIs (at_ dNorm) 0 0x1000 64 (dRead (at_ dNorm) 0x1000 64) :=
  ⟨by decide +kernel, source_here _ _ 0x1000 64 (by decide +kernel) (by decide +kernel)⟩

def dSpec : BitVec 512 := desc opSweepSpec [(24, 0), (32, 1)]
def dRedo : BitVec 512 := desc opSweepRedo [(24, 0), (32, 1), (40, 0x3F000000)]
def dCommit (n : Nat) : BitVec 512 := desc opCommit [(24, 0), (32, n)]
def dAbort : BitVec 512 := desc opAbort [(24, 0), (32, 1)]

/-- Shard 0 in a state, its state region written, with one Running operation. -/
def readyShard (st : ShardState) (d : BitVec 512) : State :=
  { shardAt st d with mem := { memReset with written := List.range' 256 32 } }

theorem witness_SweepCommandsStart :
    namedShards plane 0 (dShard dSpec) = [(0, shard0)] ∧ dShard dSpec ≠ allShards ∧ dShard dRedo = 0 ∧ drivenByRun (readyShard .clean dSpec) 0 = false ∧
    (let s := readyShard .clean dSpec; Ready s 7 opSweepSpec (op dSpec) ∧ (shardDyn s 0).st = .clean ∧ sweepOf s 0 = none ∧
      masterFresh (begun s 7) 0 shard0 = false ∧ capMode shard0 = false) ∧
    (let s := readyShard .clean dRedo; Ready s 7 opSweepRedo (op dRedo) ∧ masterFresh (begun s 7) 0 shard0 = false) ∧
    (let s := readyShard .held dSpec; Ready s 7 opSweepSpec (op dSpec) ∧ (shardDyn s 0).st ≠ .clean) ∧
    (let s := readyShard .ready dRedo; Ready s 7 opSweepRedo (op dRedo) ∧ (shardDyn s 0).st ≠ .clean ∧ (shardDyn s 0).st ≠ .written) := by decide +kernel

theorem witness_CommitAndAbort :
    namedShards plane 0 (dShard (dCommit 0)) = [(0, shard0)] ∧ nmGet? plane.shards 0 = some shard0 ∧ capMode shard0 = false ∧
    (let s := readyShard .written (dCommit 0); drivenByRun s 0 = false ∧ sweepOf s 0 = none ∧ s.fe.held = [] ∧ Ready s 7 opCommit (op (dCommit 0)) ∧
      commitsStopped s = false ∧ (shardDyn s 0).st = .written ∧ headerStep s shard0 (inactiveSlot s 0 shard0) = dStepNo (dCommit 0)) ∧
    (let s := readyShard .ready (dCommit 1); Ready s 7 opCommit (op (dCommit 1)) ∧ (shardDyn s 0).st = .ready ∧
      headerStep s shard0 (inactiveSlot s 0 shard0) ≠ dStepNo (dCommit 1)) ∧
    (let s := readyShard .written dAbort; Ready s 7 opAbort (op dAbort) ∧ dShard dAbort = 0) := by decide +kernel

/-- COMMIT of a WRITTEN shard flips its epoch bit. -/
theorem test_commit :
    answers (.commit 7) (readyShard .written (dCommit 0)) (fun t => (shardDyn t 0).epoch && (shardDyn t 0).st == .clean &&
      (t.fe.ops.map fun (o : Op) => (o.phase, o.status)) == [(.done, 0)]) = true := by decide +kernel

/-- A step plan of shard 0 with one layer, and a run of it. -/
def stepPlan : StepPlan := ⟨0, [0], [⟨none, none, 0, [0]⟩], [], none, 0x3F800000, 0x40000000, 0, 5, none, [], [], []⟩
def run0 : StepRun := ⟨7, 0, 0, 1, 0, true, 0, false, none, false, [], [], [], [], false, false, false, 0, [], []⟩
def stepPlane : Plane := { plane with stepplans := [(0, stepPlan)] }

/-- The step plan with a run at work, shard 0 in a state, and its tile at the end of its tickets. -/
def stepAt (r : StepRun) (st : ShardState) : State :=
  { live stepPlane with
    units := { (live stepPlane).units with ues := ⟨BitVec.allOnes 320, []⟩ }
    mem := { memReset with written := List.range' 256 32 }
    step := { stepReset with
      runs := [r], shards := [(0, { shardZero with st := st })]
      tiles := [(0x200000, { tileZero with next := 1, final := some 0, triple := some tripleZero })] } }

/-- A sweep of shard 0. -/
def sweep0 (stop : Bool) : SweepRec := ⟨0, false, fpOne, none, 1, .run 7, stop, false, false, [], none, false, false⟩

/-- The step at work with a sweep of shard 0. -/
def sweepAt (stop : Bool) : State :=
  let s := stepAt run0 .sweeping
  { s with step := { s.step with sweeps := [sweep0 stop] } }

/-- A sweep of shard 0 whose first tile has a failed channel. -/
def sweepSpoiled : State :=
  let s := sweepAt false
  { s with units := { s.units with
    chans := ((channelOf s (fieldAddr shard0 (committedSlot s 0 shard0) 0 0)).map fun c => (c, { chanReset with failed := true })).toList } }

theorem witness_SweepsRun_reads :
    (let s := sweepAt false; let v := reach s (sweepReads s (sweep0 false) shard0 (List.range (tileCount shard0)));
      sweepOf v 0 = some (sweep0 false) ∧ sweepHeld v (sweep0 false) shard0 = false ∧ twoPass (programOf v.cfg.live shard0) = false) ∧
    (let s := sweepAt true; let v := reach s (sweepReads s (sweep0 true) shard0 [0]);
      sweepOf v 0 = some (sweep0 true) ∧ tilesHeld v (sweep0 true) shard0 [0] = false) := by decide +kernel

theorem witness_SweepsRun_spoiled :
    let s := sweepSpoiled; let v := reach s (sweepReads s (sweep0 false) shard0 (List.range (tileCount shard0)))
    sweepOf s 0 = some (sweep0 false) ∧ sweepHeld s (sweep0 false) shard0 = false ∧ s.units.chans.length = 1 ∧
    (sweepOf v 0).all (fun x => x.stop || sweepHeld v x shard0) = true := by decide +kernel

theorem witness_SweepsRun :
    (let s := stepAt run0 .clean;
      runOf s (0#16).toNat = some run0 ∧ nmGet? s.cfg.live.shards (0#16).toNat = some shard0 ∧ s.units.acorns.fatal = false ∧
      haltedPackage s = false ∧ guestHeld s 0 = false ∧ (shardDyn s 0).st = .clean ∧ sweepOf s 0 = none ∧ (0 : Nat) ∉ run0.held ∧ run0.flipped = false ∧ sweepAllowed run0 shard0 = true ∧
      (∀ t < tileCount shard0, tileReduced s (accAddr shard0 t) = true) ∧ masterFresh s 0 shard0 = false) ∧
    (let s := sweepAt false;
      sweepOf s (0#16).toNat = some (sweep0 false) ∧ (sweep0 false).stop = false ∧ sweepHeld s (sweep0 false) shard0 = false ∧
      guestHeld s 0 = false ∧ twoPass (programOf s.cfg.live shard0) = false) ∧
    (let s := sweepAt true; let ts := stopTiles s (sweep0 true) shard0 [(0, 1)];
      sweepOf s 0 = some (sweep0 true) ∧ (sweep0 true).stop = true ∧ ts = [0] ∧ tilesHeld s (sweep0 true) shard0 ts = false ∧
      stopTiles s (sweep0 true) shard0 [] = [] ∧ capMode shard0 = false ∧ (sweep0 true).pass1 = false) := by decide +kernel

def dRun : BitVec 512 := desc opPlanRun [(24, 0), (32, 1)]

theorem witness_PlanRunLife :
    (Ready (running dRun) 7 opPlanRun (op dRun) ∧ (running dRun).hz.drop.dropped = false) ∧
    (let s := stepAt { run0 with started := false } .held;
      runBy s 7 = some { run0 with started := false } ∧ runPlan s run0 = some stepPlan ∧ earlierRuns s { run0 with started := false } = false ∧
      outlivedBy s { run0 with started := false } = false ∧ haltedPackage s = false ∧ s.units.acorns.fatal = false ∧ (∀ n ∈ stepPlan.shards, (shardDyn s n).st = .clean ∨ (shardDyn s n).st = .held)) ∧
    (let r := { run0 with zeroed := true, signalled := true }; runBy (stepAt r .clean) 7 = some r) := by decide +kernel

theorem witness_VerdictAndTriple :
    (let s := stepAt run0 .written;
      s.step.runs.find? (fun r => r.tenant = BitVec.ofNat 4 (0 : Fin 16).val && r.started && !r.entered && r.verdict.isNone) = some run0 ∧
      runPlan s run0 = some stepPlan ∧ comparing s (BitVec.ofNat 4 (0 : Fin 16).val) = false ∧ s.hz.drop.dropped = false ∧
      packageTriple s stepPlan = some tripleZero ∧ stepPlan.norm = none) ∧
    ({ tripleZero with nf := true } : Triple).nf = true ∧ (verdictOf stepPlan 0 1 tripleZero).outcome = 0 := by decide +kernel

/-- A norm above theta is clipped: S = 4.0 and theta = 1.0 give a redo with c = 0.5 (R258, Table 2). -/
theorem test_verdict :
    (verdictOf stepPlan 0 1 ⟨0x40800000, 0, false⟩).outcome = 1 ∧ (verdictOf stepPlan 0 1 ⟨0x40800000, 0, false⟩).clip = 0x3F000000 := by
  decide +kernel

/-- A verdict of commit. -/
def verdict0 : Verdict := verdictOf stepPlan 0 1 tripleZero

theorem witness_CommitFlipZero :
    (let r := { run0 with verdict := some verdict0 };
      let s := stepAt r .written;
      commitsStopped s = false ∧ committable s (BitVec.ofNat 4 (0 : Fin 16).val) = some r ∧ runPlan s r = some stepPlan) ∧
    commitsStopped State.reset = true ∧
    (let r := { run0 with verdict := some verdict0, flipped := true };
      let s := stepAt r .clean;
      s.step.runs.find? (fun r => r.tenant = BitVec.ofNat 4 (0 : Fin 16).val && r.flipped && !r.gathered.contains 0 &&
        (match runPlan s r with | some g => (match g.layers[0]? with | some l => gatherDone s r 0 l | none => false) | none => false)) = some r ∧
      runPlan s r = some stepPlan ∧ stepPlan.layers[0]? = some ⟨none, none, 0, [0]⟩) ∧
    (let r := { run0 with verdict := some verdict0, flipped := true, gathered := [0] };
      let s := settle (settleSkips (BitVec.ofNat 4 (0 : Fin 16).val) (stepAt r .clean));
      zeroable s (BitVec.ofNat 4 (0 : Fin 16).val) = some r ∧ runPlan s r = some stepPlan ∧ (∀ x ∈ stepTiles s.cfg.live stepPlan, accessHeld s x.1 x.2 = false) ∧ NoFailed s ∧
      s.mem.poison = [] ∧ (0x200000, 16384) ∈ stepTiles s.cfg.live stepPlan) := by decide +kernel

theorem witness_EngineFaultsAndDispatch :
    (let s := { State.reset with units := { unitsReset with ues := ⟨1 <<< 319, []⟩ } };
      s.units.ues.avail.getLsbD (319 : Fin 320).val = true ∧ (∀ d < 6, dieSweeps s.cfg.live d = false) ∧ (0 : Nat) < 320 ∧ 0 ≠ (319 : Fin 320).val ∧
      (let v := settle (slotGathers s); let t := BitVec.ofNat 4 (0 : Fin 16).val; let y := yieldEngine v (.ue 319) t;
        engineFor v (.ue 319) t = true ∧ v.units.acorns.fatal = false ∧ guestWaits y t (stepNeeds y (.ue 319)) = false ∧
        (turnsDone y (.ue 319) t && rivalTurn y (.ue 319) t) = false)) ∧
    (let s := { live plane with units := { (live plane).units with ues := ⟨1, []⟩ } };
      s.units.ues.avail.getLsbD (0 : Fin 320).val = true ∧
      (∃ d < 6, dieSweeps s.cfg.live d = true ∧ ∀ k ∈ dieUes d, k ≠ (0 : Fin 320).val → s.units.ues.avail.getLsbD k = false)) := by decide +kernel

/-- A step plan of tenant 1 beside that of tenant 0, whose turn at UE 0 is over: tenant 0 waits for it (R596). -/
def rivals : State :=
  let p := { stepPlane with
    shards := [(0, shard0), (1, { shard0 with tenant := 1, stateBase := 0x700000, accBase := 0x780000 })]
    stepplans := [(0, stepPlan), (1, { stepPlan with tenant := 1, shards := [1] })] }
  let s := stepAt run0 .clean
  { s with
    cfg := { s.cfg with live := p, shadow := p }
    units := { s.units with ues := ⟨BitVec.allOnes 320, []⟩ }
    step := { s.step with
      runs := [run0, { run0 with handle := 8, tenant := 1, plan := 1 }], turns := [((.ue 0, 0), 1)]
      tiles := s.step.tiles ++ [(0x780000, { tileZero with next := 1, final := some 0, triple := some tripleZero })] } }

theorem witness_EngineFaultsAndDispatch_turns :
    let v := settle (slotGathers rivals); let y := yieldEngine v (.ue 0) 0
    engineFor v (.ue 0) 0 = true ∧ v.units.acorns.fatal = false ∧ guestWaits y 0 (stepNeeds y (.ue 0)) = false ∧
    (turnsDone y (.ue 0) 0 && rivalTurn y (.ue 0) 0) = true := by decide +kernel

/-! ### Digests, streams, programs, tiers, groups, contexts and the configuration -/

def dDigest : BitVec 512 := desc opDigest [(24, 0)]
def dRepair : BitVec 512 := desc opRepair [(24, 0), (28, 0), (32, 6)]

/-- Data of a repair from package 6 of step 0. -/
def repairData (step : DWord) (poisoned : Bool) : RepairData := ⟨6, step, [], [], [], poisoned⟩

/-- The live image with a repair of shard 0 due. -/
def repairDue (sources : List (BitVec 13)) : State :=
  { live plane with units := { (live plane).units with integ := { integrityReset with repairs := [(0, 0)], sources := [(0, 0, sources)] } } }

theorem witness_DigestsAndRepairs :
    (let s := withOps (live plane) [op dDigest];
      Ready s 7 opDigest (op dDigest) ∧ nmGet? s.cfg.live.shards (dShard dDigest) = some shard0 ∧ dField dDigest 28 1 ≠ 1 ∧
      digestOpen (reachFree (begun s 7) (digestRanges (begun s 7) (op dDigest))) (dShard dDigest) shard0 = true) ∧
    (let s := { live plane with step := { stepReset with compares := [0] } };
      let v := reachFree s (digestReads s 0 shard0);
      s.step.compares.contains (0#16).toNat = true ∧ viewOpen s 0 shard0 = true ∧ digestOpen v 0 shard0 = true ∧
      (let u := { v with step := { v.step with compares := v.step.compares.filter fun x => x ≠ 0 } };
        let cmp := compared u shard0 (storedDigests u shard0 (committedDigest u 0 shard0)) [⟨6, some [0]⟩, ⟨7, some [0]⟩];
        cmp.length = 3 ∧ ∀ l ∈ cmp, ∀ k ∈ cmp, l.2 = k.2)) ∧
    (let s := repairDue [6, 7];
      s.units.integ.repairs.contains (0, 0) = true ∧ repairSources s 0 shard0 0 = [6, 7] ∧ (repairData 0 false).source = 6 ∧
      (repairData 0 false).poisoned = false ∧ (repairData 0 true).poisoned = true) ∧
    repairSources (repairDue [6]) 0 shard0 0 = [6] ∧
    (let s := withOps (live plane) [op dRepair];
      Ready s 7 opRepair (op dRepair) ∧ runOf s (dShard dRepair) = none ∧ dField dRepair 28 4 ≠ allShards ∧
      (repairData 0 false).source.toNat = dField dRepair 32 2 ∧
      (repairData 0 false).stepNo.toNat = headerStep (begun s 7) shard0 (committedSlot (begun s 7) 0 shard0) ∧
      (repairData 1 false).stepNo.toNat ≠ headerStep (begun s 7) shard0 (committedSlot (begun s 7) 0 shard0)) ∧
    majority [3, 3, 5] = some 3 := by decide +kernel

/-- A stored stream of 16 FP32 elements, and what reads it back. -/
def dStore : BitVec 512 := desc opActStore [(24, 0x1000), (32, 0x2000), (40, 16), (48, 0), (49, 0), (56, 0x10000)]
def dLoad (n : Nat) : BitVec 512 := desc opActLoad [(24, 0x2000), (32, 0x3000), (40, 16), (48, 0), (49, 0), (56, n)]
def stored : List Byte := (actStream 0 0 16 (List.replicate 64 0x5A)).1
def loading (n : Nat) : State := dWrite (withOps filled [op (dLoad n)]) 0x2000 stored
def dSnap : BitVec 512 := desc opSnapshot [(24, 0), (28, 0), (32, 5 * 2 ^ 44 + 0x800000), (48, 0)]

theorem witness_StreamsAndSnapshots :
    (Ready (at_ dStore) 7 opActStore (op dStore) ∧ Groupless (at_ dStore) ∧ InTurn (at_ dStore) 7 (op dStore) ∧ dEmpty dStore = false ∧
      actBound (dDfmt dStore) (dCount dStore) ≤ dField dStore 56 8 ∧ dSrcSpace dStore = 0 ∧ dSrc dStore = 0x1000 ∧
      operandBytes (dSfmt dStore) (dCount dStore) = 64 ∧ dDst dStore = 0x2000) ∧
    SourceIs (at_ dStore) 0 0x1000 64 (dRead (at_ dStore) 0x1000 64) ∧ DestOk (at_ dStore) 0 0x2000 4096 := 
  ⟨by decide +kernel, source_here _ _ 0x1000 64 (by decide +kernel) (by decide +kernel),
    dest_here _ _ 0x2000 4096 (by decide +kernel) (by decide +kernel)⟩

theorem witness_StreamsAndSnapshots_load :
    (let n := stored.length; let s := loading n; let bs := dRead s 0x2000 n;
      let a := actHead (padTo 64 0 (bs.take 64)); let entries := actEntries bs a.pages;
      Ready s 7 opActLoad (op (dLoad n)) ∧ Groupless s ∧ InTurn s 7 (op (dLoad n)) ∧ dEmpty (dLoad n) = false ∧ dSrc (dLoad n) = 0x2000 ∧ dField (dLoad n) 56 8 = n ∧
      actCheck a entries (dSfmt (dLoad n)) (dCount (dLoad n)) (dField (dLoad n) 56 8) false = none ∧
      actCheck a entries 1 (dCount (dLoad n)) (dField (dLoad n) 56 8) false = some stBadFmt ∧
      (actRebuild (actUnit a.fmt) entries ((bs.map fun b => (b, false)).drop (64 + actTable a.pages)) s).1.free = s.free ∧
      dDstSpace (dLoad n) = 0 ∧ dDst (dLoad n) = 0x3000) ∧
    SourceIs (loading stored.length) 0 0x2000 stored.length (dRead (loading stored.length) 0x2000 stored.length) ∧
    DestOk (loading stored.length) 0 0x3000 64 :=
  ⟨by decide +kernel, source_here _ _ 0x2000 _ (by decide +kernel) (by decide +kernel),
    dest_here _ _ 0x3000 64 (by decide +kernel) (by decide +kernel)⟩

theorem witness_StreamsAndSnapshots_snap :
    (let s := readyShard .clean dSnap;
      Ready s 7 opSnapshot (op dSnap) ∧ Groupless s ∧ InTurn s 7 (op dSnap) ∧ (snapShards s.cfg.live (op dSnap)).map (·.1) = [0] ∧ viewOpen (begun s 7) 0 shard0 = true ∧
      (snapReads (begun s 7) 0 shard0 (dField dSnap 28 1)).length = 1 ∧
      (∀ x ∈ snapReads (begun s 7) 0 shard0 (dField dSnap 28 1), PlainSrc s x.1 x.2) ∧ dDst dSnap = 5 * 2 ^ 44 + 0x800000) ∧
    DestOk (readyShard .clean dSnap) 0 (5 * 2 ^ 44 + 0x800000) (64 + 16384) :=
  ⟨by decide +kernel, dest_here _ _ 0x800000 _ (by decide +kernel) (by decide +kernel)⟩

/-- PIM_RUN of program 1 on channel 3 of stack 0: three words, one atom. -/
def dPim : BitVec 512 := desc opPimRun [(24, 1), (32, 0), (33, 3), (34, 1), (48, 2 ^ 48 - 1)]
def word0 : DWord := BitVec.ofNat 64 (1 * 2 ^ 56 + 4 * 2 ^ 40 + 5 * 2 ^ 24)
def pimPlane : Plane := { plane with pipprogs := [(1, ⟨false, 1, 1, 1, 8, [word0, word0, word0 ||| 0x400000]⟩)] }
def pimAt (l : NMap PipRun) : State :=
  let s := withOps (live pimPlane) [op dPim]
  { s with units := { s.units with pips := { s.units.pips with runs := l } } }
def env0 : PipEnv := ⟨3, 0, 0, 0, 0, 0, 0⟩

theorem witness_RowPrograms :
    (Ready (pimAt []) 7 opPimRun (op dPim) ∧ pimChannels dPim = [3] ∧ (pimAt []).units.acorns.fatal = false ∧
      (∀ c ∈ pimChannels dPim, nmGet? (pimAt []).units.pips.runs c = none ∧ (chanOf (pimAt []) c).retrain = false ∧ c ∉ (pimAt []).units.margin)) ∧
    (let s := pimAt [(3, ⟨7, 0, false⟩)];
      nmGet? s.units.pips.runs (3 : Fin 256).val = some ⟨7, 0, false⟩ ∧ findOp s 7 = some (op dPim) ∧ (chanOf s 3).failed = false ∧
      heatWait s 3 = false ∧ (chanOf s 3).retrain = false ∧ (nextAtom s ⟨7, 0, false⟩).length = 3 ∧
      ({ s with units := { s.units with proc := [3] } } : State).units.proc.contains (3 : Fin 256).val = true) ∧
    (pwOp word0 = 1 ∧ pwMask word0 = false ∧ (47 : Nat) < 48 ∧ operandRow env0 (pwDst word0) = some 5) := by decide +kernel

/-- MIGRATE of two units of region 0 to the capacity tier, whose pool is one region. -/
def dMigrate : BitVec 512 := desc opMigrate [(24, 5 * 2 ^ 44), (40, 131072), (48, 1)]
def dUnpin : BitVec 512 := desc opPin [(32, 5 * 2 ^ 44), (40, 131072), (48, 0)]

/-- The live image with a pool region of two frames' worth of room less what is in use, pins and moves. -/
def tierAt (pool : List Nat) (pins : List Nat) (moves : List (Nat × Nat × Word)) (d : BitVec 512) : State :=
  let s := withOps (live { plane with dmap := { plane.dmap with capPool := pool } }) [op d]
  { s with units := { s.units with tier := { s.units.tier with lpChannels := 2, pins := pins, moves := moves } } }

theorem witness_TierMoves :
    (let s := tierAt [] [1] [] dMigrate;
      Ready s 7 opMigrate (op dMigrate) ∧ Groupless s ∧ dEmpty dMigrate = false ∧ localAddr s.cfg.live (dSrc dMigrate) = some 0 ∧ dField dMigrate 48 1 = 1 ∧
      (∃ u ∈ blocksOf 65536 0 (dCount dMigrate), u ∈ s.units.tier.pins)) ∧
    (let s := tierAt [] [2] [] dMigrate;
      (∀ u ∈ blocksOf 65536 0 (dCount dMigrate), u ∉ s.units.tier.pins) ∧
      (freeFrames (begun s 7) 1).length < (unitsNeedFrame (begun s 7) 0 (dCount dMigrate) 1).length) ∧
    (let d := desc opMigrate [(24, 5 * 2 ^ 44), (40, 131072), (48, 0)];
      let s := { tierAt [] [] [] d with units := { (tierAt [] [] [] d).units with tier := { (tierAt [] [] [] d).units.tier with placed := [(0, capBase)] } } };
      Ready s 7 opMigrate (op d) ∧ unitsNeedFrame (begun s 7) 0 131072 0 = [] ∧ unitsToMove (begun s 7) 0 131072 0 = [0]) ∧
    (let s := tierAt [] [0, 1, 2] [] dUnpin;
      Ready s 7 opPin (op dUnpin) ∧ Groupless s ∧ InTurn s 7 (op dUnpin) ∧ dEmpty dUnpin = false ∧ localAddr s.cfg.live (dDst dUnpin) = some 0 ∧ dField dUnpin 48 1 = 0) ∧
    (let s := tierAt [] [] [(1, capBase, 7)] dMigrate;
      (movesUnderWay s).find? (fun m => m.1 = (1#28).toNat) = some (1, capBase, 7) ∧ copyWaits s (1, capBase, 7) = false ∧ NoFailed s) := by decide +kernel

/-- A poisoned granule of a unit that comes to the fast tier. -/
theorem witness_TierMoves_poison :
    let s := { tierAt [] [] [(1, 2 * 65536, 7)] dMigrate with mem := { memReset with cells := [(65540, 9)], written := [16], poison := [1024] } };
      (movesUnderWay s).find? (fun m => m.1 = (1#28).toNat) = some (1, 2 * 65536, 7) ∧ copyWaits s (1, 2 * 65536, 7) = false ∧ NoFailed s ∧
      2 * 65536 < capBase ∧ memGet s.mem.cells 65540 = 9 ∧ 65540 / 64 ∈ s.mem.poison := by decide +kernel

def dBegin : BitVec 512 := desc opTxgBegin [(24, 63), (32, 128)]
def dEnd (e : Nat) : BitVec 512 := desc opTxgEnd [(24, 63), (25, e)]

/-- Group 63 of queue 0, open, with one locked line of new data. -/
def group (l : NMap (List Byte)) : Txg := ⟨63, 0, 0, 0, 128, l, .open_⟩
def lines0 : NMap (List Byte) := [(8, List.replicate 128 9)]

/-- A state with transaction groups, waiting lock requests and operations. -/
def txgAt (gs : List Txg) (ws : List LockWait) (l : List Op) : State :=
  { withOps (live plane) l with step := { stepReset with txgs := gs, locks := ws } }

/-- A TXG_END at work. -/
def ending : Op := { op (dEnd 0) with started := true, order := 5 }

theorem witness_TransactionGroups :
    (let s := txgAt [group []] [] [op dBegin]; Ready s 7 opTxgBegin (op dBegin) ∧ (txgOf s (dField dBegin 24 1)).isSome = true) ∧
    (let s := txgAt [] [] [op dBegin];
      txgOf s (dField dBegin 24 1) = none ∧ (s.step.txgs.filter fun x => x.tenant = 0).length < (planeTenant s.cfg.live 0).txgMax) ∧
    (let s := { txgAt [] [] [op dBegin] with cfg := { cfgReset with live := { plane with tenants := [] } } };
      Ready s 7 opTxgBegin (op dBegin) ∧ txgOf s 63 = none ∧ (planeTenant s.cfg.live 0).txgMax ≤ (s.step.txgs.filter fun x => x.tenant = 0).length) ∧
    (match groupWrite (txgAt [group lines0] [] []) 63 0x400 (List.replicate 128 1) with | .ok t => t.step.locks == [] | _ => false) = true ∧
    (let s := txgAt [group lines0] [] [op (dEnd 1)];
      Ready s 7 opTxgEnd (op (dEnd 1)) ∧ beginPending (begun s 7) (op (dEnd 1)) = false ∧ txgOf s (dField (dEnd 1) 24 1) = some (group lines0) ∧
      (group lines0).queue = (op (dEnd 1)).queue ∧ (group lines0).state = .open_ ∧ dField (dEnd 1) 25 1 = 1 ∧ dField (dEnd 0) 25 1 = 0) ∧
    (let s := txgAt [group lines0] [] [ending];
      txgOf s (63 : Fin 64).val = some (group lines0) ∧ endOf s (group lines0) = some ending ∧ groupOps s (group lines0) = [] ∧ NoFailed s ∧
      s.mem.poison = [] ∧ s.units.integ.refetch = [] ∧ (∀ l ∈ (group lines0).lines, l.2.length = 128) ∧ ((group lines0).lines.map (·.1)).Nodup) ∧
    (let s := txgAt [group []] [⟨8, 63, 0, false⟩] [];
      (waitersOf s (8#37).toNat).find? (fun w => w.group = (63 : Fin 64).val) = some ⟨8, 63, 0, false⟩ ∧ lineFits s (group []) 8 = true ∧ lockOf s 8 = none ∧
      (∀ y ∈ waitersOf s 8, y.round ≤ 0) ∧ txgOf s 63 = some (group []) ∧ endOf (abortOps s (group [])) (group []) = none) ∧
    (let x := { group lines0 with wset := 1 }; lineFits (txgAt [x] [] []) x 9 = false) ∧
    (let s := txgAt [group []] [⟨8, 63, 0, false⟩] [ending]; endOf (abortOps s (group [])) (group []) = some ending) :=
  by decide +kernel

/-! ### Contexts and the configuration -/

/-- The root key, the signer's key, and the signatures of a small delta image: header, CERT and SIGNATURE alone (made with the
private keys 0x1357 and 0x2468; coordinates, r and s little-endian, as every value of an image section). -/
def rootKey : List Byte := beBytes 97 0x049a4c52feb4e336aef554aafb2b29d0079db6dcd3adea682a274c83c1f20445c955970342a35418ccc2f8345462b6df72a7d73f6f6202ae694d2fb31ee3fc045c047a9023c090191fe8a6ad983daaeee1f98a0a135e68e746ad9ee123e7590033
def signerBody : List Byte := beBytes 97 0x04d8b015acf538436035375e562d347e02f056f740e9327571f7f130bb90ad65996c294ed7482c49d8d029d64138641ae3713cbec0ab4e897a0102d25cdea07b1d308d94d6fc4b154d927e7dee2a93b0de2d50bc5e59037dbf1ab22fb93e6baffc ++ [0, 0, 0, 0, 10, 0, 0, 0, 7, 0, 0, 0]
def certBytes : List Byte := rootKey ++ signerBody ++
  beBytes 96 0x67d7ee62548f8c52c2307460f13d45c403e5908a9bae031d552ab0cb2117c503d9ff3aabe1cf89e69de22a7c99213ff472ede7427eda1b747015d555dca4f92d1c6aeb2a2e0eecc3521f0f98615f8131c2021290e8f12249b5f3ad133dfcade4
def imageHead : List Byte := leBytes 4 0x3149424C ++ leBytes 2 1 ++ leBytes 2 1 ++ leBytes 8 8288 ++ leBytes 8 9 ++ leBytes 2 5 ++ leBytes 2 8 ++
  leBytes 4 3 ++ leBytes 8 0 ++ leBytes 4 2 ++ leBytes 4 128 ++ leBytes 80 0 ++
  (leBytes 2 0xF0 ++ leBytes 6 0 ++ leBytes 8 4096 ++ leBytes 8 302 ++ leBytes 8 0) ++
  (leBytes 2 0xFF ++ leBytes 6 0 ++ leBytes 8 8192 ++ leBytes 8 96 ++ leBytes 8 0)
def image : List Byte := padTo 4096 0 imageHead ++ padTo 4096 0 certBytes ++
  beBytes 96 0x67d7ee62548f8c52c2307460f13d45c403e5908a9bae031d552ab0cb2117c503d9ff3aabe1cf89e69de22a7c99213ff423fcad202f74884cbb1e5b7b0d9d9fd4c4cf9d85c7e60e9a2f155e63e8c082e4d1f399d366c14ae0f05e8202a6d09240

/-- The SHA-384 of the root key, which its fuses hold. -/
def rootHash : List Byte := beBytes 48 0xc17504484bb1f99e49801c7ae720450a426a2c46411abc1e60482da5a95d80ed53c69dd989e432c6f6710e8d8cf940b0

/-- A package whose fuses hold the test root key, with a delta image in memory and a CFG_STAGE of it. -/
def staging (img : List Byte) : State :=
  let s := withOps State.reset [op (desc opCfgStage [(24, 0x10000), (40, img.length)])]
  dWrite { s with units := { s.units with fuses := { s.units.fuses with rootHash := rootHash } } } 0x10000 img

theorem witness_image_bad : imageGood State.reset [] = false := by decide +kernel

/-- A tenant with queue 1, sync object 5 and no UEs. -/
def ctxPlane : Plane := { plane with tenants := [(0, bootTenant0), (1, { bootTenant0 with ueOwn := 0 })], syncs := [(5, 1)] }
def dSave : BitVec 512 := desc opCtxSave [(32, 5 * 2 ^ 44 + capBase), (40, 12288)]
def dRestore : BitVec 512 := desc opCtxRestore [(24, 5 * 2 ^ 44 + capBase), (40, 12288)]
def ctxOp (d : BitVec 512) : Op := { op d with tenant := 1, queue := 1 }
def ctxAt (d : BitVec 512) : State := { withOps (live ctxPlane) [ctxOp d] with syncs := [(5, 77)] }

theorem ctx_syncs : tenantSyncs ctxPlane 1 = [5] := by decide +kernel

theorem ctx_ues : tenantUes ctxPlane 1 = [] := by decide +kernel

/-- The context of tenant 1 as R602 lays it out: header, one queue, one sync object. -/
def saved : List Byte :=
  padTo 4096 0 (leBytes 4 0x54585443 ++ leBytes 2 1 ++ leBytes 2 1 ++ leBytes 8 9 ++ leBytes 8 12288 ++ leBytes 2 1 ++ leBytes 2 0 ++ leBytes 2 1 ++
    leBytes 8 0 ++ leBytes 2 0 ++ leBytes 16 bootTenant0.seed.toNat) ++ padTo 4096 0 (leBytes 4 1) ++ padTo 4096 0 (leBytes 8 5 ++ leBytes 8 77)

theorem witness_ctx_good : ctxGood (ctxAt dRestore) 1 12288 saved = true := by
  simp only [ctxGood, ctxOffsets, ctxBytes, show (ctxAt dRestore).cfg.live = ctxPlane from rfl, ctx_syncs, ctx_ues]
  decide +kernel

theorem witness_ctx_bad : ctxGood (ctxAt dRestore) 1 12288 [] = false := by decide +kernel

/-- The length of the context, worked out as R602 gives it: three sections of 4 KiB. -/
theorem test_ctx_length : (ctxImage (ctxAt dSave) 1).length = 12288 := by
  simp only [ctxImage, show (ctxAt dSave).cfg.live = ctxPlane from rfl, ctx_syncs, ctx_ues, ctxSection_length, ctxHeader_length,
    show tenantQueues ctxPlane 1 = [1] by decide +kernel, show tenantPlans ctxPlane 1 = [] by decide +kernel,
    show tenantShards ctxPlane 1 = [] by decide +kernel,
    List.length_append, List.flatMap_cons, List.flatMap_nil, List.append_nil, ctxQueue_length, ctxSync_length, List.length_nil]
  decide

theorem witness_ctxSave :
    (Ready (ctxAt dSave) 7 opCtxSave (ctxOp dSave) ∧ tenantDone (begun (ctxAt dSave) 7).fe.ops (ctxOp dSave) = true ∧
      ctxBusy (begun (ctxAt dSave) 7) (ctxOp dSave) = false ∧ Groupless (ctxAt dSave) ∧ InTurn (ctxAt dSave) 7 (ctxOp dSave) ∧ dDst dSave = 5 * 2 ^ 44 + capBase) ∧
    DestOk (ctxAt dSave) 0 (5 * 2 ^ 44 + capBase) 12288 :=
  ⟨by decide +kernel, dest_here _ _ capBase _ (by decide +kernel) (by decide +kernel)⟩

theorem witness_ctxRestore :
    let s := dWrite (ctxAt dRestore) capBase (leBytes 4 1)
    Ready s 7 opCtxRestore (ctxOp dRestore) ∧ tenantDone (begun s 7).fe.ops (ctxOp dRestore) = true ∧
    ctxBusy (begun s 7) (ctxOp dRestore) = false ∧ Groupless s ∧ InTurn s 7 (ctxOp dRestore) ∧ dSrc dRestore = 5 * 2 ^ 44 + capBase ∧
    sysAddr s.cfg.live (dSrc dRestore) = .here capBase ∧ readHeld s capBase 12288 = false ∧ poisonIn s capBase 12288 = false ∧
    (tenantSyncs ctxPlane 1)[0]? = some 5 ∧ 4 ∉ [5] := by
  rw [ctx_syncs]; decide +kernel

def dStage : BitVec 512 := desc opCfgStage [(24, 0x1000), (40, 64)]
def dCfgCommit : BitVec 512 := desc opCfgCommit []

/-- A staged shadow plane, with one Running operation. -/
def stagedWith (p : Plane) (d : BitVec 512) : State :=
  let s := withOps (live plane) [op d]
  { s with cfg := { s.cfg with shadow := p, staged := true } }

theorem witness_ContextsAndConfiguration :
    ((Ready (at_ dStage) 7 opCfgStage (op dStage) ∧ (at_ dStage).cfg.wait = none ∧ loaderUnit ∉ (at_ dStage).units.acorns.failed ∧
      Groupless (at_ dStage) ∧ InTurn (at_ dStage) 7 (op dStage) ∧ dSrc dStage = 0x1000 ∧ dCount dStage = 64 ∧ imageGood (at_ dStage) (dRead (at_ dStage) 0x1000 64) = false) ∧
    (let s := running dCfgCommit;
      Ready s 7 opCfgCommit (op dCfgCommit) ∧ tenantDone (begun s 7).fe.ops (op dCfgCommit) = true ∧ s.cfg.wait = none ∧
      loaderUnit ∉ s.units.acorns.failed ∧ s.cfg.staged = false) ∧
    (let s := stagedWith { plane with queues := [(0, { bootQueue0 with cqEntries := 0 })] } dCfgCommit;
      Ready s 7 opCfgCommit (op dCfgCommit) ∧ s.cfg.staged = true ∧ commitFailure (begun s 7) = some stBadLen) ∧
    (let s := stagedWith { bootPlane with queues := [(0, { bootQueue0 with weight := 3 })] } dCfgCommit;
      commitFailure (begun { s with cfg := { s.cfg with live := bootPlane } } 7) = none) ∧
    (let s := { State.reset with cfg := { cfgReset with wait := some ⟨7, [0]⟩ } }; quietPoint s ⟨7, [0]⟩ = true) ∧
    (let s := { running (desc opNop []) with cfg := { cfgReset with wait := some ⟨8, [0]⟩ } };
      (s.cfg.wait = some ⟨8, [0]⟩) ∧ quietPoint s ⟨8, [0]⟩ = false)) ∧
    SourceIs (at_ dStage) 0 0x1000 64 (dRead (at_ dStage) 0x1000 64) :=
  ⟨by decide +kernel, source_here _ _ 0x1000 64 (by decide +kernel) (by decide +kernel)⟩

/-! ### Hazel frames -/

/-- A WRITE frame to this package. -/
def wframe (addr : Nat) (l : List Byte) : Frame := sealFrame { frame 0x01 addr l with dst := 5, spid := 9, plan := 0xFFFFFFFF }

theorem witness_WritesLand :
    let s := live plane
    let f := wframe 0x2000 [1, 2, 3]
    (f.type = 0x01 ∧ frameGood f = true ∧ frameGood { f with crc := f.crc + 1 } = false ∧ f.dst = s.cfg.live.package ∧ pullOf s f = none) ∧
    (dataRefusal s (wframe 0x4000000 [1]) = some stBounds ∧ frameGood (wframe 0x4000000 [1]) = true) ∧
    spidOk s { f with spid := 8 } = false ∧
    (let u := { s with units := { s.units with proc := List.range 256 } };
      spidOk u f = true ∧ dataRefusal u f = none ∧ writeHeld u none f.addr.toNat f.payload.length = true) ∧
    (dataRefusal s f = none ∧ spidOk s f = true ∧ countsFull s f = false ∧ writeHeld s none f.addr.toNat f.payload.length = false ∧ NoFailed s ∧
      s.mem.poison = [] ∧ s.units.integ.refetch = [] ∧ (∀ e ∈ s.cfg.live.shards, touchedTiles s e.1 e.2 f.addr.toNat f.payload.length = [])) ∧
    (noGroup { f with stream := 0x80000000 }.stream = true ∧ noGroup f.stream = false ∧ fFinal f = false ∧ (countOf s f).isNone = true ∧
      fFinal { f with flags := 1 } = true ∧ ({ f with flags := 1 } : Frame).prior.toNat ≤ (countOf s f).elim 0 (·.landed) ∧
      (countOf s f).elim 0 (·.landed) < ({ f with flags := 1, prior := 1 } : Frame).prior.toNat) := by decide +kernel

/-- A FINAL frame that names one earlier frame waits for it, and then adds its SIG_ADD (R351). -/
theorem test_write_final :
    (let f := sealFrame { wframe 0x2000 [7] with flags := 1, prior := 1, group := 6, sigAdd := 3, stream := 2 };
      answers (.write 0 f) (live plane) (fun t => syncGet t 6 == 0 && memGet t.mem.cells 0x2000 == 0 &&
        answers (.write 0 (sealFrame { wframe 0x2001 [8] with group := 6, stream := 2 })) t fun u => syncGet u 6 == 3 && dRead u 0x2000 2 == [7, 8])) = true := by
  decide +kernel

/-- The step at work with its mark, and a tree of it. -/
def markedAt (att : Nat) : State := { live plane with step := { stepReset with marks := [(0, (1, att))] } }
def accFrame : Frame := sealFrame { frame 0x02 0x200000 (List.replicate 64 0) with dst := 5, spid := 9, step := 1, attempt := 2 }
def narrowFrame : Frame := sealFrame { frame 0x04 0x400000 (List.replicate 64 1) with dst := 5, spid := 9, step := 1, attempt := 2 }
def tree0 : TreeRun := ⟨.step 7, 0, 2, 1, 0, 0, ⟨tripleZero, [], false, []⟩, [], [], false, []⟩
def treeFrame (ty : BitVec 8) : Frame := sealFrame { frame ty 0 (List.replicate 12 0) with dst := 5, spid := 9, plan := 2, step := 1 }
def treeAt : State := { live { plane with cplans := [(2, cplan0)] } with step := { stepReset with trees := [tree0] } }
def serveFrame : Frame := sealFrame
  { frame 0x0A 0 (leBytes 64 (desc opCopy [(24, 5 * 2 ^ 44 + 0x1000), (40, 64)]).toNat) with dst := 5, spid := 9, stream := 0x80000001 }

/-- A step whose first gather is into slot 0 of a gather window, and has not begun. -/
def windowed : State :=
  let g := { stepPlan with slots := [⟨2, 0, 0, 0, 6⟩] }
  let cp : CPlan := ⟨2, 0, true, 1, 0x400000, 4096, 0, [], [(0, 64)]⟩
  let s := stepAt run0 .clean
  { s with
    cfg := { s.cfg with live := { s.cfg.live with stepplans := [(0, g)], cplans := [(2, cp)] } }
    step := { s.step with marks := [(0, (1, 2))] } }

theorem witness_FramesAtTheirTarget_slot :
    let f := sealFrame { narrowFrame with plan := 2 }
    ((slotOf windowed f.tenant f.plan.toNat f.addr.toNat f.payload.length).any fun y => decide (y.1.slots ≤ y.2.1)) = true ∧
    fSpec f = false ∧ fInactive f = false ∧ stepOf windowed f false = .current ∧ spidOk windowed f = true ∧
    narrowRefusal windowed f.addr.toNat f = none ∧ (gatherAt windowed f.tenant f.addr.toNat f.payload.length).isSome = true := by decide +kernel

theorem witness_FramesAtTheirTarget_good :
    frameGood accFrame = true ∧ frameGood narrowFrame = true ∧ frameGood (sealFrame { narrowFrame with plan := 2 }) = true ∧
    frameGood serveFrame = true ∧
    ({ live plane with hz := { fabricReset with held := [(3, accFrame)] } } : State).hz.held[0]? = some (3, accFrame) :=
  ⟨frameGood_sealFrame _ (by decide), frameGood_sealFrame _ (by decide), frameGood_sealFrame _ (by decide), frameGood_sealFrame _ (by decide), rfl⟩

theorem witness_FramesAtTheirTarget :
    (let s := markedAt 2; let f := accFrame;
      f.dst = s.cfg.live.package ∧ s.hz.drop.dropped = false ∧ fCmd f = false ∧
      accRefusal s 0x4000000 f = some stBounds ∧ accRefusal s f.addr.toNat f = none ∧ spidOk s f = true ∧
      stepOf s f false = .current ∧ stepOf (markedAt 0) f false = .ahead ∧ stepOf (markedAt 4) f false = .stale) ∧
    (let s := markedAt 2; let f := narrowFrame;
      f.type = 0x04 ∧ f.dst = s.cfg.live.package ∧ s.hz.held.any (fun h => sameFlow f h.2) = false ∧ fCmd f = false ∧
      spidOk s f = true ∧ stepOf s f (fSpec f) = .current ∧ fSpec f = false ∧ fInactive f = false ∧
      slotOf s f.tenant f.plan.toNat f.addr.toNat f.payload.length = none ∧
      (gatherAt s f.tenant f.addr.toNat f.payload.length).isSome = true ∧ narrowRefusal s f.addr.toNat f = none ∧
      writeHeld s none 0x500000 f.payload.length = false ∧ NoFailed s ∧ s.mem.poison = [] ∧ s.units.integ.refetch = []) := by decide +kernel

theorem witness_FramesAtTheirTarget_rest :
    (treeOf treeAt (treeFrame 8) = some tree0 ∧ treePlan treeAt tree0 = some cplan0 ∧ spidOk treeAt (treeFrame 8) = true ∧
      treeAt.hz.drop.dropped = false ∧ treeAt.hz.held = [] ∧ (treeFrame 9).type = 0x09 ∧ frameGood (treeFrame 8) = true) ∧
    (let s := { live plane with mem := filled.mem }; let f := serveFrame;
      f.type = 0x0A ∧ groupBad s f = false ∧ f.dst = s.cfg.live.package ∧ spidOk s f = true ∧
      (let d := BitVec.ofNat 512 (leNat (f.payload.take 64)); let a := dSrc d % 2 ^ 44;
        a = 0x1000 ∧ serveLen d = 64 ∧ dReadable s f.tenant a (serveLen d) = true ∧ dMapped s a (serveLen d) = true ∧ PlainSrc s a (serveLen d))) ∧
    (let o := { op dPull with started := true, pull := true, stream := 3 };
      let s := withOps (live plane) [o]; let f := sealFrame { frame 0x0B 0 (leBytes 2 9) with dst := 5, stream := 3 };
      f.type = 0x0B ∧ frameGood f = true ∧ f.dst = s.cfg.live.package ∧
      s.fe.ops.find? (fun o => o.phase = .running && o.started && sendsFrames o && o.stream = f.stream.toNat) = some o ∧
      findOp s o.handle = some o) ∧
    (let f := sealFrame (frame 0x0B 0 []); f.dst ≠ (live plane).cfg.live.package ∧ frameGood f = true ∧
      canForward (arrive (live plane) 3 f) f (some 3) = true ∧ planFrame f = false ∧ planFrame accFrame = true) ∧
    (([((3 : Nat), narrowFrame), (3, narrowFrame)].take 1).any fun x => sameFlow narrowFrame x.2) = true := by decide +kernel

/-- A system of 8 in one dimension on ring pair 0, its keep output high. -/
def ringPlane : Plane := { plane with system := ⟨[(8, 0)], [some 0], 0, false⟩ }
def ringState : State :=
  let s := regSet (live ringPlane) 0x1010 1
  { s with hz := { s.hz with drop := { s.hz.drop with keepLow := false } } }

/-- A fallback case for package 6, with a recovery tree. -/
def recovering : State :=
  { ringState with
    cfg := { ringState.cfg with live := { ringPlane with fallback := [⟨6, [(2, cplan0)], some 2⟩] } }
    hz := { ringState.hz with drop := { ringState.hz.drop with pending := some 6 } }
    step := { stepReset with trees := [{ tree0 with use := .recovery }] } }

theorem witness_PortsAndDropouts :
    (let s := ringState;
      ((2 : Nat) < 4 ∧ nmGet 0 (portOf s 0).credits 2 ≤ vcCredits 2) ∧
      ((portOf s 17).replayRun + 1 < 16) ∧
      (let p := { hzDown with replayRun := 15 }; 16 ≤ (portOf { s with hz := { s.hz with ports := [(0, p)] } } 0).replayRun + 1) ∧
      (let c : StreamCount := ⟨4, 2, 6, 1, none, false, 0, none⟩;
        ({ s with hz := { s.hz with counts := [c] } } : State).hz.counts.find? (fun x => x.src = c.src && x.stream = c.stream && x.group = c.group) = some c) ∧
      (laneWidth (insertNat 7 (portOf { s with hz := { s.hz with ports := [(0, { hzDown with badLanes := [0] })] } } 0).badLanes) = 0) ∧
      (laneWidth (insertNat 7 (portOf { s with hz := { s.hz with ports := [(0, { hzDown with up := true })] } } 0).badLanes) ≠ 0) ∧
      (keepHigh s 0 = true ∧ (portOf s 0).out = false ∧ expectedPeer s 0 = some 6 ∧ expectedPeer s 0 ≠ some 4) ∧
      ((4 : BitVec 13) ≠ s.cfg.live.package ∧ 4 ∉ s.hz.drop.learned) ∧
      (WriteOk s .i3c 0x1010 ∧ (0x1FF#32).getLsbD 16 = false ∧ (0x10000#32).getLsbD 16 = true) ∧ s.units.power.state ≠ 2 ∧
      (frameGood (frame 0x0F 0 []) = false ∧ frameGood (sealFrame (frame 0x0F 0 [])) = true ∧ frameGood (sealFrame (frame 0x10 0 [])) = true ∧
        frameGood (sealFrame (frame 0x40 0 [])) = true ∧ frameGood (sealFrame (frame 0x0C 0 [])) = true ∧ frameGood (sealFrame (frame 0x0D 0 [])) = true) ∧
      (let u := { s with hz := { s.hz with ports := [(0, { hzDown with los := true })] } };
        partnerPorts u 0 true = [0] ∧ partnerOf u 0 true = 6 ∧ ((partnerPorts u 0 true).all fun p => (portOf u p).los || (portOf u p).out) = true) ∧
      ((partnerPorts s 0 true).all fun p => (portOf s p).los || (portOf s p).out) = false) ∧
    (treeBy recovering .recovery = some { tree0 with use := .recovery } ∧ treePlan recovering { tree0 with use := .recovery } = some cplan0 ∧
      recovering.hz.drop.pending = some 6 ∧ 0 ∈ portsFacing recovering.cfg.live 6 ∧ linkSettled recovering 0 = false ∧
      17 ∉ portsFacing recovering.cfg.live 6) ∧
    ({ ringState with hz := { ringState.hz with drop := { ringState.hz.drop with dropped := true } } } : State).hz.drop.dropped = true := by decide +kernel

/-! ### Acorns, the Cupule and failures -/

/-- The live image with the Cupule in a state. -/
def cupuleAt (c : Cupule) : State := { live plane with units := { (live plane).units with acorns := { (live plane).units.acorns with cupule := c } } }

theorem witness_CupuleRules :
    ((acornOf (cupuleAt ⟨0xFFFFFFFF, 0, 0, false, false, false, 0⟩) false).up = true ∧
      (let c := (cupuleAt ⟨0xFFFFFFFF, 0, 0, false, false, false, 0⟩).units.acorns.cupule;
        c.deferent = false ∧ 0xFFFFFFFF = c.epoch ∧ c.holder = 0 ∧ (5 : Word) ≠ c.epoch) ∧
      (let c := (live plane).units.acorns.cupule; 2 = c.epoch ∧ c.holder = holderNo false ∧ c.lease = true ∧ c.deferent = false) ∧
      (acornOf (live plane) false).up = true) ∧
    (let s := live plane;
      s.units.acorns.cupule.holder = holderNo (!true) ∧ (acornOf s true).up = false ∧
      (let t := { s with units := { s.units with acorns := { s.units.acorns with b := { acornDown with up := true, epoch := 2 } } } };
        (acornOf t true).up = true ∧ (acornOf t true).epoch = t.units.acorns.cupule.epoch)) ∧
    ((cupuleAt ⟨2, 1, 1, false, true, true, 1⟩).units.acorns.cupule.deferent = true ∧ (live plane).units.acorns.running = false) ∧
    ((0x5A01#32).toNat / 256 % 256 = 0x5A) := by decide +kernel

/-- The epoch advances past 0 (R617). -/
theorem test_claim :
    answers (.claim false 0xFFFFFFFF true) (cupuleAt ⟨0xFFFFFFFF, 0, 0, false, false, false, 0⟩) (fun t =>
      t.units.acorns.cupule.epoch == 1 && t.units.acorns.cupule.holder == 1 && t.units.acorns.cupule.lease) = true := by decide +kernel

theorem witness_UnitFailures :
    (let x := (cupuleAt ⟨2, 1, 1, false, false, false, 1⟩).units.acorns; x.bothDown = false ∧ x.cupule.lease = false) ∧
    (let s := { State.reset with units := { unitsReset with boot := { bootReset with phase := 2 } } }; let x := s.units.acorns;
      x.bothDown = true ∧ x.cupule.deferent = false ∧ x.cupule.lease = false ∧ x.fatal = false ∧ 2 ≤ s.units.boot.phase ∧ s.units.power.state < 2) ∧
    (recoverAllowed (live plane) = true ∧ (live plane).units.power.state = 0 ∧ recoverAllowed State.reset = false ∧
      hasLeader (restartAcorns ⟨true, false, true, true, true⟩ (updAcorns (live plane) fun x => { x with
        a := { x.a with up := false }, b := { x.b with up := false }, running := true
        cupule := { x.cupule with holder := 0, lease := false, epoch := nextEpoch x.cupule.epoch } })) = true ∧
      hasLeader (restartAcorns ⟨false, false, true, true, true⟩ (updAcorns (live plane) fun x => { x with
        a := { x.a with up := false }, b := { x.b with up := false }, running := true
        cupule := { x.cupule with holder := 0, lease := false, epoch := nextEpoch x.cupule.epoch } })) = false) ∧
    (hasLeader (live plane) = true ∧ hasLeader State.reset = false ∧ (11 : Nat) ∈ [0, 10, 11] ∧ (2 : Nat) ≤ 7 ∧ (live plane).units.power.state ≠ 1) ∧
    (0 < spineMods (live plane) (spineNo (.bridgeHub 1)) ∧
      (let s := { live plane with units := { (live plane).units with boot := { (live plane).units.boot with spine := [(0, 1)] } } };
        spineMods s (spineNo (.hubBase 0)) = 1 ∧ spineNo (.hubBase 0) < 4) ∧
      1 < spineMods (live plane) (spineNo (.bridgeBase 1 3)) ∧ (4 ≤ spineNo (.bridgeBase 1 3) ∧ spineNo (.bridgeBase 1 3) < 12)) := by decide +kernel

/-! ### Host modules, channels and integrity -/

/-- The live image with module 63 in a state. -/
def moduleAt (m : HostModule) : State := { live plane with fe := { feReset with modules := [(63, m)] } }

theorem witness_HostModules :
    moduleUp (moduleAt ⟨true, 15, false⟩) (63 : Fin 64).val = true ∧ (moduleOf (moduleAt ⟨true, 14, false⟩) 63).fails + 1 < 16 ∧
    16 ≤ (moduleOf (moduleAt ⟨true, 15, false⟩) 63).fails + 1 ∧ moduleUp (live plane) 63 = false ∧ (moduleOf (live plane) 63).out = false ∧
    (live plane).units.power.noUcie = false := by decide +kernel

/-- The sixteenth failed replay in a row takes the module out (R110). -/
theorem test_replay :
    answers (.hostTransportReplay 63 true) (moduleAt ⟨true, 15, false⟩) (fun t => !moduleUp t 63 && (moduleOf t 63).out) = true ∧
    answers (.hostTransportReplay 63 true) (moduleAt ⟨true, 14, false⟩) (fun t => moduleUp t 63) = true := by decide +kernel

/-- The live image with package channel 255 in a state. -/
def chanAt (c : Chan) : State := { live plane with units := { (live plane).units with chans := [(255, c)] } }

theorem witness_ChannelUpkeep :
    (lanesBusy (chanAt { chanReset with attempts := 3 }) 255 = true ∧ (chanOf (chanAt { chanReset with attempts := 3 }) 255).retrain = false ∧
      (chanOf (chanAt { chanReset with attempts := 3 }) 255).attempts < 4 ∧ 4 ≤ (chanOf (chanAt { chanReset with attempts := 4 }) 255).attempts) ∧
    (let s := chanAt { chanReset with retrain := true, spares := 6 };
      lanesBusy s 255 = true ∧ (chanOf s 255).retrain = true ∧ (chanOf s 255).spares ≤ 8 ∧ (chanOf s 255).spares + [3, 4, 3].eraseDups.length ≤ 8 ∧
      8 < (chanOf s 255).spares + [3, 4, 5].eraseDups.length) ∧
    (memAsleep (live plane) = false ∧ 255 ∉ (live plane).units.proc ∧
      255 ∈ ({ live plane with units := { (live plane).units with proc := [255] } } : State).units.proc) ∧
    (255 ∈ dieChannels 3 7 ∧ 85 < (86#8).toNat ∧ (82#8).toNat ≤ 82) ∧
    ((chanOf (live plane) 255).failed = false ∧ (regGet (live plane) (dieBase (255 / 64) + 0x210) 0x10018).getLsbD 16 = true) ∧
    (let id := sectorId 255 0 0 1; let e := [0, 0, 0x80]; let a := wideAddr 255 32;
      let s := { live plane with mem := { memReset with flips := [(id, e)] } };
      (1 : Nat) < 32 ∧ (0 : Nat) < 32768 - s.cfg.live.dmap.pRows ∧ (sectorAddr s.cfg.live 255 0 0 1).bind (residentAt s) = some a ∧
      sectorAt s a = some id ∧ channelOf s a = some 255 ∧ a / 64 ∉ s.mem.poison ∧ cachedAt s a = false ∧
      rsDecode (flipBytes (rsWord (dRead s a 32)) e) = .corrected (rsWord (List.replicate 32 0)) ∧
      ((rsWord (List.replicate 32 0)).take 32).length = 32) ∧
    (let r : Refetch := ⟨5, false, false⟩;
      r ∈ ({ live plane with units := { (live plane).units with integ := { integrityReset with refetch := [r] } } } : State).units.integ.refetch ∧
      r.granule = (5#38).toNat ∧ r.late = false) := by decide +kernel

/-- A symbol in error is put right, two are not, and the mark of poison is no code word (R426, R550). -/
theorem test_sector :
    (let w := rsWord (leBytes 32 0x0102030405060708090A0B0C0D0E0F101112131415161718191A1B1C1D1E1F20);
      rsDecode w = .clean ∧ rsDecode (flipBytes w [0, 7]) = .corrected w ∧ rsDecode (flipBytes w (List.replicate 35 0 ++ [1])) = .corrected w ∧
      rsDecode (flipBytes w [0, 7, 0, 9]) = .uncorrectable) ∧ rsDecode poisonWord = .poisoned := by decide +kernel

/-- The checks of a sector by hand: data that is 1 in its last byte leaves the generator's coefficients 15, 54, 120 and 64 (R425). -/
theorem test_sector_check : rsCheck (List.replicate 31 0 ++ [1]) = [15, 54, 120, 64] := by decide +kernel

/-! ### Resets, start-up and power -/

/-- The reset state at a phase of start-up, with fuses of no key and lowest SVN 1. -/
def bootAt (p : Nat) (b : BootUnits) : State :=
  { State.reset with units := { unitsReset with boot := { b with phase := p }, fuses := ⟨rootHash, 1, [(3, [0x4B2])], false⟩ } }

/-- A firmware slot of SVN 4 and interface version 2, signed with the root key: its Acorn section is 1, 2, 3, 4. -/
def firmware : List Byte :=
  padTo 256 0 (leBytes 4 0x4B505746 ++ leBytes 2 4 ++ leBytes 2 2 ++ leBytes 8 0 ++ leBytes 4 353 ++ leBytes 4 4) ++ rootKey ++ [1, 2, 3, 4] ++
  beBytes 96 0x67d7ee62548f8c52c2307460f13d45c403e5908a9bae031d552ab0cb2117c503d9ff3aabe1cf89e69de22a7c99213ff4269592b461854dc1a28da1166fd1393c4228205dce1699410e2a94c11658cf7abdd3200f7b7b84c42c533b95a631b82a

/-- A flash whose directory places slot 0 nowhere and slot 1 at 24. -/
def flash : FlashView :=
  ⟨true, true, leBytes 4 0x57524D46 ++ leBytes 4 0 ++ leBytes 8 0 ++ leBytes 4 24 ++ leBytes 4 firmware.length ++ firmware, true, true, true⟩
def restart : RestartView := ⟨true, false, true, true, true⟩

/-- The live image with its Acorn A in service, in training. -/
def training : State := { live plane with units := { (live plane).units with boot := { (live plane).units.boot with phase := 3 }, fuses := ⟨[], 1, [], false⟩ } }

theorem witness_Resets :
    startedUp (live plane) = true ∧ (live plane).units.power.noUcie = false ∧ (live plane).units.power.noHz = false ∧
    hasLeader (restartAcorns restart (warmClear (warmEnd (live plane)))) = true ∧ startedUp State.reset = false ∧
    (writeDenied (live plane) .i3c 0x8C = none ∧ (live plane).units.boot.warm = false ∧ 4 ≤ (live plane).units.boot.phase ∧
      (live plane).units.boot.resets.contains 33 = false ∧ keepHigh ringState 0 = true ∧ ringState.units.boot.resets = []) := by decide +kernel

theorem witness_StartUp :
    (State.reset.units.boot.phase = 1 ∧ State.reset.units.boot.spine = []) ∧
    (let s := bootAt 1 { bootReset with spine := [(0, 8)] };
      s.units.boot.phase = 1 ∧ s.units.boot.spine ≠ [] ∧ bootSlot s { flash with flash := flash.flash.dropLast ++ [0] } = none) ∧
    (trainingOn training = true ∧ hasLeader training = true ∧ training.units.boot.trained.contains 255 = false ∧
      (([1, 2, 1] ++ retiredLanes training 255).eraseDups.length ≤ 8) ∧ 8 < (List.range 9 ++ retiredLanes training 255).eraseDups.length) ∧
    (training.units.boot.lpDone = false ∧ fittingGood [] = true ∧ fittingGood (List.range 8) = true ∧ fittingGood [1] = false) ∧
    (let s := { training with units := { training.units with
        boot := { training.units.boot with lpDone := true, trained := List.range 256 }, ues := ⟨BitVec.allOnes 320, []⟩ } };
      trainingOn s = true ∧ s.units.boot.trained.length = 256 ∧ s.units.boot.lpDone = true ∧ hasLeader s = true ∧ everyDieHasUe s = true ∧
      everyDieHasUe { s with units := { s.units with ues := ⟨0, []⟩ } } = false ∧ s.units.boot.warm = false ∧ spineShort s = false ∧
      spineShort { s with units := { s.units with boot := { s.units.boot with spine := [(13, 0)] } } } = true) := by decide +kernel

/-- The signed slot boots, and its Acorn section is the copy that is kept (R709, R710). -/
theorem witness_firmware : bootSlot (bootAt 1 { bootReset with spine := [(0, 8)] }) flash = some true := by decide +kernel

theorem test_acorn_section : acornSection (flashSlot flash.flash true) = [1, 2, 3, 4] ∧ slotSvn (flashSlot flash.flash true) = 4 := by decide +kernel

/-- A lane retired for a channel takes one of its spares at training (R713, R767). -/
theorem test_training : retiredLanes (bootAt 3 bootReset) (64 * 3 + 0x4B2 / 2 % 64) = [0x4B2 / 128] := by decide +kernel

/-- The live image in a power state. -/
def powerAt (n : Nat) : State :=
  { live plane with
    units := { (live plane).units with power := { powerReset with state := n } }
    regs := [(0x1010, 0)]
    cfg := { (live plane).cfg with live := { plane with shards := [] } } }

theorem witness_PowerStates :
    (let s := live bootPlane; WriteOk s .i3c 0x301C ∧ s.units.power.state = 0 ∧ startedUp s = true ∧ 9 ∉ s.units.acorns.failed ∧
      (1#32).getLsbD 1 = false ∧ (1#32).getLsbD 0 = true ∧ (2#32).getLsbD 1 = true) ∧
    ((powerAt 1).units.power.state = 1 ∧ retainWhy (powerAt 1) = 0 ∧ retainWhy { powerAt 1 with regs := [(0x1010, 1)] } = 3) ∧
    (WriteOk (powerAt 2) .i3c 0x301C ∧ (powerAt 2).units.power.state = 2 ∧ (powerAt 2).units.power.noUcie = false ∧
      (powerAt 2).units.power.noHz = false) ∧
    WriteOk (live bootPlane) (.host 0 0 1) 0x301C ∧ (live plane).units.power.state ≠ 2 ∧
    (groupUp (moduleAt ⟨true, 0, false⟩) 15 = true ∧ fld (regGet (moduleAt ⟨true, 0, false⟩) 0x301C 0x6400) 8 16 ≠ 0) ∧
    (110 ≤ (110#8).toNat ∧ (100#8).toNat ≤ 100 ∧ (95#8).toNat ≤ 95) ∧
    (6400 < (6401#16).toNat ∧ (6400#16).toNat ≤ 6400 ∧ paceCap (live plane) = 5600 ∧ (5600#16).toNat ≤ paceCap (live plane)) ∧
    (let s := { live { plane with policy := { plane.policy with throttleFloor := 200 } } with units := { (live plane).units with
        power := { powerReset with thermal := [(6, 199)] } } };
      domainRate s 6 < s.cfg.live.policy.throttleFloor ∧ 6 ∉ s.units.power.episode) ∧
    (6 ∈ ({ live plane with units := { (live plane).units with power := { powerReset with episode := [6] } } } : State).units.power.episode) ∧
    ((live plane).units.boot.warm = false ∧ occupyMask (live plane) = (live plane).units.occ.mask ∧
      (let s := withOps (live plane) [op (desc opNop [])]; occupyMask s ≠ s.units.occ.mask)) := by decide +kernel

/-! ### The Husk -/

/-- The reset state with another Husk, of a known public key and serial number. -/
def huskAt (h : Husk) : State := { State.reset with units := { unitsReset with husk := h } }

/-- An occupancy record of tenants 0 and 2, with its CRC. -/
def occupied : List Byte := occupancyBytes 1 0 5
def block60 : List Byte :=
  let b := leBytes 2 60 ++ (factoryBlock.drop 2).take 154
  b ++ leBytes 4 (crc32 b).toNat

set_option maxRecDepth 100000 in
theorem witness_HuskMeters :
    metering State.reset = true ∧ occupancyGood occupied = true ∧ occupancyGood (List.replicate 16 1) = false ∧
    (let s := huskAt { huskNew with lastSeq := some 0 }; s.units.husk.lastSeq.map (· + 1) = some (BitVec.ofNat 32 (leNat (occupied.take 4)))) ∧
    (let h := { huskNew with mask := some 5, maskAt := 16, time := 3000 };
      h.stopped = false ∧ h.mask = some 5 ∧ h.time + 16 ≤ h.maskAt + 3000 ∧ h.time < h.maskAt + 3000 ∧ maskStands { h with maskAt := 8 } 16 = 8 ∧
      (8 : Nat) + 3000 ≤ ({ h with time := 3008 } : Husk).time) ∧
    State.reset.units.husk.up = true ∧ State.reset.units.husk.stopped = false ∧ chanEnabled State.reset.units.husk 0 = false ∧
    (let s := huskAt { huskNew with time := 900000000 };
      metering s = true ∧ intervalUs s.units.husk ≤ s.units.husk.time - s.units.husk.cur.start ∧ unacked s.units.husk < 4096) ∧
    State.reset.units.husk.time - State.reset.units.husk.cur.start < intervalUs State.reset.units.husk ∧
    (huskAt { huskNew with up := false }).units.husk.up = false ∧ (huskAt { huskNew with stopped := true }).units.husk.stopped = true ∧
    (let h := { huskNew with number := 3, acked := 1 }; unacked h ≠ 0 ∧ h.number ≤ (3#32).toNat ∧ (2#32).toNat < h.number ∧
      h.cur.flags.getLsbD 2 = false) ∧
    (block60.length = 160 ∧ huskNew.cfgEn = false ∧ configGood { huskNew with cfgEn := true } block60 = true ∧ unacked huskNew < 4096) ∧
    huskKnown [0xC9] = false ∧ huskKnown [] = false := by decide +kernel

/-- A record with a wrong CRC is counted and sets no mask; a good one of SEQ 1 sets it with no gap (R648). -/
theorem test_occupancy :
    answers (.occupancyRecord occupied) State.reset (fun t => t.units.husk.mask == some 5 && t.units.husk.cur.bad == 0 && t.units.husk.cur.gap == 0) = true ∧
    answers (.occupancyRecord (List.replicate 16 1)) State.reset (fun t => t.units.husk.mask == none && t.units.husk.cur.bad == 1) = true := by
  decide +kernel

/-- A mask that arrived at 8 µs stands for 8 µs of the sample that begins at 3,000 µs; with channel 0 off the rest counts to none (R649). -/
theorem test_mask_stands :
    answers (.huskSample []) (huskAt { huskNew with mask := some 5, maskAt := 8, time := 3000 }) (fun t =>
      t.units.husk.cur.occupy == [(0, 8), (2, 8)] && t.units.husk.cur.unknown == 0) = true := by decide +kernel

/-- A write for a group in L1 waits for its exit, and goes out with it (R686). -/
theorem test_doze_write :
    (let s := { moduleAt ⟨true, 0, false⟩ with units := { (moduleAt ⟨true, 0, false⟩).units with power := { powerReset with doze := [15] } } };
      let t := cplWrite s 15 0x9000 [1]
      groupUp s 15 && t.fe.hostOut == s.fe.hostOut && t.fe.heldCpl == [(15, 0x9000, [1])] &&
      answers (.l1Exit 15) t (fun u => u.fe.hostOut.getLast? == some (.cplWr 15 0x9000 [1]) && u.fe.heldCpl.isEmpty)) = true := by decide +kernel

/-! ### Test access -/

/-- The live image with an instruction in the test access port. -/
def tapAt (ir : BitVec 8) : State := { live plane with units := { (live plane).units with tap := { tapReset with ir := ir } } }

theorem witness_TestPort :
    (drivesPins (activeIr State.reset) = false ∧ activeIr State.reset ≠ 0x10 ∧ testerDown State.reset = false ∧
      State.reset.cfg.live.isImage = false ∧ ReadOk State.reset .tap 0x3000 ∧ coreOnDie State.reset.units.tap.core.toNat (.ue 0) = false ∧
      coreOnDie 5 (.ue 0) = coreOnDie 5 (.ue 0)) ∧
    (∃ d < 6, coreOnDie d (.ue 0) = true) ∧
    (drivesPins (activeIr (tapAt 0x20)) = false ∧ (tapAt 0x20).cfg.live.isImage = true) ∧
    drivesPins (activeIr (tapAt 0x03)) = true := by decide +kernel

/-- The state of a margin run, and one of its fuses. -/
def runAt (r : MarginRun) : State := { State.reset with units := { unitsReset with runs := [r] } }

theorem witness_TestRegisters :
    (WriteOk (live plane) .i3c (dieBase 3 + 0x300) ∧ runRefused (live plane) 3 = true ∧ (0x1000000#32).getLsbD 24 = true) ∧
    (let s := live bootPlane; WriteOk s .i3c (dieBase 3 + 0x300) ∧ runRefused s 3 = false ∧ WriteOk s .i3c (dieBase 3 + 0x310) ∧
      runRefused s 7 = false ∧ moduleUp s (16 * 3 + (0x100000F#32).toNat % 32) = false ∧ (0x100000F#32).toNat % 32 < 16 ∧
      moduleUp { s with fe := { s.fe with modules := [(63, ⟨true, 0, false⟩)] } } (16 * 3 + (0x100000F#32).toNat % 32) = true) ∧
    umarginServes (live bootPlane) 3 ((0x101001F#32).toNat % 32) = true ∧ umarginLink 3 31 = some 11 ∧ umarginServes (live bootPlane) 3 23 = true ∧
      16 ≤ (0x101001F#32).toNat % 32 ∧ (0x101001F#32).getLsbD 24 = true ∧
    waitingRun (runAt ⟨7, [], none, some 63, false, none⟩) 3 = some ⟨7, [], none, some 63, false, none⟩ ∧
    (let s := { live bootPlane with units := { (live bootPlane).units with tier := { (live bootPlane).units.tier with lpChannels := 32 } } };
      WriteOk s .i3c (dieBase (4 + 1) + 0x300) ∧ runRefused s 9 = false ∧ (0x100001F#32).getLsbD 12 = false ∧
      (0x100001F#32).toNat % 32 < s.units.tier.lpChannels) ∧
    (let r : MarginRun := ⟨3, [255], none, none, true, none⟩;
      (runAt r).units.runs.find? (fun r => r.run = 3 && r.started) = some r ∧ r.module = none) ∧
    (let s := { live bootPlane with units := { (live bootPlane).units with fuses := ⟨[], 1, [(3, [0x4B2])], false⟩ } };
      WriteOk s .i3c (dieBase 3 + 0x320) ∧ testerDown s = false ∧ retireRange 3 0x10004B4 = true ∧
      retireEntry 3 0x10004B4 ∉ nmGet [] s.units.fuses.retired 3 ∧ (nmGet [] s.units.fuses.retired 3).length < retireRoom 3 ∧
      retireEntry 3 0x10004B2 ∈ nmGet [] s.units.fuses.retired 3 ∧ retireRange 3 0x10004B2 = true) ∧
    (let s := { live bootPlane with units := { (live bootPlane).units with rngTest := [(1024 * 5 + 511, 0)] } };
      WriteOk s .i3c (dieBase 5 + 0x600) ∧ s.cfg.live.isImage = false ∧ testerDown s = false ∧ (0x101FF#32).toNat % 1024 < laneCount 5 ∧
      (0x101FF#32).getLsbD 16 = true ∧ (0x101FF#32).getLsbD 17 = false ∧ (0x201FF#32).getLsbD 16 = false ∧ (0x201FF#32).getLsbD 17 = true ∧
      nmGet? s.units.rngTest (1024 * 5 + (0x201FF#32).toNat % 1024) = some 0) := by decide +kernel

/-! ### Memory and the invariant -/

theorem witness_MemoryLaws :
    cellsWf [(1, 5), (4, 7)] = true ∧ cellsWf [(4, 7), (1, 5)] = false ∧ cellsWf [(1, 0)] = false ∧ Memory.wf State.reset.mem = true ∧
    meets 4 2 6 8 = false ∧ NoFailed filled ∧ poisonCut filled 0x1004 8 = false ∧ memWrite [(1, 5), (4, 7)] 1 [0, 6] = [(2, 6), (4, 7)] := by decide +kernel

theorem witness_StepKeepsMemoryForm :
    Memory.wf { live plane with pending := [.heartbeat] }.mem = true ∧
    (match step { live plane with pending := [.heartbeat] } with | .next t => decide (t.units.occ.sent ≠ []) | _ => false) = true := by decide +kernel



/-! ### Ill-formed terms -/

/-- What `Instr.wf` refuses: payloads, types, offsets and lists outside what the manual's tables give. -/
theorem test_illFormed :
    ([ .mrd64 (req 0 0 0 0 [1]), .mwr64 (req 0 0 0 0 [1]), .mwr64 (req 0 0 1 0 (List.replicate 64 0)), .pushWrite (req 0 0 0 0 (List.replicate 64 0)),
       .srd32 (req 0 0 0 0 [1]), .swr32 (req 0 0 0 0 []), .db (req 0 0 0 0 []), .regRd (req 0 0 0 0 [1]), .regWr (req 0 0 0 0 [1]),
       .badTypeRequest 0x04 (req 0 0 0 0 []), .shWrite .i3c 0x04000000 0, .i3cBadCommand [1, 0, 0, 0, 0],
       .write 0 (frame 0x02 0 []), .acc 0 (frame 0x01 0 []), .set 0 (frame 0x04 0 []), .narrow 0 (frame 0x03 0 []), .triple 0 (frame 0x09 0 []),
       .verdict 0 (frame 0x08 0 []), .serve 0 (frame 0x0B 0 []), .status 0 (frame 0x0A 0 []), .drop 0 (frame 0x0D 0 []), .recover 0 (frame 0x0C 0 []),
       .credit 0 (frame 0x10 0 []), .link 0 (frame 0x0F 0 []), .badFrameType 0 (frame 0x10 0 []), .parityRetry 0 .packet (.retrained [290]),
       .channelTraining 0 [290], .patrolRead 0 32776 0 [], .patrolRead 0 0 0 [.sector 0 0 0 32 [(0, 1)]], .patrolRead 0 0 0 [.sector 0 0 0 0 [(36, 1)]],
       .patrolRead 0 0 0 [.sector 0 0 32776 0 [(0, 1)]], .occupancyRecord [], .huskSample [], .config (List.replicate 4097 0),
       .resetRelease [(.hubBase 0, 17)], .lpddr5xTraining [32] [] true 0, .lpddr5xTraining [] [32] true 0,
       .powerEstimate 0 0 (List.replicate 17 0) 0 ] : List Instr).all (fun i => !i.wf) = true := by decide +kernel

/-- No row of the table gives bits, so no word spells a command. -/
theorem test_noWord : decodeTableWord 32 0x1234 = none ∧ State.withFetchWord State.reset 32 0x1234 = State.reset := ⟨rfl, rfl⟩

/-- The staged test image passes every check (R203 to R216). -/
theorem witness_image_good : imageGood (staging []) image = true := by decide +kernel


/-- Two members reduce a tile and share it again: its owner has applied one plan ticket, the other member none, so the SET frame is the
first plan ticket there (R362, R363, R365). -/
theorem test_set_ticket :
    let rs : CPhase := ⟨1, 0, 1, 2, 0, 0, 2, 6, false, 6, false, 0, none⟩
    let cp : CPlan := ⟨1, 1, true, 2, 0x200000, 256, 0, [rs, { rs with op := 2 }], []⟩
    (tilePhases (live plane) cp 0).map (fun x => (x.2.k, peerTicket (live plane) cp 0 x)) = [(0, 1), (0, 1)] := by decide +kernel

/-- A COPY to package 3 that has failed a check, with SIG and SIG_ANY: it is Running until its zero-length FINAL frame has landed there,
and signals nothing here (R142, R776). -/
theorem test_failed_far :
    let d := desc opCopy [(1, 0x18), (32, 3 * 2 ^ 44 + 0x1000), (40, 64)]
    let s := settle (withOps (live plane) [{ op d with phase := .waiting, failed := some stScope }])
    let t := runCommand opCopy tryCopy 7 s
    ((findOp s 7).map fun o => (o.phase, o.remote, o.status)) = some (.running, 1, stScope) ∧
    ((findOp t 7).map fun o => (o.phase, o.last, o.signalled)) = some (.running, true, true) ∧
    ((findOp (runCommand opCopy tryCopy 7 t) 7).map fun o => (o.phase, o.status, o.signalled)) = some (.done, stScope, true) ∧
    s.syncs = [] := by decide +kernel

end Sys2Proof.Tests
end

section
/-! PROOFS. Host writes that R52 discards. -/

namespace Sys2Proof.Machine

/-! ### Registers and outputs under events -/

@[simp] theorem cplWrite_regs (s : State) (g a : Nat) (d : List Byte) : (cplWrite s g a d).regs = s.regs := by
  unfold cplWrite; split
  · split <;> rfl
  · rfl

/-- An event that sets no alert bit leaves the registers. -/
theorem raiseEvent_regs (s : State) (t : Nat) (code : BitVec 16) (w d : DWord) (h : Word) (ha : alertBit code = none) :
    (raiseEvent s t code w d h).regs = s.regs := by
  have hs : setAlert s code = s := by simp [setAlert, ha]
  simp only [raiseEvent, hs]
  split
  · simp [writeEvent]
  · rfl

theorem raiseEventFree_regs (s : State) (t : Nat) (code : BitVec 16) (w : DWord) (h : Word) (ha : alertBit code = none) :
    (raiseEventFree s t code w h).regs = s.regs := raiseEvent_regs (takeNat s).1 t code w _ h ha

/-- A saturating counter after an addition. -/
theorem regGet_regCount (s : State) (off n : Nat) :
    (regGet (regCount s off n) off 0).toNat = min 0xFFFFFFFF ((regGet s off 0).toNat + n) := by
  simp only [regCount, regGet, regSet_regs, nmGet_nmSet_self, satTo, BitVec.toNat_ofNat]
  omega

theorem respond_getLast? (s : State) (r : HostReq) (st : Status) (d : List Byte) :
    (respond s r st d).fe.hostOut.getLast? = some (.rsp r.module.val r.tenant r.tag (st.setWidth 8) d) := by simp

/-! ### Host writes that R52 discards -/

/-- A host write that meets a protected range goes no further than its refusal. -/
theorem hostWrite_protected (s : State) (type n : Nat) (r : HostReq) (t : BitVec 4) (hr : reqAllowed s r = true)
    (ha : r.addr.toNat % n = 0) (hp : protectedOwner s r.addr.toNat n = some t) : hostWrite s type r n = ownedWrite s r t := by
  simp [hostWrite, hr, ha, hp]

theorem ownedWrite_mem (s : State) (r : HostReq) (t : BitVec 4) : (ownedWrite s r t).mem = s.mem := by
  simp [ownedWrite, (onlyEvents_raiseEventFree _ _ _ _ _).mem]

theorem ownedWrite_count (s : State) (r : HostReq) (t : BitVec 4) :
    (regGet (ownedWrite s r t) 0xA4 0).toNat = min 0xFFFFFFFF ((regGet s 0xA4 0).toNat + 1) := by
  have hregs : (ownedWrite s r t).regs = (regCount s 0xA4 1).regs := by
    rw [ownedWrite, respond_regs, raiseEventFree_regs _ _ _ _ _ (by decide)]
  rw [← regGet_regCount]
  simp only [regGet, hregs]

theorem engineOwner_isSome (s : State) (a n : Nat) (h : ∃ x ∈ s.cfg.live.dmap.owned, meets a n x.base x.bytes = true) :
    (engineOwner s a n).isSome = true := by
  unfold engineOwner
  split
  · rfl
  · next hf => obtain ⟨x, hx, hm⟩ := h; exact absurd hm (List.find?_eq_none.1 hf x hx)

/-- Outside the engine-owned regions only the image store has an owner, the control tenant. -/
theorem engineOwner_unowned (s : State) (a n : Nat) (h : ∀ x ∈ s.cfg.live.dmap.owned, meets a n x.base x.bytes = false) :
    engineOwner s a n = if meetsStore s a n then some s.cfg.live.control else none := by
  have hf : (s.cfg.live.dmap.owned.find? fun x => meets a n x.base x.bytes) = none := by
    rw [List.find?_eq_none]; intro x hx; simp [h x hx]
  simp [engineOwner, hf]

theorem protectedOwner_owned (s : State) (a n : Nat) (h : ∃ x ∈ s.cfg.live.dmap.owned, meets a n x.base x.bytes = true) :
    (protectedOwner s a n).isSome = true := by
  obtain ⟨t, ht⟩ := Option.isSome_iff_exists.1 (engineOwner_isSome s a n h)
  simp [protectedOwner, ht]

theorem protectedOwner_control (s : State) (a n : Nat) (h : ∀ x ∈ s.cfg.live.dmap.owned, meets a n x.base x.bytes = false)
    (hm : meetsStore s a n = true ∨ meetsShared s a n = true) : protectedOwner s a n = some s.cfg.live.control := by
  unfold protectedOwner
  rw [engineOwner_unowned s a n h]
  by_cases hs : meetsStore s a n = true
  · simp [hs]
  · simp [hs, hm.resolve_left hs]

/-- Settles O6: the checks of a host write come to the protected ranges before anything reaches memory. -/
theorem ownedWriteDiscarded : Obligations.OwnedWriteDiscarded := by
  unfold Obligations.OwnedWriteDiscarded
  refine ⟨fun s r n c owner hc hr ha hp => ?_, fun s a n => ⟨protectedOwner_owned s a n, protectedOwner_control s a n⟩⟩
  have hg : Goes c s (ownedWrite s r owner) := by
    rcases hc with ⟨rfl, hattr, rfl⟩ | ⟨rfl, rfl⟩
    · show Host.Outcome.next _ = _
      rw [if_pos hattr, hostWrite_protected s _ 64 r owner hr ha hp]
    · show Host.Outcome.next _ = _
      rw [hostWrite_protected s _ 32 r owner hr ha hp]
  exact ⟨_, hg, ownedWrite_mem s r owner, respond_getLast? _ r stBounds [], ownedWrite_count s r owner, rfl⟩

end Sys2Proof.Machine
end

section
/-! PROOFS. The run, the end and the stop of sweeps. -/

namespace Sys2Proof.Machine

/-! ### The start of a run's sweep -/

/-- The sweep that SPECULATIVE_SWEEP starts for a run (R254). -/
def speculativeRec (n : Nat) (r : StepRun) (c : ShardCfg) : SweepRec :=
  ⟨n, false, fpOne, some (r.arg0.setWidth 32), r.stepNo, .run r.handle, false, capMode c && r.verdict.isNone, false, [], none, false, false⟩

theorem sweepReady_of (s : State) (r : StepRun) (n : Nat) (c : ShardCfg) (hc : nmGet? s.cfg.live.shards n = some c)
    (hst : (shardDyn s n).st = .clean) (hsw : sweepOf s n = none) (hheld : n ∉ r.held) (hfl : r.flipped = false)
    (hal : sweepAllowed r c = true) (hred : ∀ t < tileCount c, tileReduced s (accAddr c t) = true) : sweepReady s r n = true := by
  have hs : shardReduced s n = true := by simpa [shardReduced, hc] using hred
  simp [sweepReady, hc, hst, hsw, hheld, hfl, hal, hs]

/-- A sweep that is ready, with a written master, starts. -/
theorem speculate_ready (s : State) (n : Nat) (r : StepRun) (c : ShardCfg) (hr : runOf s n = some r)
    (hc : nmGet? s.cfg.live.shards n = some c) (hfatal : s.units.acorns.fatal = false) (hhalt : haltedPackage s = false)
    (hready : sweepReady s r n = true) (hguest : guestHeld s n = false) (hfresh : masterFresh s n c = false) :
    speculate n s = runSweep s r.handle (speculativeRec n r c) .sweeping := by
  simp [speculate, hr, hc, hfatal, hhalt, hready, hguest, hfresh, speculativeRec]

theorem shardDyn_closeWindows (s : State) (h : Word) (n : Nat) : shardDyn (closeWindows s h) n = shardDyn s n := by
  unfold closeWindows
  split
  · rfl
  · split <;> rfl

/-- A shard whose sweep starts takes its state from the start and keeps all but that and its between-pass values. -/
theorem shardDyn_startSweep (s : State) (w : SweepRec) (st : ShardState) :
    shardDyn (startSweep s w st) w.shard = { shardDyn s w.shard with st := st, between := w.between } := by
  have hs : (startSweep s w st).step.shards =
      (updShard s w.shard fun d => { d with st := st, between := w.between }).step.shards := by
    unfold startSweep; simp only; split <;> rfl
  simp only [shardDyn, hs]
  exact nmGet_nmSet_self _ _ _ _

theorem shardDyn_runSweep (s : State) (h : Word) (w : SweepRec) (st : ShardState) :
    shardDyn (runSweep s h w st) w.shard = { shardDyn s w.shard with st := st, between := w.between } := by
  rw [runSweep, shardDyn_startSweep, shardDyn_closeWindows]

/-! ### The end of a sweep -/

section
variable {s : State} {n : Nat} {w : SweepRec} {c : ShardCfg} (hw : sweepOf s n = some w) (hc : nmGet? s.cfg.live.shards n = some c)
  (hstop : w.stop = false) (hheld : sweepHeld s w c = false) (hguest : drivenByRun s n = false ∨ guestHeld s n = false)
include hw hc hstop hheld hguest

/-- The pass is over where the sweep stands, unheld, after its reads. -/
theorem sweepComplete_over (x : SweepRec) (hx : sweepOf (reach s (sweepReads s w c (List.range (tileCount c)))) n = some x)
    (hxs : x.stop = false) (hxh : sweepHeld (reach s (sweepReads s w c (List.range (tileCount c)))) x c = false) :
    sweepComplete n s = settle (serveHeld (passOver n x c (reach s (sweepReads s w c (List.range (tileCount c)))))) := by
  have hg : (drivenByRun s n && guestHeld s n) = false := by rwa [Bool.and_eq_false_iff]
  simp only [sweepComplete, hw, hc, hstop, hheld, hg, hx, hxs, hxh, Bool.or_self, Bool.false_eq_true, if_false]

/-- The pass waits where the reads have ended, stopped or held the sweep. -/
theorem sweepComplete_waits (hall : ∀ x, sweepOf (reach s (sweepReads s w c (List.range (tileCount c)))) n = some x →
      x.stop = true ∨ sweepHeld (reach s (sweepReads s w c (List.range (tileCount c)))) x c = true) :
    sweepComplete n s = settle (reach s (sweepReads s w c (List.range (tileCount c)))) := by
  have hg : (drivenByRun s n && guestHeld s n) = false := by rwa [Bool.and_eq_false_iff]
  cases hx : sweepOf (reach s (sweepReads s w c (List.range (tileCount c)))) n with
  | none => simp only [sweepComplete, hw, hc, hstop, hheld, hg, hx, Bool.or_self, Bool.false_eq_true, if_false]
  | some x =>
    simp only [sweepComplete, hw, hc, hstop, hheld, hg, hx, Bool.or_self, Bool.false_eq_true, if_false]
    exact if_pos (by simpa using hall x hx)

end

/-- The one pass of a one-pass program is its last. -/
theorem passOver_onePass (n : Nat) (w : SweepRec) (c : ShardCfg) (s : State) (h : twoPass (programOf s.cfg.live c) = false) :
    passOver n w c s = lastPass s w c := by simp [passOver, h]

/-! ### The stop of a sweep -/

/-- A sweep that was ordered to stop and that nothing holds: its reads come first, and it ends at its tiles' boundary if it still stands. -/
theorem sweepStop_eq (s : State) (n : Nat) (l : List (Nat × Nat)) (w x : SweepRec) (c : ShardCfg) (hw : sweepOf s n = some w)
    (hc : nmGet? s.cfg.live.shards n = some c) (hstop : w.stop = true)
    (hheld : stopTiles s w c l = [] ∨ tilesHeld s w c (stopTiles s w c l) = false)
    (hx : sweepOf (reach s (sweepReads s w c (stopTiles s w c l))) n = some x)
    (hxheld : stopTiles s w c l = [] ∨ tilesHeld (reach s (sweepReads s w c (stopTiles s w c l))) x c (stopTiles s w c l) = false) :
    sweepStop n l s =
      settle (serveHeld (stopSweep (reach s (sweepReads s w c (stopTiles s w c l))) x c (stopTiles s w c l))) := by
  have free : ∀ (v : State) (y : SweepRec), stopTiles s w c l = [] ∨ tilesHeld v y c (stopTiles s w c l) = false →
      (!(stopTiles s w c l).isEmpty && tilesHeld v y c (stopTiles s w c l)) = false := by
    rintro v y (h | h) <;> simp [h]
  simp only [sweepStop, hw, hc, hstop, free s w hheld, hx, free _ x hxheld, Bool.not_true, Bool.or_self, Bool.false_eq_true, if_false]

/-- A UE that has come to a tile has come to every earlier tile of its own. -/
theorem tilesDone_downward (s : State) (c : ShardCfg) (todo : List Nat) (swept : List (Nat × Nat)) (t u : Nat)
    (ht : t ∈ tilesDone s c todo swept) (hu : u ∈ todo) (hlt : u < t) (hue : tileUe s c u = tileUe s c t) :
    u ∈ tilesDone s c todo swept := by
  unfold tilesDone at ht ⊢
  obtain ⟨-, hp⟩ := List.mem_filter.1 ht
  refine List.mem_filter.2 ⟨hu, ?_⟩
  rw [hue]
  cases hk : tileUe s c t with
  | none => simp [hk] at hp
  | some k =>
    simp only [hk, decide_eq_true_eq] at hp ⊢
    refine Nat.lt_of_le_of_lt ?_ hp
    rw [← List.countP_eq_length_filter, ← List.countP_eq_length_filter]
    refine List.countP_mono_left fun x _ hx => ?_
    simp only [Bool.and_eq_true, decide_eq_true_eq] at hx ⊢
    exact ⟨hx.1.trans hlt, hx.2⟩

/-- The stop of a sweep in its first pass, of a shard with two slots: each UE has all its tiles up to the last it has come to (R213). -/
theorem stopTiles_downward (s : State) (w : SweepRec) (c : ShardCfg) (l : List (Nat × Nat)) (hcap : capMode c = false)
    (hp : w.pass1 = false) (t u : Nat) (ht : t ∈ stopTiles s w c l) (hlt : u < t) (hue : tileUe s c u = tileUe s c t) :
    u ∈ stopTiles s w c l := by
  simp only [stopTiles, hp, hcap, Bool.false_and, Bool.false_eq_true, if_false] at ht ⊢
  have htr : t < tileCount c := List.mem_range.1 (List.mem_of_mem_filter ht)
  exact tilesDone_downward s c _ l t u ht (List.mem_range.2 (hlt.trans htr)) hlt hue

/-- Settles O34: the three commands of a sweep go on where their guards allow it, and a stop takes each UE's tiles in order. -/
theorem sweepsRun : Obligations.SweepsRun := by
  unfold Obligations.SweepsRun
  refine ⟨fun s n r c hr hc hfatal hhalt hguest hst hsw hheld hfl hal hred hfresh => ?_, fun s n w c hw hc => ⟨?_, ?_⟩⟩
  · have hready := sweepReady_of s r n.toNat c hc hst hsw hheld hfl hal hred
    have hsh := shardDyn_runSweep s r.handle (speculativeRec n.toNat r c) .sweeping
    refine ⟨speculativeRec n.toNat r c, ?_, rfl, rfl, rfl, rfl, rfl, ?_, ?_⟩
    · exact congrArg Host.Outcome.next (speculate_ready s n.toNat r c hr hc hfatal hhalt hready hguest hfresh)
    · exact congrArg ShardDyn.st hsh
    · exact (congrArg ShardDyn.epoch hsh :)
  · intro hstop hheld hguest v
    refine ⟨fun x hx hxs hxh h1 => ?_, fun hall => ?_⟩
    · rw [← passOver_onePass n.toNat x c v h1]
      exact congrArg Host.Outcome.next (sweepComplete_over hw hc hstop hheld hguest x hx hxs hxh)
    · exact congrArg Host.Outcome.next (sweepComplete_waits hw hc hstop hheld hguest hall)
  · intro swept ts v hstop hheld
    refine ⟨fun x hx hxh => ?_, fun hcap hp t ht u hlt hue => ?_⟩
    · exact congrArg Host.Outcome.next (sweepStop_eq s n.toNat _ w x c hw hc hstop hheld hx hxh)
    · exact stopTiles_downward s w c _ hcap hp t u ht hlt hue

end Sys2Proof.Machine
end

section
/-! PROOFS. What leaving the system changes, UE faults, and the dispatch of engines. -/

namespace Sys2Proof.Machine

/-! ### Error-log records -/

@[simp] theorem logRecordFree_ues (s : State) (k d u p t : Nat) : (logRecordFree s k d u p t).units.ues = s.units.ues := rfl

/-! ### Frames that leave the ports -/

/-- Only the ports and what was sent have changed. -/
def PortsOnly (s t : State) : Prop := t = { s with hz := { s.hz with ports := t.hz.ports, out := t.hz.out } }

theorem PortsOnly.refl (s : State) : PortsOnly s s := rfl

theorem PortsOnly.trans {s t u : State} (h : PortsOnly s t) (k : PortsOnly t u) : PortsOnly s u := by
  unfold PortsOnly at h k ⊢; rw [k, h]

theorem PortsOnly.foldl {α : Type} (f : State → α → State) (hf : ∀ s x, PortsOnly s (f s x)) :
    ∀ (l : List α) (s : State), PortsOnly s (l.foldl f s)
  | [], s => .refl s
  | x :: l, s => (hf s x).trans (PortsOnly.foldl f hf l (f s x))

theorem PortsOnly.mem {s t : State} (h : PortsOnly s t) : t.mem = s.mem := by rw [h]
theorem PortsOnly.units {s t : State} (h : PortsOnly s t) : t.units = s.units := by rw [h]
theorem PortsOnly.drop {s t : State} (h : PortsOnly s t) : t.hz.drop = s.hz.drop := by rw [h]

theorem portsOnly_updPort (s : State) (p : Nat) (f : HzPort → HzPort) : PortsOnly s (updPort s p f) := rfl

theorem portsOnly_dropQueued (s : State) (gone : Frame → Bool) : PortsOnly s (dropQueued s gone) := rfl

theorem portsOnly_drainGo (port : Nat) : ∀ (n : Nat) (s : State), PortsOnly s (drainGo port n s)
  | 0, s => .refl s
  | n + 1, s => by
    rw [drainGo]
    split
    · exact .refl s
    · split
      · exact .refl s
      · split
        · exact .refl s
        · refine PortsOnly.trans ?_ (portsOnly_drainGo port n _)
          rfl

theorem portsOnly_sendOn (s : State) (port : Nat) (f : Frame) : PortsOnly s (sendOn s port f) :=
  (portsOnly_updPort s port _).trans (portsOnly_drainGo port _ _)

theorem portsOnly_sendDrop (s : State) (pkg : BitVec 13) (cut : Bool) (but : Option Nat) : PortsOnly s (sendDrop s pkg cut but) :=
  .foldl _ (fun s p => portsOnly_sendOn s p _) _ s

theorem portsOnly_idlePorts (s : State) : PortsOnly s (idlePorts s) := .foldl _ (fun s p => portsOnly_updPort s p _) _ s

/-! ### Dropping out (R378, R379) -/

/-- A package that drops out changes its dropout state, and its ports. -/
theorem portsOnly_dropOut (s : State) (delay : Bool) :
    PortsOnly (updDrop s fun d => { d with dropped := true, keepDelay := delay }) (dropOut s delay) :=
  (portsOnly_dropQueued _ _).trans (portsOnly_idlePorts _)

@[simp] theorem dropOut_mem (s : State) (delay : Bool) : (dropOut s delay).mem = s.mem := (portsOnly_dropOut s delay).mem
@[simp] theorem dropOut_units (s : State) (delay : Bool) : (dropOut s delay).units = s.units := (portsOnly_dropOut s delay).units
@[simp] theorem dropOut_drop (s : State) (delay : Bool) :
    (dropOut s delay).hz.drop = { s.hz.drop with dropped := true, keepDelay := delay } := (portsOnly_dropOut s delay).drop

@[simp] theorem dropSelf_dropped (s : State) : (dropSelf s).hz.drop.dropped = true := by
  unfold dropSelf; split
  · assumption
  · simp

@[simp] theorem dropSelf_mem (s : State) : (dropSelf s).mem = s.mem := by
  unfold dropSelf; split
  · rfl
  · simp [(portsOnly_sendDrop _ _ _ _).mem]

@[simp] theorem dropSelf_units (s : State) : (dropSelf s).units = s.units := by
  unfold dropSelf; split
  · rfl
  · simp [(portsOnly_sendDrop _ _ _ _).units]

/-! ### UE faults (R205, R214) -/

/-- A UE in service has left it: its fault is counted and logged. -/
def ueOut (u : Nat) (residue : Bool) (s : State) : State :=
  logRecordFree { s with units := { s.units with ues :=
    ⟨s.units.ues.avail &&& BitVec.ofNat 320 (2 ^ 320 - 1 - 2 ^ u),
      nmSet s.units.ues.faults (ueDie u) (satTo 0xFFFF ((nmGet (0, 0, false) s.units.ues.faults (ueDie u)).1 + 1), u, residue)⟩ } }
    0x05 (1 + ueDie u) (if u < 256 then u % 64 else (u - 256) % 32) u 0xF

theorem ueFault_inService (u : Nat) (residue : Bool) (s : State) (h : s.units.ues.avail.getLsbD u = true) :
    ueFault u residue s = dropIdle (ueOut u residue s) := by
  unfold ueFault; rw [h]; rfl

/-- The mask that clears bit `u` of a word of `n` bits. -/
theorem getLsbD_allBut (n u k : Nat) (hu : u < n) (hk : k < n) :
    (BitVec.ofNat n (2 ^ n - 1 - 2 ^ u)).getLsbD k = decide (k ≠ u) := by
  have hlt : 2 ^ u < 2 ^ n := Nat.pow_lt_pow_right Nat.one_lt_two hu
  rw [BitVec.getLsbD_ofNat, Nat.sub_sub, Nat.add_comm 1, Nat.testBit_two_pow_sub_succ hlt, Nat.testBit_two_pow]
  simp [hk, eq_comm]

/-- Of the availability bits that of the UE falls, and no other changes. -/
theorem ueOut_avail (u : Nat) (residue : Bool) (s : State) (hu : u < 320) (k : Nat) (hk : k < 320) :
    (ueOut u residue s).units.ues.avail.getLsbD k = (s.units.ues.avail.getLsbD k && decide (k ≠ u)) := by
  rw [ueOut, logRecordFree_ues, BitVec.getLsbD_and, getLsbD_allBut 320 u k hu hk]

theorem ueOut_faults (u : Nat) (residue : Bool) (s : State) :
    nmGet (0, 0, false) (ueOut u residue s).units.ues.faults (ueDie u) =
      (min 0xFFFF ((nmGet (0, 0, false) s.units.ues.faults (ueDie u)).1 + 1), u, residue) := nmGet_nmSet_self _ _ _ _

theorem mem_dieUes_lt {d k : Nat} (h : k ∈ dieUes d) : k < 320 := List.mem_range.1 (List.mem_of_mem_filter h)

/-- A die with work and no UE in service makes the package drop out. -/
theorem dropIdle_dropped (s : State) (d : Nat) (hd : d < 6) (hw : dieSweeps s.cfg.live d = true)
    (hout : ∀ k ∈ dieUes d, s.units.ues.avail.getLsbD k = false) : (dropIdle s).hz.drop.dropped = true := by
  unfold dropIdle
  rw [if_pos]
  · exact dropSelf_dropped s
  · rw [List.any_eq_true]
    exact ⟨d, List.mem_range.2 hd, by simpa [hw] using hout⟩

/-- A package whose dies with work each have a UE in service stays. -/
theorem dropIdle_stays (s : State) (h : ∀ d < 6, dieSweeps s.cfg.live d = true → ∃ k ∈ dieUes d, s.units.ues.avail.getLsbD k = true) :
    dropIdle s = s := by
  unfold dropIdle
  rw [if_neg]
  rw [Bool.not_eq_true, List.any_eq_false]
  intro d hd
  simpa using h d (List.mem_range.1 hd)

theorem ueFault_lastOfDie (s : State) (u : Nat) (residue : Bool) (hu : u < 320) (h : s.units.ues.avail.getLsbD u = true)
    (hidle : ∃ d < 6, dieSweeps s.cfg.live d = true ∧ ∀ k ∈ dieUes d, k ≠ u → s.units.ues.avail.getLsbD k = false) :
    (ueFault u residue s).hz.drop.dropped = true := by
  obtain ⟨d, hd, hw, hothers⟩ := hidle
  rw [ueFault_inService u residue s h]
  refine dropIdle_dropped _ d hd hw fun k hk => ?_
  rw [ueOut_avail u residue s hu k (mem_dieUes_lt hk)]
  by_cases hku : k = u
  · simp [hku]
  · simp [hothers k hk hku]

theorem ueFault_stays (s : State) (u : Nat) (residue : Bool) (hu : u < 320) (h : s.units.ues.avail.getLsbD u = true)
    (hleft : ∀ d < 6, dieSweeps s.cfg.live d = true → ∃ k ∈ dieUes d, k ≠ u ∧ s.units.ues.avail.getLsbD k = true) :
    ueFault u residue s = ueOut u residue s := by
  rw [ueFault_inService u residue s h]
  refine dropIdle_stays _ fun d hd hw => ?_
  obtain ⟨k, hk, hku, hka⟩ := hleft d hd hw
  exact ⟨k, hk, by rw [ueOut_avail u residue s hu k (mem_dieUes_lt hk)]; simp [hka, hku]⟩

/-! ### The dispatch of engines (R49, R596) -/

/-- An engine that leaves its work changes no cell, nothing of the configuration, and of the step engine only what is dispatched. -/
theorem yieldEngine_rest (s : State) (e : Engine) (t : BitVec 4) :
    (yieldEngine s e t).mem.cells = s.mem.cells ∧ (yieldEngine s e t).mem.scells = s.mem.scells ∧ (yieldEngine s e t).cfg = s.cfg ∧
    (yieldEngine s e t).step = { s.step with phases := (yieldEngine s e t).step.phases } := by
  unfold yieldEngine
  split
  · cases e <;> exact ⟨rfl, rfl, rfl, rfl⟩
  · exact ⟨rfl, rfl, rfl, rfl⟩

theorem takeTurn_phases (s : State) (e : Engine) (t : BitVec 4) : (e, t) ∈ (takeTurn s e t).step.phases := by simp [takeTurn]

/-- A turn counts for its tenant; the first of a new round is its only one. -/
theorem turnsOf_takeTurn (s : State) (e : Engine) (t : BitVec 4) :
    turnsOf (takeTurn s e t) e t = if turnsDone s e t then 1 else turnsOf s e t + 1 := by
  have hnone : ∀ l : List ((Engine × BitVec 4) × Nat),
      (l.filter fun x => decide (x.1 ≠ (e, t))).find? (fun x => decide (x.1 = (e, t))) = none := by
    intro l
    rw [List.find?_eq_none]
    intro x hx
    simpa using (List.mem_filter.1 hx).2
  simp only [turnsOf, takeTurn, List.find?_append, hnone, List.find?_singleton, decide_true, if_true, Option.none_or, Option.map_some,
    Option.getD_some]

section
variable {s : State} {e : Engine} {t : BitVec 4} (he : engineFor (settle (slotGathers s)) e t = true)
  (hf : (settle (slotGathers s)).units.acorns.fatal = false)
  (hg : guestWaits (yieldEngine (settle (slotGathers s)) e t) t (stepNeeds (yieldEngine (settle (slotGathers s)) e t) e) = false)
include he hf hg

theorem phaseDispatch_rival
    (hr : (turnsDone (yieldEngine (settle (slotGathers s)) e t) e t && rivalTurn (yieldEngine (settle (slotGathers s)) e t) e t) = true) :
    phaseDispatch e t s = yieldEngine (settle (slotGathers s)) e t := by
  simp only [phaseDispatch, he, hf, hg, hr, Bool.not_false, Bool.and_self, Bool.or_true, if_true]

theorem phaseDispatch_turn
    (hr : (turnsDone (yieldEngine (settle (slotGathers s)) e t) e t && rivalTurn (yieldEngine (settle (slotGathers s)) e t) e t) = false) :
    phaseDispatch e t s = takeTurn (yieldEngine (settle (slotGathers s)) e t) e t := by
  simp only [phaseDispatch, he, hf, hg, hr, Bool.not_false, Bool.and_self, Bool.or_self, if_true, Bool.false_eq_true, if_false]

end

/-- Settles O38: a fault changes one availability bit, and a dispatch only what is dispatched and counted. -/
theorem engineFaultsAndDispatch : Obligations.EngineFaultsAndDispatch := by
  unfold Obligations.EngineFaultsAndDispatch
  refine ⟨fun s ue residue h hidle => ⟨_, rfl, ueFault_lastOfDie s ue.val residue ue.isLt h hidle⟩, fun s ue residue h hleft => ?_,
    fun s e k => ?_⟩
  · refine ⟨ueOut ue.val residue s, congrArg Host.Outcome.next (ueFault_stays s ue.val residue ue.isLt h hleft), ?_, fun k hk hku => ?_,
      ueOut_faults ue.val residue s, rfl, rfl⟩
    · rw [ueOut_avail ue.val residue s ue.isLt ue.val ue.isLt]; simp
    · rw [ueOut_avail ue.val residue s ue.isLt k hk]; simp [hku]
  · intro t v y he hf hg
    refine ⟨yieldEngine_rest v e t, fun hr => ?_, fun hr => ⟨?_, takeTurn_phases y e t, turnsOf_takeTurn y e t⟩⟩
    · exact congrArg Host.Outcome.next (phaseDispatch_rival he hf hg hr)
    · exact congrArg Host.Outcome.next (phaseDispatch_turn he hf hg hr)

end Sys2Proof.Machine
end

section
/-! PROOFS. Failures of hub units, of links and of both Acorns. -/

namespace Sys2Proof.Machine

/-! ### HUB_FATAL (R628) -/

/-- HUB_FATAL up to the held requests that it lets go on. -/
def fatalState (s : State) : State :=
  let u := s.units.proc.foldl catchUp (updAcorns s fun x => { x with fatal := true })
  updTier (dropOut (updPips { u with units := { u.units with proc := [] } } fun p => { p with held := [], waits := [] }) false) fun t =>
    { t with selfRefresh := [0, 1], hubLost := [0, 1] }

theorem setFatal_eq (s : State) : setFatal s = settle (serveHeld (fatalState s)) := rfl

theorem catchUps_only (s : State) (l : List Nat) : l.foldl catchUp s = { s with units := (l.foldl catchUp s).units } :=
  only_units_foldl catchUp catchUp_only l s

theorem catchUp_acorns (s : State) (c : Nat) : (catchUp s c).units.acorns = s.units.acorns := by
  unfold catchUp; split <;> rfl

theorem catchUps_acorns : ∀ (l : List Nat) (s : State), (l.foldl catchUp s).units.acorns = s.units.acorns
  | [], _ => rfl
  | c :: l, s => (catchUps_acorns l (catchUp s c)).trans (catchUp_acorns s c)

theorem fatalState_mem (s : State) : (fatalState s).mem = s.mem := by
  simp only [fatalState, updTier_mem, dropOut_mem, updPips_mem]
  rw [catchUps_only]; rfl

theorem fatalState_fatal (s : State) : (fatalState s).units.acorns.fatal = true := by
  simp only [fatalState, updTier_units, dropOut_units, updPips_units, catchUps_acorns, updAcorns_units]

theorem fatalState_proc (s : State) : (fatalState s).units.proc = [] := by
  simp only [fatalState, updTier_units, dropOut_units, updPips_units]

theorem fatalState_drop (s : State) : (fatalState s).hz.drop.dropped = true ∧ (fatalState s).hz.drop.keepDelay = false := by
  simp only [fatalState, updTier_hz, dropOut_drop, and_self]

/-- The keep outputs of a package that has dropped out are low once no delay keeps them (R378). -/
theorem keepHigh_dropped (s : State) (n : Nat) (h : s.hz.drop.dropped = true) (hk : s.hz.drop.keepDelay = false) :
    keepHigh s n = false := by simp [keepHigh, h, hk]

theorem hubFatal_acts (s : State) (hdown : s.units.acorns.bothDown = true) (hdef : s.units.acorns.cupule.deferent = false)
    (hlease : s.units.acorns.cupule.lease = false) (hfatal : s.units.acorns.fatal = false) (hboot : 2 ≤ s.units.boot.phase)
    (hpow : s.units.power.state < 2) : hubFatal s = setFatal s := by
  simp [hubFatal, hdown, hdef, hlease, hfatal, hboot, hpow]

theorem hubFatal_idle (s : State) (h : s.units.acorns.bothDown = false ∨ s.units.acorns.cupule.lease = true ∨
    s.units.acorns.cupule.deferent = true) : hubFatal s = s := by
  rcases h with h | h | h <;> simp [hubFatal, h]

/-! ### Grants of the lease (R617, R619) -/

theorem nextEpoch_ne (e : Word) : nextEpoch e ≠ e := by
  unfold nextEpoch
  split
  · next h => subst h; decide
  · bv_omega

/-- A grant leaves all but the Cupule, the epochs that the Acorns read, the keep watchdog and what an event changes. -/
structure OnlyGrants (s t : State) : Prop where
  mem : t.mem = s.mem
  cfg : t.cfg = s.cfg
  step : t.step = s.step

theorem OnlyGrants.refl (s : State) : OnlyGrants s s := ⟨rfl, rfl, rfl⟩

theorem OnlyGrants.trans {s t u : State} (h : OnlyGrants s t) (k : OnlyGrants t u) : OnlyGrants s u :=
  ⟨k.mem.trans h.mem, k.cfg.trans h.cfg, k.step.trans h.step⟩

theorem OnlyEvents.onlyGrants {s t : State} (h : OnlyEvents s t) : OnlyGrants s t := ⟨h.mem, h.cfg, h.step⟩

theorem onlyGrants_updAcorns (s : State) (f : AcornUnits → AcornUnits) : OnlyGrants s (updAcorns s f) := ⟨rfl, rfl, rfl⟩

theorem onlyGrants_setEpoch (s : State) (e : Word) : OnlyGrants s (setEpoch s e) := ⟨rfl, rfl, rfl⟩

theorem onlyGrants_updCupule (s : State) (f : Cupule → Cupule) : OnlyGrants s (updCupule s f) := ⟨rfl, rfl, rfl⟩

theorem onlyGrants_feedDog (s : State) : OnlyGrants s (feedDog s) := ⟨rfl, rfl, rfl⟩

/-- HOLDER names an Acorn: the Cupule's new word before any event. -/
theorem holdBy_units (s : State) (n by_ : Nat) :
    (holdBy s n by_).units = (updCupule s fun c => { c with holder := n, last := n, lease := true, lastBy := by_ }).units := by
  unfold holdBy
  simp only
  split
  · exact ((onlyEvents_takeNat _).trans (onlyEvents_raiseAll _ _ _ _)).units
  · rfl

theorem onlyGrants_holdBy (s : State) (n by_ : Nat) : OnlyGrants s (holdBy s n by_) := by
  unfold holdBy
  simp only
  split
  · exact ((onlyGrants_updCupule s _).trans (onlyGrants_feedDog _)).trans
      ((onlyEvents_takeNat _).trans (onlyEvents_raiseAll _ _ _ _)).onlyGrants
  · exact (onlyGrants_updCupule s _).trans (onlyGrants_feedDog _)

theorem onlyGrants_grantTo (s : State) (n by_ : Nat) : OnlyGrants s (grantTo s n by_) :=
  (onlyGrants_setEpoch s _).trans (onlyGrants_holdBy _ n by_)

theorem onlyGrants_claim (s : State) (b : Bool) (e : Word) : OnlyGrants s (cupuleRequest b true (claimLease b e) s) := by
  unfold cupuleRequest claimLease
  split
  · exact .refl s
  · simp only [Bool.not_true, Bool.false_eq_true, if_false]
    split
    · exact onlyGrants_grantTo s _ 1
    · exact .refl s

/-- Both Acorns after their start, before they claim the Cupule. -/
def startedAcorns (v : RestartView) (s : State) : State :=
  updAcorns s fun x => { x with
    a := restarted x.a (v.copyOk || v.reloadOk) v.aPasses s.units.acorns.cupule.epoch
    b := restarted x.b (v.copyOk || v.reloadOk) v.bPasses s.units.acorns.cupule.epoch
    fwFlash := if v.copyOk || v.reloadOk then !v.copyOk else x.fwFlash, misses := 0 }

/-- The claims follow the start, in the order in which the Acorns get to them. -/
theorem restartAcorns_eq (v : RestartView) (s : State) : restartAcorns v s =
    let e := s.units.acorns.cupule.epoch
    if v.aFirst then cupuleRequest true true (claimLease true e) (cupuleRequest false true (claimLease false e) (startedAcorns v s))
    else cupuleRequest false true (claimLease false e) (cupuleRequest true true (claimLease true e) (startedAcorns v s)) := rfl

/-- Steps 2 and 3 of R631 leave the memories, the configuration and the step engine. -/
theorem onlyGrants_restartAcorns (v : RestartView) (s : State) : OnlyGrants s (restartAcorns v s) := by
  rw [restartAcorns_eq]
  simp only
  split <;> exact (onlyGrants_updAcorns s _).trans ((onlyGrants_claim (startedAcorns v s) _ _).trans (onlyGrants_claim _ _ _))

/-- A claim under an EPOCH that has passed takes nothing. -/
theorem claim_stale (s : State) (b : Bool) (e : Word) (h : e ≠ s.units.acorns.cupule.epoch) :
    cupuleRequest b true (claimLease b e) s = s := by
  unfold cupuleRequest claimLease
  split <;> simp [h]

/-- The claim of an Acorn in service on a free and sound Cupule makes it the leader, under the next EPOCH. -/
theorem claim_free (s : State) (b : Bool) (hup : (acornOf s b).up = true) (hdef : s.units.acorns.cupule.deferent = false)
    (hfree : s.units.acorns.cupule.holder = 0) :
    leads (cupuleRequest b true (claimLease b s.units.acorns.cupule.epoch) s) b = true ∧
    (cupuleRequest b true (claimLease b s.units.acorns.cupule.epoch) s).units.acorns.cupule.epoch =
      nextEpoch s.units.acorns.cupule.epoch := by
  have hreq : cupuleRequest b true (claimLease b s.units.acorns.cupule.epoch) s = grantTo s (holderNo b) 1 := by
    simp [cupuleRequest, claimLease, hup, hdef, hfree]
  have hunits : (grantTo s (holderNo b) 1).units = _ := holdBy_units _ _ _
  rw [hreq]
  cases b <;> simp_all [leads, acornOf, setEpoch, holderNo]

/-- An Acorn A that passes, and claims first, leads after a restart from a sound copy (R631). -/
theorem restartAcorns_leads (v : RestartView) (s : State) (hcopy : v.copyOk = true) (hpass : v.aPasses = true) (hfirst : v.aFirst = true)
    (hdef : s.units.acorns.cupule.deferent = false) (hfree : s.units.acorns.cupule.holder = 0) :
    leads (restartAcorns v s) false = true := by
  have hA : (acornOf (startedAcorns v s) false).up = true := by simp [startedAcorns, acornOf, restarted, hcopy, hpass]
  obtain ⟨hlead, hepoch⟩ := claim_free (startedAcorns v s) false hA hdef hfree
  rw [show (startedAcorns v s).units.acorns.cupule.epoch = s.units.acorns.cupule.epoch from rfl] at hlead hepoch
  rw [restartAcorns_eq]
  simp only [hfirst, if_true]
  rw [claim_stale _ true _ (fun he => nextEpoch_ne _ (hepoch.symm.trans he.symm))]
  exact hlead

/-! ### HUB_RECOVER (R631) -/

/-- Step 1 of R631: the lease is revoked, EPOCH advances, and both Acorns are in reset. -/
def revoked (s : State) : State :=
  updAcorns s fun x => { x with
    a := { x.a with up := false }, b := { x.b with up := false }, running := true
    cupule := { x.cupule with holder := 0, lease := false, epoch := nextEpoch x.cupule.epoch } }

theorem hubRecover_eq (v : RestartView) (s : State) (ha : recoverAllowed s = true) (hp : s.units.power.state = 0) :
    hubRecover v s = if hasLeader (restartAcorns v (revoked s)) then finishRecover (restartAcorns v (revoked s))
      else restartAcorns v (revoked s) := by
  unfold hubRecover
  rw [ha, hp]
  rfl

theorem hubRecover_refused (v : RestartView) (s : State) (ha : recoverAllowed s = false) : hubRecover v s = s := by
  simp [hubRecover, ha]

/-! ### Hub units and spine links (R35, R37, R627) -/

/-- The leader has recorded the failure of a hub unit. -/
def unitFailed (u : Nat) (s : State) : State :=
  logRecordOpen (updAcorns s fun x => { x with failed := insertNat u x.failed, unitFail := BitVec.ofNat 4 (unitRow u) })
    (if u = 11 then 0x0D else 0x0C) 0 (unitRow u) 0xF

/-- What follows the record, by unit. -/
theorem unitFailure_eq (u : Nat) (s : State) (h : hasLeader s = true) :
    unitFailure u s =
      if u = 1 then dropSelf (unitFailed u s)
      else if 2 ≤ u && u ≤ 7 then settle (endAll (dropSelf (unitFailed u s)) stDropped)
      else if u = 8 then settle (releaseWrites (endOps (abortCommits (unitFailed u s)) [opCfgStage] stAborted))
      else if u = 9 && s.units.power.state = 1 then refuseRetain 6 (unitFailed u s)
      else unitFailed u s := by
  rw [unitFailure, h]; rfl

theorem unitFailure_noLeader (u : Nat) (s : State) (h : hasLeader s = false) : unitFailure u s = s := by simp [unitFailure, h]

/-- A spine link with one module fewer. -/
def spineLess (l : Nat) (s : State) : State := updBoot s fun b => { b with spine := nmSet b.spine l (spineMods s l - 1) }

theorem spineFailure_eq (l : Nat) (s : State) (h : 0 < spineMods s l) :
    spineFailure l s = if spineMods s l = 1 ∧ (l < 4 ∨ 12 ≤ l) then dropSelf (spineLess l s) else spineLess l s := by
  have h0 : spineMods s l ≠ 0 := by omega
  simp [spineFailure, h0, spineLess]

theorem spineMods_spineLess (l : Nat) (s : State) : spineMods (spineLess l s) l = spineMods s l - 1 := nmGet_nmSet_self _ _ _ _

theorem spineMods_dropSelf (l : Nat) (s : State) : spineMods (dropSelf s) l = spineMods s l := by simp [spineMods]

theorem mem_insertNat (x : Nat) : ∀ l : List Nat, x ∈ insertNat x l
  | [] => List.mem_singleton_self x
  | y :: l => by
    rw [insertNat]
    split
    · exact List.mem_cons_self
    · split
      · next h => rw [h]; exact List.mem_cons_self
      · exact List.mem_cons_of_mem _ (mem_insertNat x l)

/-- The effect of a module's failure on its spine link. -/
theorem spineFailure_effect (l : Nat) (s : State) (h : 0 < spineMods s l) :
    spineMods (spineFailure l s) l = spineMods s l - 1 ∧ (spineFailure l s).mem = s.mem ∧
    (spineMods s l = 1 → l < 4 ∨ 12 ≤ l → (spineFailure l s).hz.drop.dropped = true) ∧
    (1 < spineMods s l ∨ (4 ≤ l ∧ l < 12) → (spineFailure l s).hz.drop = s.hz.drop) := by
  rw [spineFailure_eq l s h]
  split
  · next hlast =>
    refine ⟨by rw [spineMods_dropSelf, spineMods_spineLess], dropSelf_mem _, fun _ _ => dropSelf_dropped _, fun hk => ?_⟩
    omega
  · next hk =>
    exact ⟨spineMods_spineLess l s, rfl, fun h1 hl => absurd ⟨h1, hl⟩ hk, fun _ => rfl⟩

/-- Settles O49: each failure by the equation of its command, and the leader of a recovery by the order of the claims. -/
theorem unitFailures : Obligations.UnitFailures := by
  unfold Obligations.UnitFailures
  refine ⟨fun s => ⟨fun hdown hdef hlease hfatal hboot hpow => ?_, fun h => congrArg Host.Outcome.next (hubFatal_idle s h)⟩,
    fun s v ha hp => ?_, fun s v ha => congrArg Host.Outcome.next (hubRecover_refused v s ha), fun s u h => ?_,
    fun s u h => congrArg Host.Outcome.next (unitFailure_noLeader u.val s h),
    fun s l h => ⟨_, rfl, spineFailure_effect (spineNo l) s h⟩, fun s d => rfl,
    fun s m => ⟨_, rfl, mem_insertNat m.val _, rfl, rfl⟩⟩
  · obtain ⟨hdrop, hdelay⟩ := fatalState_drop s
    have hacts := (hubFatal_acts s hdown hdef hlease hfatal hboot hpow).trans (setFatal_eq s)
    exact ⟨fatalState s, congrArg Host.Outcome.next hacts, fatalState_fatal s, fatalState_proc s, rfl, hdrop,
      fun n => keepHigh_dropped _ n hdrop hdelay, fatalState_mem s⟩
  · have hrest := onlyGrants_restartAcorns v (revoked s)
    refine ⟨restartAcorns v (revoked s), rfl, fun hl => ?_, fun hl => ?_, hrest.mem, hrest.cfg, fun hc hpass hfirst hdef => ?_⟩
    · exact congrArg Host.Outcome.next ((hubRecover_eq v s ha hp).trans (if_pos hl))
    · exact congrArg Host.Outcome.next ((hubRecover_eq v s ha hp).trans (if_neg (by simp [hl])))
    · exact restartAcorns_leads v (revoked s) hc hpass hfirst hdef rfl
  · have he := unitFailure_eq u.val s h
    refine ⟨unitFailed u.val s, rfl, rfl, rfl, rfl, rfl, fun hu => ?_, fun hu => ?_, fun h2 h7 => ?_, fun hu => ?_, fun hu hp => ?_⟩ <;>
      refine congrArg Host.Outcome.next (he.trans ?_)
    · simp only [List.mem_cons, List.not_mem_nil, or_false] at hu
      rcases hu with hu | hu | hu <;> simp [hu]
    · simp [hu]
    · have h1 : u.val ≠ 1 := by omega
      simp [h1, h2, h7]
    · simp [hu]
    · simp [hu, hp]

end Sys2Proof.Machine
end

section
/-! PROOFS. The training of a channel that has a run: why the statement on resets and start-up fails. -/

namespace Sys2Proof.Machine

/-- A fetched command of tenant 0 in queue 0, by handle, place in the fetch order, opcode and flags. -/
def fetchedOp (handle : Word) (order opcode flags : Nat) (phase : OpPhase) : Op :=
  { handle := handle, queue := 0, number := 0, order := order, tenant := 0, desc := BitVec.ofNat 512 (opcode + 2 ^ 8 * flags)
    phase := phase, failed := none, started := phase = .running, met := none, status := 0, empty := false, signalled := false
    replayed := false, event := false, res0 := 0, res1 := 0, counts := countsZero, cursor := 0, pieces := [], remote := 0
    pull := false, spoiled := [], stream := 0, last := false, seat := 0, behind := false, collNo := 0 }

/-- The trainings are under way while channel 0 has the run of PIM_RUN 1. Command 2 of the same queue waits behind it: a NOP with
ACQUIRE and FENCE_PRE (flags 1 and 2). -/
def acquireBehindRun : State :=
  { State.reset with
    fe := { feReset with ops := [fetchedOp 1 0 opPimRun 0 .running, fetchedOp 2 1 opNop 6 .waiting] }
    units := { unitsReset with
      boot := { unitsReset.boot with phase := 2 }, pips := { unitsReset.pips with runs := [(0, ⟨1, 0, false⟩)] } } }

/-- Nine failed lanes are one more than a channel's spares replace. Channel 0 fails, its run stops and PIM_RUN 1 ends (R472), so the acquire
behind it enters Running, and the generation of tenant 0's copies advances (R87). -/
theorem channelTraining_acquireBehindRun : (channelTraining 0 (List.range 9) acquireBehindRun).mem.gens = [(0, 1)] := by decide +kernel

/-- Refutes O53: its clause on CHANNEL_TRAINING says `t.mem = s.mem` of every state, also of one in which the channel that fails has a
run. The end of that PIM_RUN lets a waiting acquire begin, which changes the acquire generations of `mem`. -/
theorem not_resetsAndStartUp : ¬ Obligations.ResetsAndStartUp := by
  unfold Obligations.ResetsAndStartUp
  rintro ⟨-, -, -, -, -, -, -, hchannel, -⟩
  obtain ⟨t, ht, -, -, hmem, -⟩ := hchannel acquireBehindRun 0 (List.range 9) rfl rfl
  have htrained : channelTraining 0 (List.range 9) acquireBehindRun = t := Host.Outcome.next.inj ht
  have hgens : acquireBehindRun.mem.gens = [(0, 1)] := by
    rw [← hmem, ← htrained]; exact channelTraining_acquireBehindRun
  exact absurd hgens (by decide)

end Sys2Proof.Machine
end

section
/-! PROOFS. The package after a COLD reset, and the laws of the byte memories (SPEC.md, section 02). -/

namespace Sys2Proof.Machine

/-! ### Reading a range of a byte memory -/

/-- Bytes below a read do not matter to it. -/
theorem memGet_dropWhile (m : List Host.Cell) {a x : Nat} (h : a ≤ x) : memGet (m.dropWhile fun c => c.1 < a) x = memGet m x := by
  induction m with
  | nil => rfl
  | cons c m ih =>
    by_cases hc : c.1 < a
    · rw [List.dropWhile_cons_of_pos (by simpa using hc), ih, memGet, if_neg (by omega)]
    · rw [List.dropWhile_cons_of_neg (by simpa using hc)]

theorem le_of_mem_dropWhile (m : List Host.Cell) (a : Nat) (hm : m.Pairwise fun c d => c.1 < d.1) :
    ∀ c ∈ m.dropWhile fun c => c.1 < a, a ≤ c.1 := by
  induction m with
  | nil => simp
  | cons c m ih =>
    obtain ⟨hc, hm⟩ := List.pairwise_cons.1 hm
    by_cases ha : c.1 < a
    · rw [List.dropWhile_cons_of_pos (by simpa using ha)]
      exact ih hm
    · rw [List.dropWhile_cons_of_neg (by simpa using ha)]
      rw [List.forall_mem_cons]
      exact ⟨by omega, fun d hd => by have := hc d hd; omega⟩

/-- The walk of a read over a sorted memory that begins at its address takes the bytes one by one. -/
theorem memReadGo_eq (n : Nat) (m : List Host.Cell) (a : Nat) (hm : m.Pairwise fun c d => c.1 < d.1) (ha : ∀ c ∈ m, a ≤ c.1) :
    memReadGo n m a = (List.range n).map fun i => memGet m (a + i) := by
  induction n generalizing m a with
  | zero => rfl
  | succ n ih =>
    have hsucc : ∀ (k : List Host.Cell), (List.range n).map (fun i => memGet k (a + 1 + i)) =
        (List.range n).map ((fun i => memGet k (a + i)) ∘ Nat.succ) := fun k =>
      List.map_congr_left fun i _ => by simp only [Function.comp, Nat.succ_eq_add_one, Nat.add_assoc, Nat.add_comm 1 i]
    rw [List.range_succ_eq_map, List.map_cons, List.map_map]
    cases m with
    | nil =>
      rw [memReadGo, ih [] (a + 1) .nil (by simp), hsucc]
      rfl
    | cons c m =>
      obtain ⟨hc, hm'⟩ := List.pairwise_cons.1 hm
      have hca := ha c List.mem_cons_self
      simp only [memReadGo]
      split
      · next he =>
        rw [ih m (a + 1) hm' fun d hd => by have := hc d hd; omega, hsucc]
        refine congrArg₂ List.cons (by simp [memGet, he]) (List.map_congr_left fun i _ => ?_)
        simp only [Function.comp, memGet]
        rw [if_neg (by omega)]
      · next he =>
        have hlow : ∀ d ∈ c :: m, a + 1 ≤ d.1 :=
          List.forall_mem_cons.2 ⟨by omega, fun d hd => by have := hc d hd; omega⟩
        rw [ih (c :: m) (a + 1) hm hlow, hsucc]
        rw [Nat.add_zero, memGet_of_notMem _ a fun d hd => by have := hlow d hd; omega]

/-- A read of a memory in canonical form takes the bytes that lie there. -/
theorem memRead_eq (m : List Host.Cell) (a n : Nat) (h : cellsWf m = true) :
    memRead m a n = (List.range n).map fun i => memGet m (a + i) := by
  obtain ⟨-, hm⟩ := (cellsWf_iff m).1 h
  rw [memRead, memReadGo_eq _ _ _ (hm.sublist (List.dropWhile_sublist _)) (le_of_mem_dropWhile m a hm)]
  exact List.map_congr_left fun i _ => memGet_dropWhile m (Nat.le_add_right a i)

theorem map_range_getD (bs : List Byte) : (List.range bs.length).map (fun i => bs.getD i 0) = bs :=
  List.ext_getElem (by simp) fun i h _ => by
    have hi : i < bs.length := by simpa using h
    simp [List.getElem?_eq_getElem hi]

/-- What was written is read back. -/
theorem memRead_memWrite (m : List Host.Cell) (a : Nat) (bs : List Byte) (h : cellsWf m = true) :
    memRead (memWrite m a bs) a bs.length = bs := by
  rw [memRead_eq _ _ _ (memWrite_wf m a bs h)]
  conv_rhs => rw [← map_range_getD bs]
  refine List.map_congr_left fun i hi => ?_
  have hi := List.mem_range.1 hi
  rw [memGet_memWrite, if_pos ⟨by omega, by omega⟩, Nat.add_sub_cancel_left]

/-- A range set free reads 0, the rest as before. -/
theorem memGet_cut (m : List Host.Cell) {lo hi : Nat} (h : lo ≤ hi) (x : Nat) :
    memGet (m.filter (fun c => c.1 < lo) ++ m.filter (fun c => hi ≤ c.1)) x = if lo ≤ x ∧ x < hi then 0 else memGet m x := by
  have hlow := memGet_filter m (fun k => decide (k < lo)) x
  have hhigh := memGet_filter m (fun k => decide (hi ≤ k)) x
  rw [memGet_append]
  by_cases hx : x < lo
  · rw [if_neg (c := lo ≤ x ∧ x < hi) (by omega)]
    simp only [decide_eq_true_eq, hx, if_true] at hlow
    split
    · exact hlow
    · next hn =>
      rw [hhigh, if_neg (by simp; omega), ← hlow, memGet_of_notMem _ _ fun c hc he => hn ⟨c, hc, he⟩]
  · rw [if_neg fun ⟨c, hc, he⟩ => by simp only [List.mem_filter, decide_eq_true_eq] at hc; omega, hhigh]
    by_cases hx' : hi ≤ x
    · rw [if_pos (by simpa using hx'), if_neg (by omega)]
    · rw [if_neg (by simpa using hx'), if_pos (by omega)]

/-! ### The form is canonical -/

/-- Two memories in canonical form that hold the same bytes are the same list. -/
theorem eq_of_memGet_eq (m k : List Host.Cell) (hm : cellsWf m = true) (hk : cellsWf k = true) (h : ∀ a, memGet m a = memGet k a) :
    m = k := by
  obtain ⟨hmz, hmp⟩ := (cellsWf_iff m).1 hm
  obtain ⟨hkz, hkp⟩ := (cellsWf_iff k).1 hk
  clear hm hk
  induction m generalizing k with
  | nil =>
    cases k with
    | nil => rfl
    | cons d k => exact absurd (h d.1).symm (by simpa [memGet] using hkz d List.mem_cons_self)
  | cons c m ih =>
    cases k with
    | nil => exact absurd (h c.1) (by simpa [memGet] using hmz c List.mem_cons_self)
    | cons d k =>
      rw [List.forall_mem_cons] at hmz hkz
      rw [List.pairwise_cons] at hmp hkp
      have hc : memGet (c :: m) c.1 = c.2 := by simp [memGet]
      have hd : memGet (d :: k) d.1 = d.2 := by simp [memGet]
      have he : c.1 = d.1 := by
        rcases Nat.lt_trichotomy c.1 d.1 with hl | he | hl
        · refine absurd ((hc.symm.trans (h c.1)).trans (memGet_of_notMem _ _ ?_)) hmz.1
          exact List.forall_mem_cons.2 ⟨by omega, fun e he => by have := hkp.1 e he; omega⟩
        · exact he
        · refine absurd ((hd.symm.trans (h d.1).symm).trans (memGet_of_notMem _ _ ?_)) hkz.1
          exact List.forall_mem_cons.2 ⟨by omega, fun e he => by have := hmp.1 e he; omega⟩
      have hv : c.2 = d.2 := by rw [← hc, ← hd, h, he]
      have htail : m = k := by
        refine ih k (fun a => ?_) hmz.2 hmp.2 hkz.2 hkp.2
        by_cases ha : c.1 = a
        · subst ha
          rw [memGet_of_notMem m _ fun e he' => by have := hmp.1 e he'; omega,
            memGet_of_notMem k _ fun e he' => by have := hkp.1 e he'; omega]
        · have := h a
          rwa [memGet, memGet, if_neg ha, if_neg (he ▸ ha)] at this
      rw [htail, Prod.ext he hv]

/-! ### S-space, with the bytes that UE work has left open (log 66) -/

/-- The seed of the opening in which an S-space byte lies, if one does. -/
def openSeed (l : List (Nat × Nat × Nat)) (x : Nat) : Option Nat :=
  (l.find? fun r => decide (r.1 ≤ x) && decide (x < r.2.1)).map (·.2.2)

theorem sByte_eq (s : State) (x : Nat) :
    sByte s x = (openSeed s.mem.sopen x).elim (memGet s.mem.scells x) fun k => Config.freeScratch k x := by
  unfold sByte openSeed
  cases List.find? _ s.mem.sopen <;> rfl

theorem openSeed_cons (r : Nat × Nat × Nat) (l : List (Nat × Nat × Nat)) (x : Nat) :
    openSeed (r :: l) x = if r.1 ≤ x ∧ x < r.2.1 then some r.2.2 else openSeed l x := by
  unfold openSeed
  rw [List.find?_cons]
  split <;> simp_all

theorem openSeed_append (l k : List (Nat × Nat × Nat)) (x : Nat) : openSeed (l ++ k) x = (openSeed l x).or (openSeed k x) := by
  unfold openSeed
  rw [List.find?_append]
  cases List.find? _ l <;> rfl

/-- An empty opening opens no byte. -/
theorem openSeed_filter (l : List (Nat × Nat × Nat)) (x : Nat) : openSeed (l.filter fun r => r.1 < r.2.1) x = openSeed l x := by
  induction l with
  | nil => rfl
  | cons r l ih =>
    by_cases hr : r.1 < r.2.1
    · rw [List.filter_cons_of_pos (by simpa using hr), openSeed_cons, openSeed_cons, ih]
    · rw [List.filter_cons_of_neg (by simpa using hr), openSeed_cons, if_neg (by omega), ih]

/-- A write closes its range, and leaves every other byte as open as it was. -/
theorem openSeed_cutOpen (l : List (Nat × Nat × Nat)) (a n x : Nat) :
    openSeed (cutOpen l a n) x = if a ≤ x ∧ x < a + n then none else openSeed l x := by
  induction l with
  | nil => simp [cutOpen, openSeed]
  | cons r l ih =>
    have hcut : cutOpen (r :: l) a n =
        [(r.1, min r.2.1 a, r.2.2), (max r.1 (a + n), r.2.1, r.2.2)].filter (fun x => x.1 < x.2.1) ++ cutOpen l a n := rfl
    have hpart : openSeed ([(r.1, min r.2.1 a, r.2.2), (max r.1 (a + n), r.2.1, r.2.2)].filter fun x => x.1 < x.2.1) x =
        if (r.1 ≤ x ∧ x < r.2.1) ∧ ¬(a ≤ x ∧ x < a + n) then some r.2.2 else none := by
      rw [openSeed_filter, openSeed_cons, openSeed_cons]
      simp only [openSeed, List.find?_nil, Option.map_none]
      rw [← ite_or]
      exact if_congr (by omega) rfl rfl
    rw [hcut, openSeed_append, hpart, ih, openSeed_cons]
    by_cases hx : a ≤ x ∧ x < a + n <;> by_cases hr : r.1 ≤ x ∧ x < r.2.1 <;> simp [hx, hr]

/-- A read of S-space takes the bytes that lie there. -/
theorem sRead_eq (s : State) (a n : Nat) (h : Memory.wf s.mem = true) : sRead s a n = (List.range n).map fun i => sByte s (a + i) := by
  unfold sRead
  split
  · rfl
  · next hopen =>
    rw [memRead_eq _ _ _ ((Memory.wf_iff _).1 h).2]
    refine List.map_congr_left fun i hi => ?_
    have hi := List.mem_range.1 hi
    have hnone : s.mem.sopen.find? (fun r => decide (r.1 ≤ a + i) && decide (a + i < r.2.1)) = none := by
      refine List.find?_eq_none.2 fun r hr hx => hopen (List.any_eq_true.2 ⟨r, hr, ?_⟩)
      simp only [meets, Bool.and_eq_true, decide_eq_true_eq] at hx ⊢
      omega
    rw [sByte, hnone]

theorem sByte_sWrite (s : State) (a : Nat) (bs : List Byte) (x : Nat) :
    sByte (sWrite s a bs) x = if a ≤ x ∧ x < a + bs.length then bs.getD (x - a) 0 else sByte s x := by
  rw [sByte_eq, sByte_eq]
  simp only [sWrite_mem, openSeed_cutOpen, memGet_memWrite]
  by_cases hx : a ≤ x ∧ x < a + bs.length
  · rw [if_pos hx, if_pos hx, if_pos hx]
    rfl
  · rw [if_neg hx, if_neg hx, if_neg hx]

theorem sRead_sWrite (s : State) (a : Nat) (bs : List Byte) (h : Memory.wf s.mem = true) : sRead (sWrite s a bs) a bs.length = bs := by
  rw [sRead_eq _ _ _ (sWrite_wf s a bs h)]
  conv_rhs => rw [← map_range_getD bs]
  refine List.map_congr_left fun i hi => ?_
  have hi := List.mem_range.1 hi
  rw [sByte_sWrite, if_pos ⟨by omega, by omega⟩, Nat.add_sub_cancel_left]

theorem sRead_sWrite_apart (s : State) (a : Nat) (bs : List Byte) {b n : Nat} (h : Memory.wf s.mem = true)
    (hb : meets a bs.length b n = false) : sRead (sWrite s a bs) b n = sRead s b n := by
  rw [sRead_eq _ _ _ (sWrite_wf s a bs h), sRead_eq _ _ _ h]
  refine List.map_congr_left fun i hi => ?_
  have hi := List.mem_range.1 hi
  rw [sByte_sWrite, if_neg]
  intro hx
  simp only [meets, Bool.and_eq_false_iff, decide_eq_false_iff_not] at hb
  omega

/-! ### D-space -/

theorem poisonPart_none {s : State} {a n : Nat} (h : poisonCut s a n = false) : poisonPart s a n = [] := by
  simpa [poisonCut] using h

/-- Where no channel has failed and no poisoned granule is cut, a write to D-space lays its bytes. -/
theorem dWrite_laid (s : State) (a : Nat) (bs : List Byte) (h : NoFailed s) (hp : poisonCut s a bs.length = false) :
    Laid s.mem.cells (dWrite s a bs).mem.cells a bs := by
  intro x
  unfold dWrite
  split
  · next he =>
    obtain rfl := List.isEmpty_iff.1 he
    rw [if_neg (by simp)]
  · have hfailed : failedGranules (dirtyLines (releaseHold s a bs.length) a bs.length) a bs.length = [] := by
      refine failedGranules_none _ _ _ ?_
      rw [show (dirtyLines (releaseHold s a bs.length) a bs.length).units.chans = (releaseHold s a bs.length).units.chans by
        unfold dirtyLines; split <;> rfl]
      exact (releaseHold_noFailed s a bs.length h).1
    have hmem : (dirtyLines (releaseHold s a bs.length) a bs.length).mem = s.mem := by rw [dirtyLines_mem, releaseHold_mem]
    have hpart : poisonPart (dirtyLines (releaseHold s a bs.length) a bs.length) a bs.length = [] := by
      rw [← poisonPart_none hp]; unfold poisonPart; rw [hmem]
    have hdrop : dropFailed (dirtyLines (releaseHold s a bs.length) a bs.length) a bs = bs := by
      unfold dropFailed; rw [hfailed]; rfl
    have hkeep : keepPoison (dirtyLines (releaseHold s a bs.length) a bs.length) a bs = bs := by
      unfold keepPoison; rw [hpart]; rfl
    simp only [hdrop, hkeep, hmem, memGet_memWrite]

theorem memGet_freshen (s : State) (g n a : Nat) :
    memGet (freshen s g n).mem.cells a = if g * 4096 ≤ a ∧ a < (g + n) * 4096 then 0 else memGet s.mem.cells a :=
  memGet_cut _ (Nat.mul_le_mul_right 4096 (Nat.le_add_right g n)) a

/-- Settles O58: writes and reads of the byte memories, law by law. -/
theorem memoryLaws : Obligations.MemoryLaws := by
  unfold Obligations.MemoryLaws
  refine ⟨fun m a bs => ⟨memGet_memWrite m a bs, memWrite_wf m a bs⟩, memRead_eq, memRead_memWrite, eq_of_memGet_eq, ?_, ?_, dWrite_laid⟩
  · exact fun s a bs h => ⟨sRead_sWrite s a bs h, fun b n hb => sRead_sWrite_apart s a bs h hb⟩
  · exact fun s g n h => ⟨freshen_wf s g n h, memGet_freshen s g n⟩

/-! ### After a COLD reset -/

theorem blocksOf_ne_nil (k a : Nat) {n : Nat} (h : 0 < n) : blocksOf k a n ≠ [] := by
  rw [blocksOf, if_neg (by omega), rangeIncl]
  have := Nat.div_le_div_right (c := k) (show a ≤ a + n - 1 by omega)
  rw [ne_eq, List.range'_eq_nil_iff]
  omega

/-- After a COLD reset every granule is fresh. -/
theorem freshIn_reset (a : Nat) {n : Nat} (h : 0 < n) : freshIn State.reset a n ≠ 0 := by
  have hall : freshIn State.reset a n = (blocksOf 4096 a n).length := congrArg List.length (List.filter_eq_self.2 fun _ _ => rfl)
  rw [hall]
  exact fun h0 => blocksOf_ne_nil 4096 a h (List.length_eq_zero_iff.1 h0)

/-- Settles O59: what the statement names is read off the reset state. -/
theorem resetState : Obligations.ResetState := by
  unfold Obligations.ResetState
  refine ⟨Memory.wf_reset, fun a => ⟨rfl, rfl⟩, fun a n h => freshIn_reset a h, fun k => rfl, rfl, rfl, rfl, rfl, rfl, rfl, rfl, rfl,
    by decide, rfl, by decide, by decide, rfl, rfl, fun c _ => ⟨rfl, rfl⟩⟩

end Sys2Proof.Machine
end

section
/-! PROOFS. A COPY whose source begins within a 64 B sector that a gather range cuts: why the statement on COPY fails. -/

namespace Sys2Proof.Machine

/-- A Running COPY of tenant 0: 32 bytes from 0x1020 to byte 0x40 of S-space. -/
def copyOp : Op :=
  { handle := 7, queue := 0, number := 0, order := 0, tenant := 0
    desc := BitVec.ofNat 512 (opCopy + 2 ^ 16 + 4 * 2 ^ 24 + 0x1020 * 2 ^ 192 + (0x40 + 32 * 2 ^ 64) * 2 ^ 256)
    phase := .running, failed := none, started := false, met := none, status := 0, empty := false, signalled := false
    replayed := false, event := false, res0 := 0, res1 := 0, counts := countsZero, cursor := 0, pieces := [], remote := 0
    pull := false, spoiled := [], stream := 0, last := false, seat := 0, behind := false, collNo := 0 }

/-- The live plane has one gather range, 0x1000 to 0x101F, whose copies lie at 0x500000 and 0x600000. Each byte from 0x1020 to 0x103F, which
is no byte of that range, holds 0x5A. -/
def cutSector : State :=
  { State.reset with
    mem := { memReset with cells := (List.range 32).map fun i => (0x1020 + i, 0x5A), written := [1] }
    fe := { feReset with ops := [copyOp] }
    cfg := { cfgReset with live := { bootPlane with dmap := { bootPlane.dmap with
      gathers := [⟨0x1000, 32, 0x500000, some 0x600000, 0, 0, []⟩] } } } }

/-- Byte 0x40 of S-space after a step. -/
def copied : Host.Outcome State Fault Refusal → Byte
  | .next t => memGet t.mem.scells 0x40
  | _ => 1

/-- The end of an operation leaves S-space. -/
theorem copied_complete (u : State) (o : Op) (r : Res) : copied (.next (complete u o r)) = memGet u.mem.scells 0x40 := by
  rw [copied, (onlyOps_complete u o r).mem]

/-- The read of the sector at 0x1000 goes where the gather range maps 0x1000, and takes the bytes from 0x1020 on from there too: the COPY
delivers 0. -/
theorem copied_cutSector : copied (exec (.copy 7) cutSector) = 0 := by decide +kernel

theorem copyOp_fields : dSrcSpace copyOp.desc = 0 ∧ dSrc copyOp.desc = 0x1020 ∧ dCount copyOp.desc = 32 ∧ dDstSpace copyOp.desc = 1 ∧
    dDst copyOp.desc = 0x40 := by decide +kernel

/-- The source meets every condition of the statement. -/
theorem cutSector_source :
    SourceIs cutSector (dSrcSpace copyOp.desc) (dSrc copyOp.desc) (dCount copyOp.desc) (List.replicate 32 0x5A) := by
  obtain ⟨hspace, hsrc, hcount, -, -⟩ := copyOp_fields
  rw [hspace, hsrc, hcount]
  have hplain : PlainSrc cutSector 0x1020 32 := by decide +kernel
  have hbytes : List.replicate 32 0x5A = dRead cutSector 0x1020 32 := by decide +kernel
  exact .inr ⟨rfl, 0x1020, by decide +kernel, hplain, hbytes⟩

/-- Refutes O21: the source need only lie outside every gather range, but the model reads whole 64 B sectors, each at the place to which
`gatherMap` takes its first byte. In `cutSector` the first byte of the source's sector lies in a gather range and the source does not. Neither
the statement nor the model keeps gather ranges to whole sectors. -/
theorem not_copyMovesBytes : ¬ Obligations.CopyMovesBytes := by
  unfold Obligations.CopyMovesBytes
  intro h
  obtain ⟨-, -, -, hspace, hdst⟩ := copyOp_fields
  obtain ⟨u, hu, hs, -⟩ := h cutSector 7 copyOp (List.replicate 32 0x5A) (by decide +kernel) (by decide +kernel) (by decide +kernel)
    (by decide +kernel) cutSector_source (.inl hspace)
  obtain ⟨hlaid, -⟩ := hs hspace
  rw [hdst] at hlaid
  have hbyte : memGet u.mem.scells 0x40 = 0x5A := hlaid 0x40
  have hcopied : copied (exec (.copy 7) cutSector) = memGet u.mem.scells 0x40 :=
    (congrArg copied hu).trans (copied_complete _ _ _)
  rw [copied_cutSector, hbyte] at hcopied
  exact absurd hcopied (by decide)

end Sys2Proof.Machine
end

section
/-! PROOFS. Transaction groups: what a command of a group changes, how a group ends, and how its locks are granted (SPEC.md, section 03). -/

namespace Sys2Proof.Machine

/-! ### A command that begins to act -/

section
variable {s t : State} {h : Word} {o : Op} {c : Nat} {f : State → Op → Outcome} {r : Res}

theorem runCommand_done (ho : Ready s h c o) (hf : f (begun s h) (begunOp o) = .done t r) (howed : finalOwed t o r = false) :
    runCommand c f h s = complete t o r := by
  obtain ⟨hfind, hop, hphase, hstarted⟩ := ho
  rw [begun, begunOp] at hf
  unfold runCommand
  rw [hfind]
  dsimp only
  rw [if_pos (by simp [hop, hphase]), if_pos (by simp [hstarted]), hf]
  exact endAway_eq t o r howed

theorem runCommand_go (ho : Ready s h c o) (hf : f (begun s h) (begunOp o) = .go t) : runCommand c f h s = settle t := by
  obtain ⟨hfind, hop, hphase, hstarted⟩ := ho
  rw [begun, begunOp] at hf
  unfold runCommand
  rw [hfind]
  dsimp only
  rw [if_pos (by simp [hop, hphase]), if_pos (by simp [hstarted]), hf]

end

/-! ### The groups of a state -/

theorem group_of_txgOf {s : State} {n : Nat} {g : Txg} (h : txgOf s n = some g) : g.group = n := by
  simpa using List.find?_some h

theorem txgOf_updTxg (s : State) (n : Nat) (f : Txg → Txg) (hf : ∀ x, (f x).group = x.group) :
    txgOf (updTxg s n f) n = (txgOf s n).map f := by
  unfold txgOf updTxg
  induction s.step.txgs with
  | nil => rfl
  | cons x l ih =>
    by_cases hx : x.group = n
    · simp [hx, hf]
    · simpa [hx] using ih

theorem txgOf_closeGroup (s : State) (n : Nat) : txgOf (closeGroup s n) n = none := by
  refine List.find?_eq_none.2 fun x hx => ?_
  have hx : x ∈ s.step.txgs.filter fun x => x.group ≠ n := hx
  simpa using (List.mem_filter.1 hx).2

theorem goes_txgBegin {s t : State} {h : Word} {o : Op} {r : Res} (ho : Ready s h opTxgBegin o)
    (hf : tryTxgBegin (begun s h) (begunOp o) = .done t r) : Goes (.txgBegin h) s (complete t o r) := by
  have hnear : farDst t.cfg.live o.desc = false := by rw [farDst, ho.2.1]; rfl
  exact congrArg Host.Outcome.next (runCommand_done ho hf (finalOwed_false _ _ _ (.inl hnear)))

/-! ### A write of a command of a group (R284, R285) -/

/-- Nothing but the write set of one group and the lock requests differs. -/
structure OnlyTxg (g : Nat) (s t : State) : Prop where
  eq : t = { s with step := { s.step with txgs := t.step.txgs, locks := t.step.locks } }
  others : ∀ x ∈ s.step.txgs, x.group ≠ g → x ∈ t.step.txgs

theorem OnlyTxg.refl (g : Nat) (s : State) : OnlyTxg g s s := ⟨rfl, fun _ hx _ => hx⟩

theorem OnlyTxg.trans {g : Nat} {s t u : State} (h : OnlyTxg g s t) (k : OnlyTxg g t u) : OnlyTxg g s u :=
  ⟨by rw [k.eq, h.eq], fun x hx hg => k.others x (h.others x hx hg) hg⟩

theorem OnlyTxg.foldl {α : Type} {g : Nat} {f : State → α → State} (hf : ∀ s x, OnlyTxg g s (f s x)) (l : List α) (s : State) :
    OnlyTxg g s (l.foldl f s) := by
  induction l generalizing s with
  | nil => exact .refl g s
  | cons x l ih => exact (hf s x).trans (ih _)

theorem onlyTxg_updTxg (s : State) (g : Nat) (f : Txg → Txg) : OnlyTxg g s (updTxg s g f) :=
  ⟨rfl, fun x hx hg => List.mem_map.2 ⟨x, hx, if_neg hg⟩⟩

theorem onlyTxg_locks (g : Nat) (s : State) (l : List LockWait) : OnlyTxg g s { s with step := { s.step with locks := l } } :=
  ⟨rfl, fun _ hx _ => hx⟩

theorem onlyTxg_askLock (s : State) (g line : Nat) : OnlyTxg g s (askLock s g line) := by
  unfold askLock
  split
  · exact .refl g s
  · split
    · exact .refl g s
    · split
      · exact onlyTxg_updTxg s g _
      · split
        · exact .refl g s
        · exact onlyTxg_locks g s _

theorem OnlyTxg.frame {g : Nat} {s t : State} (h : OnlyTxg g s t) :
    t.mem = s.mem ∧ t.syncs = s.syncs ∧ t.fe = s.fe ∧ t.cfg = s.cfg ∧ t.units = s.units ∧
    ∀ x ∈ s.step.txgs, x.group ≠ g → x ∈ t.step.txgs := by
  refine ⟨?_, ?_, ?_, ?_, ?_, h.others⟩ <;> rw [h.eq]

/-- The state that a write of a group leaves, whether it is done, waits for a lock or finds no room. -/
def GroupWrite.state : GroupWrite → State
  | .ok t => t
  | .wait t => t
  | .limit t => t

theorem onlyTxg_groupWrite (s : State) (g a : Nat) (bs : List Byte) : OnlyTxg g s (groupWrite s g a bs).state := by
  unfold groupWrite
  split
  · exact .refl g s
  · dsimp only
    split
    · exact (onlyTxg_updTxg s g _).trans (onlyTxg_locks g _ _)
    · have hlocks : OnlyTxg g s ((blocksOf 128 a bs.length).foldl (fun s l => askLock s g l) s) :=
        .foldl (fun s l => onlyTxg_askLock s g l) _ s
      split
      · exact hlocks
      · split
        · exact hlocks.trans (onlyTxg_updTxg _ g _)
        · exact hlocks

/-! ### The end of a group's commands -/

theorem OnlyOps.txgs {s t : State} (h : OnlyOps s t) : t.step.txgs = s.step.txgs := by rw [h.step]

theorem OnlyOps.cells {s t : State} (h : OnlyOps s t) : t.mem.cells = s.mem.cells := by rw [h.mem]

theorem stopOp_keeps (s : State) (o : Op) (st : Status) :
    (stopOp s o st).step.txgs = s.step.txgs ∧ (stopOp s o st).mem.cells = s.mem.cells := by
  have hsignal : OnlyOps (dropWork s o) (signalPlan (dropWork s o) o) := by
    unfold signalPlan
    split
    · exact onlyOps_syncAdd _ _ _
    · exact .refl _
  have hstop := hsignal.trans (onlyOps_finishOp _ o { failRes o st with counts := o.counts })
  exact ⟨hstop.txgs, hstop.cells⟩

theorem abortOps_keeps (s : State) (g : Txg) : (abortOps s g).step.txgs = s.step.txgs ∧ (abortOps s g).mem.cells = s.mem.cells := by
  unfold abortOps
  induction groupOps s g generalizing s with
  | nil => exact ⟨rfl, rfl⟩
  | cons o l ih =>
    obtain ⟨htxgs, hcells⟩ := ih (stopOp s o stAborted)
    obtain ⟨htxgs', hcells'⟩ := stopOp_keeps s o stAborted
    exact ⟨htxgs.trans htxgs', hcells.trans hcells'⟩

theorem txgOf_abortOps (s : State) (g : Txg) (n : Nat) : txgOf (abortOps s g) n = txgOf s n := by
  rw [txgOf, (abortOps_keeps s g).1, txgOf]

section
variable {s : State} {h : Word} {o : Op} {g : Txg}

/-- A TXG_END whose EMODE drops the write set ends at once. -/
theorem tryTxgEnd_discard (hbegun : beginPending s o = false) (hg : txgOf s (dField o.desc 24 1) = some g) (hqueue : g.queue = o.queue)
    (hmode : dField o.desc 25 1 = 1) (hopen : g.state = .open_) : tryTxgEnd s o = .done (serveHeld (discardGroup s g)) resOk := by
  simp [tryTxgEnd, hbegun, hg, hqueue, hmode, endStatus, hopen, resSt, resOk]

/-- One that applies it waits for the Ending mark. -/
theorem tryTxgEnd_waits (hbegun : beginPending s o = false) (hg : txgOf s (dField o.desc 24 1) = some g) (hqueue : g.queue = o.queue)
    (hmode : dField o.desc 25 1 = 0) (hopen : g.state = .open_) : tryTxgEnd s o = .go s := by
  simp [tryTxgEnd, hbegun, hg, hqueue, hmode, hopen]

theorem txgEnding_applies {n : Nat} (hg : txgOf s n = some g) (ho : endOf s g = some o) (hopen : g.state = .open_)
    (hops : groupOps s g = []) : txgEnding n s = complete (serveHeld (applyGroup s g)) o resOk := by
  rw [txgEnding, hg]
  dsimp only
  rw [ho]
  simp [hopen, hops]

end

/-- A group that a lock timeout aborts: it keeps its number until its TXG_END, and neither lines nor requests (R289). -/
def conflicted (s : State) (n : Nat) : State := dropRequests (updTxg s n fun x => { x with state := .conflict, lines := [] }) n

theorem txgOf_conflicted (s : State) (n : Nat) :
    txgOf (conflicted s n) n = (txgOf s n).map fun x => { x with state := .conflict, lines := [] } :=
  txgOf_updTxg s n _ fun _ => rfl

/-! ### The Ending mark -/

/-- Nothing but the hint caches and the registers that count their accesses differs. -/
def OnlyCache (s t : State) : Prop := t = { s with regs := t.regs, units := { s.units with cache := t.units.cache } }

theorem OnlyCache.refl (s : State) : OnlyCache s s := rfl

theorem OnlyCache.trans {s t u : State} (h : OnlyCache s t) (k : OnlyCache t u) : OnlyCache s u := by
  unfold OnlyCache at h k ⊢
  rw [k, h]

/-- No channel has failed, every sector is its code word, nothing is poisoned and nothing is fetched again. -/
def Intact (s : State) : Prop := NoFailed s ∧ s.mem.poison = [] ∧ s.units.integ.refetch = []

theorem OnlyCache.intact {s t : State} (h : OnlyCache s t) (hs : Intact s) : Intact t := by
  rw [h]; exact hs

theorem OnlyCache.mem {s t : State} (h : OnlyCache s t) : t.mem = s.mem := by rw [h]

theorem onlyCache_hcCount (s : State) (die off : Nat) : OnlyCache s (hcCount s die off) := by
  unfold hcCount
  split <;> rfl

theorem onlyCache_keepsLine (s : State) (die line hint : Nat) : OnlyCache s (keepsLine s die line hint).1 := by
  unfold keepsLine
  split
  · split
    · exact .refl s
    · exact onlyCache_hcCount s die _
  · exact .refl s

theorem failedAt_false {s : State} (h : NoFailed s) (a : Nat) : failedAt s a = false := by
  unfold failedAt
  split
  · exact chanOf_failed s _ h.1
  · rfl

/-- Over channels that serve, what a line keeps of an array under it is not needed. -/
theorem writeBack_intact {s : State} (h : NoFailed s) (l : CacheLine) : writeBack s l = s := by
  have hsector : ∀ k, writeBackSector l s k = s := fun k => by simp [writeBackSector, failedAt_false h]
  simp [writeBack, hsector]

theorem onlyCache_evictLine {s : State} (h : NoFailed s) (die line : Nat) (visitor : Bool) :
    OnlyCache s (evictLine s die line visitor) := by
  unfold evictLine
  split
  · rw [writeBack_intact h]; rfl
  · rfl

theorem onlyCache_putLine {s : State} (h : NoFailed s) (l : CacheLine) : OnlyCache s (putLine s l) := by
  unfold putLine
  split
  · exact .refl s
  · dsimp only
    split
    · rfl
    · split
      · exact (onlyCache_evictLine h _ _ _).trans rfl
      · rfl

theorem onlyCache_homeWriteSector {s : State} (h : Intact s) (hint a : Nat) (small : Bool) :
    OnlyCache s (homeWriteSector hint small s a) := by
  unfold homeWriteSector
  dsimp only
  split
  · exact .refl s
  · split
    · exact .refl s
    · have hkeep := onlyCache_keepsLine s (homeDie s a) (a / 128) hint
      exact hkeep.trans (onlyCache_putLine (hkeep.intact h).1 _)

theorem onlyCache_homeWriteSectors {s : State} (h : Intact s) (hint : Nat) (small : Bool) (l : List Nat) :
    OnlyCache s (l.foldl (homeWriteSector hint small) s) := by
  induction l generalizing s with
  | nil => exact .refl s
  | cons a l ih =>
    have ha := onlyCache_homeWriteSector h hint a small
    exact ha.trans (ih (ha.intact h))

theorem catchUps_integ (l : List Nat) (s : State) : (l.foldl catchUp s).units.integ = s.units.integ := by
  induction l generalizing s with
  | nil => rfl
  | cons c l ih =>
    refine (ih (catchUp s c)).trans ?_
    unfold catchUp
    split <;> rfl

theorem intact_releaseHold {s : State} (h : Intact s) (a n : Nat) : Intact (releaseHold s a n) := by
  obtain ⟨hserve, hpoison, hrefetch⟩ := h
  refine ⟨releaseHold_noFailed s a n hserve, (congrArg MemState.poison (releaseHold_mem s a n)).trans hpoison, ?_⟩
  unfold releaseHold
  split
  · exact hrefetch
  · rw [catchUps_integ]
    exact hrefetch

theorem onlyCache_dirtyLines (s : State) (a n : Nat) : OnlyCache s (dirtyLines s a n) := by
  unfold dirtyLines
  split <;> rfl

theorem intact_dWrite {s : State} (h : Intact s) (a : Nat) (bs : List Byte) : Intact (dWrite s a bs) := by
  have ht := (onlyCache_dirtyLines _ a bs.length).intact (intact_releaseHold h a bs.length)
  obtain ⟨⟨hserve, hflips, hlinks, hlisted⟩, hpoison, hrefetch⟩ := ht
  unfold dWrite
  split
  · exact h
  · refine ⟨⟨hserve, ?_, hlinks, hlisted⟩, ?_, hrefetch⟩
    · simp [mendSectors, hflips]
    · simp [hpoison]

theorem poisonCut_intact {s : State} (h : Intact s) (a n : Nat) : poisonCut s a n = false := by
  simp [poisonCut, poisonPart, h.2.1]

theorem refetchLanded_intact {s : State} (h : Intact s) (a n : Nat) : refetchLanded s a n = s := by
  simp [refetchLanded, h.2.2]

/-- A locked line's new data in place. -/
theorem applyLine_intact {s : State} (h : Intact s) (l : Nat × List Byte) (hl : l.2.length = 128) :
    Intact (applyLine s l) ∧
    ∀ x, memGet (applyLine s l).mem.cells x = if x / 128 = l.1 then l.2.getD (x % 128) 0 else memGet s.mem.cells x := by
  have hc := onlyCache_homeWriteSectors h 0 false ((blocksOf 64 (l.1 * 128) 128).map (· * 64))
  have ht := hc.intact h
  have happly : applyLine s l = dWrite (((blocksOf 64 (l.1 * 128) 128).map (· * 64)).foldl (homeWriteSector 0 false) s) (l.1 * 128) l.2 :=
    refetchLanded_intact (intact_dWrite ht _ _) _ _
  rw [happly]
  refine ⟨intact_dWrite ht _ _, fun x => ?_⟩
  rw [dWrite_laid _ _ _ ht.1 (poisonCut_intact ht _ _) x, hl, hc.mem]
  by_cases hx : x / 128 = l.1
  · rw [if_pos (by omega), if_pos hx, show x - l.1 * 128 = x % 128 by omega]
  · rw [if_neg (by omega), if_neg hx]

theorem nmGet?_eq_none {α : Type} (m : NMap α) (i : Nat) (h : i ∉ m.map (·.1)) : nmGet? m i = none := by
  cases hg : nmGet? m i with
  | none => rfl
  | some v => exact absurd (List.mem_map.2 ⟨_, nmGet?_mem m i v hg, rfl⟩) h

/-- All lines in place. -/
theorem memGet_applyLines {s : State} (h : Intact s) (lines : NMap (List Byte)) (hl : ∀ l ∈ lines, l.2.length = 128)
    (hd : (lines.map (·.1)).Nodup) (x : Nat) :
    memGet (lines.foldl applyLine s).mem.cells x = (nmGet? lines (x / 128)).elim (memGet s.mem.cells x) fun l => l.getD (x % 128) 0 := by
  induction lines generalizing s with
  | nil => rfl
  | cons l lines ih =>
    rw [List.forall_mem_cons] at hl
    rw [List.map_cons, List.nodup_cons] at hd
    obtain ⟨ht, hmem⟩ := applyLine_intact h l hl.1
    rw [List.foldl_cons, ih ht hl.2 hd.2, hmem x]
    by_cases hx : x / 128 = l.1
    · rw [hx, nmGet?_eq_none lines l.1 hd.1]
      simp [nmGet?]
    · simp [nmGet?, hx]

/-- The state of a group that is being applied. -/
def ending (s : State) (g : Txg) : State := setTxgs s fun l => l.map fun x => if x.group = g.group then { x with state := .ending } else x

theorem memGet_applyGroup {s : State} (h : Intact s) (g : Txg) (hl : ∀ l ∈ g.lines, l.2.length = 128) (hd : (g.lines.map (·.1)).Nodup)
    (x : Nat) :
    memGet (applyGroup s g).mem.cells x = (nmGet? g.lines (x / 128)).elim (memGet s.mem.cells x) fun l => l.getD (x % 128) 0 :=
  memGet_applyLines (s := ending s g) h g.lines hl hd x

/-! ### Locks (R104, R105) -/

section
variable {s : State} {line n : Nat} {w : LockWait} {x : Txg}

/-- The request whose turn it is at a released line (R104). -/
structure Granted (s : State) (line n : Nat) (w : LockWait) (x : Txg) : Prop where
  waits : (waitersOf s line).find? (fun w => w.group = n) = some w
  free : lockOf s line = none
  turn : ∀ y ∈ waitersOf s line, y.round ≤ w.round
  group : txgOf s n = some x

theorem Granted.goes (h : Granted s line n w x) :
    ((lockOf s line).isSome || lineBusy s line || (waitersOf s line).any fun y => w.round < y.round) = false := by
  have hturn : ((waitersOf s line).any fun y => w.round < y.round) = false :=
    List.any_eq_false.2 fun y hy => by simpa using h.turn y hy
  rw [lineBusy, h.free, hturn]
  rfl

/-- The line joins the write set with what it holds, and the request is served. -/
theorem lockGrant_fits (h : Granted s line n w x) (hfits : lineFits s x line = true) :
    lockGrant line n s =
      let t := updTxg s n fun x => { x with lines := nmSet x.lines line (dRead s (line * 128) 128) }
      { t with step := { t.step with locks := (s.step.locks.filter fun y => y ≠ w).map fun y =>
        if y.line = line then { y with round := y.round + 1 } else y } } := by
  unfold lockGrant
  rw [h.waits]
  dsimp only
  rw [h.goes, h.group]
  simp [hfits, updTxg]

/-- Without room for the line the group is doomed, and the request tells its command so. -/
theorem lockGrant_full (h : Granted s line n w x) (hfits : lineFits s x line = false) :
    lockGrant line n s = { doomGroup s n with step := { (doomGroup s n).step with
      locks := s.step.locks.map fun y => if y = w then { y with full := true } else y } } := by
  unfold lockGrant
  rw [h.waits]
  dsimp only
  rw [h.goes, h.group]
  simp [hfits]

theorem Granted.mem_locks (h : Granted s line n w x) : w ∈ s.step.locks := List.mem_of_mem_filter (List.mem_of_find?_eq_some h.waits)

end

theorem txgOf_doomGroup (s : State) (n : Nat) :
    txgOf (doomGroup s n) n = (txgOf s n).map fun x => { x with state := if x.state = .open_ then .doomed else x.state } :=
  txgOf_updTxg s n _ fun _ => rfl

/-- A granted request, whatever comes of it. -/
theorem lockGrant_effect {s : State} {line n : Nat} {w : LockWait} {x : Txg} (h : Granted s line n w x) :
    ∃ y, txgOf (lockGrant line n s) n = some y ∧ (lockGrant line n s).mem = s.mem ∧ (lockGrant line n s).fe = s.fe ∧
      (lockGrant line n s).syncs = s.syncs ∧
      (lineFits s x line = true → nmGet? y.lines line = some (dRead s (line * 128) 128) ∧
        (lockGrant line n s).step.locks.length < s.step.locks.length) ∧
      (lineFits s x line = false → y.lines = x.lines ∧ (x.state = .open_ → y.state = .doomed)) := by
  cases hfits : lineFits s x line with
  | true =>
    rw [lockGrant_fits h hfits]
    have htxg := txgOf_updTxg s n (fun x => { x with lines := nmSet x.lines line (dRead s (line * 128) 128) }) fun _ => rfl
    rw [h.group] at htxg
    refine ⟨_, htxg, rfl, rfl, rfl, fun _ => ⟨nmGet?_nmSet_self _ _ _, ?_⟩, fun hf => by simp at hf⟩
    rw [List.length_map]
    exact List.length_filter_lt_length_iff_exists.2 ⟨w, h.mem_locks, by simp⟩
  | false =>
    rw [lockGrant_full h hfits]
    have htxg := txgOf_doomGroup s n
    rw [h.group] at htxg
    exact ⟨_, htxg, rfl, rfl, rfl, fun hf => by simp at hf, fun _ => ⟨rfl, fun hopen => if_pos hopen⟩⟩

/-- Settles O43: each clause by the equation of its command. -/
theorem transactionGroups : Obligations.TransactionGroups := by
  unfold Obligations.TransactionGroups
  refine ⟨fun s h o ho => ⟨fun hopen => ?_, fun hnone hroom => ?_, fun hnone hlimit => ?_⟩, fun s t g a bs hw => ?_,
    fun s h o g ho hbegun hg hqueue hopen => ⟨fun hmode => ⟨?_, ?_, ?_⟩, fun hmode => ?_⟩,
    fun s n g o hg ho hopen hops => ⟨?_, ?_, fun hserve hpoison hrefetch hl hd x => ?_⟩,
    fun s line g w x hw hfree hround hx => ?_, fun s line n g w hw hg => ⟨fun o ho => ?_, fun hnone => ?_⟩⟩
  · exact goes_txgBegin ho (if_pos hopen)
  · have hclosed : ¬(txgOf s (dField o.desc 24 1)).isSome = true := by simp [hnone]
    exact goes_txgBegin ho ((if_neg hclosed).trans (if_neg (Nat.not_le.2 hroom)))
  · have hclosed : ¬(txgOf s (dField o.desc 24 1)).isSome = true := by simp [hnone]
    exact goes_txgBegin ho ((if_neg hclosed).trans (if_pos hlimit))
  · have honly := onlyTxg_groupWrite s g a bs
    have ht : (groupWrite s g a bs).state = t := by rcases hw with hw | hw | hw <;> rw [hw] <;> rfl
    rw [ht] at honly
    exact honly.frame
  · have hend := tryTxgEnd_discard hbegun hg hqueue hmode hopen
    exact congrArg Host.Outcome.next (runCommand_done ho hend (finalOwed_false _ _ _ (.inr rfl)))
  · exact (abortOps_keeps (begun s h) g).2
  · exact txgOf_closeGroup _ _
  · exact congrArg Host.Outcome.next (runCommand_go ho (tryTxgEnd_waits hbegun hg hqueue hmode hopen))
  · exact congrArg Host.Outcome.next (txgEnding_applies hg ho hopen hops)
  · rw [← group_of_txgOf hg]
    exact txgOf_closeGroup _ _
  · rw [memGet_applyGroup ⟨hserve, hpoison, hrefetch⟩ g hl hd x]
    cases nmGet? g.lines (x / 128) <;> rfl
  · obtain ⟨y, hy⟩ := lockGrant_effect ⟨hw, hfree, hround, hx⟩
    exact ⟨_, y, rfl, hy⟩
  · refine congrArg Host.Outcome.next ?_
    rw [lockTimeout, hw, hg]
    dsimp only
    rw [ho]
  · have hgone : lockTimeout line.toNat n.val s = settle (serveHeld (conflicted (abortOps s g) n.val)) := by
      rw [lockTimeout, hw, hg]
      dsimp only
      rw [hnone]
      rfl
    exact ⟨_, congrArg Host.Outcome.next hgone, ⟨_, (txgOf_conflicted _ _).trans (congrArg _ ((txgOf_abortOps s g _).trans hg)), rfl, rfl⟩,
      (abortOps_keeps s g).2⟩

end Sys2Proof.Machine
end

section
/-! PROOFS. Every step keeps the canonical form of the byte memories (SPEC.md, section 02). A function of the model that yields a state has one
lemma, `formed_` with the function's name: the state is formed if the one it starts from is. -/

namespace Sys2Proof.Machine

/-! ### Formed states, and what keeps them so -/

/-- Both byte memories of a state are in canonical form. -/
abbrev Formed (s : State) : Prop := Memory.wf s.mem = true

/-- A state that may be there is formed. -/
def FormedOpt : Option State → Prop
  | none => True
  | some t => Formed t

/-- The state that a command leaves, if it leaves one, is formed. -/
def FormedOut : Outcome → Prop
  | .wait => True
  | .again t => Formed t
  | .sensed t => Formed t
  | .go t => Formed t
  | .done t _ => Formed t

/-- What a step leaves is formed. -/
def FormedNext (x : Host.Outcome State Fault Refusal) : Prop := ∀ t, x = .next t → Formed t

/-- What leaves the memory of a formed state as it is leaves it formed. -/
theorem Formed.rest {s : State} {p f r l fe y c st hz u} (h : Formed s) : Formed ⟨p, f, r, l, s.mem, fe, y, c, st, hz, u⟩ := h

/-- And so does what leaves the cells of both memories. -/
theorem Formed.marks {s : State} {p f r l fe y c st hz u w so pr pi pb g co po fl} (h : Formed s) :
    Formed ⟨p, f, r, l, ⟨s.mem.cells, w, s.mem.scells, so, pr, pi, pb, g, co, po, fl⟩, fe, y, c, st, hz, u⟩ := h

theorem Formed.ite {c : Prop} [Decidable c] {s t : State} (hs : Formed s) (ht : Formed t) : Formed (if c then s else t) := by
  split <;> assumption

theorem Formed.iteFst {α : Type} {c : Prop} [Decidable c] {x y : State × α} (hx : Formed x.1) (hy : Formed y.1) :
    Formed (if c then x else y).1 := by
  split <;> assumption

theorem Formed.foldl {α : Type} {f : State → α → State} (hf : ∀ s x, Formed s → Formed (f s x)) {l : List α} {s : State}
    (h : Formed s) : Formed (l.foldl f s) := by
  induction l generalizing s with
  | nil => exact h
  | cons x l ih => exact ih (hf s x h)

theorem Formed.foldlFst {α β : Type} {f : State × β → α → State × β} (hf : ∀ p x, Formed p.1 → Formed (f p x).1)
    {l : List α} {p : State × β} (h : Formed p.1) : Formed (l.foldl f p).1 := by
  induction l generalizing p with
  | nil => exact h
  | cons x l ih => exact ih (hf p x h)

/-- The state that a write of a transaction group leaves, whether it is done, waits or finds no room, is formed. -/
def FormedGw (x : GroupWrite) : Prop := Formed x.state

theorem FormedGw.of {x y : GroupWrite} (h : FormedGw x) (e : x = y) : FormedGw y := e ▸ h
theorem FormedOpt.of {x : Option State} {t : State} (h : FormedOpt x) (e : x = Option.some t) : Formed t := by
  rw [e] at h; exact h
theorem FormedOut.of {x y : Outcome} (h : FormedOut x) (e : x = y) : FormedOut y := e ▸ h

theorem FormedGw.ok {t : State} (h : Formed t) : FormedGw (.ok t) := h
theorem FormedGw.wait {t : State} (h : Formed t) : FormedGw (.wait t) := h
theorem FormedGw.limit {t : State} (h : Formed t) : FormedGw (.limit t) := h

theorem FormedGw.ite {c : Prop} [Decidable c] {x y : GroupWrite} (hx : FormedGw x) (hy : FormedGw y) :
    FormedGw (if c then x else y) := by
  split <;> assumption

theorem FormedGw.foldl {α : Type} {f : GroupWrite → α → GroupWrite} (hf : ∀ x e, FormedGw x → FormedGw (f x e)) {l : List α}
    {x : GroupWrite} (h : FormedGw x) : FormedGw (l.foldl f x) := by
  induction l generalizing x with
  | nil => exact h
  | cons e l ih => exact ih (hf x e h)

theorem FormedOpt.some {t : State} (h : Formed t) : FormedOpt (some t) := h

theorem FormedOut.again {t : State} (h : Formed t) : FormedOut (.again t) := h
theorem FormedOut.sensed {t : State} (h : Formed t) : FormedOut (.sensed t) := h
theorem FormedOut.go {t : State} (h : Formed t) : FormedOut (.go t) := h
theorem FormedOut.done {t : State} {r : Res} (h : Formed t) : FormedOut (.done t r) := h

theorem FormedNext.next {t : State} (h : Formed t) : FormedNext (.next t) := fun _ e => Host.Outcome.next.inj e ▸ h

theorem FormedOpt.ite {c : Prop} [Decidable c] {s t : Option State} (hs : FormedOpt s) (ht : FormedOpt t) :
    FormedOpt (if c then s else t) := by
  split <;> assumption

theorem FormedOut.ite {c : Prop} [Decidable c] {x y : Outcome} (hx : FormedOut x) (hy : FormedOut y) :
    FormedOut (if c then x else y) := by
  split <;> assumption

/-! ### The functions of `Machine/Ops` -/

section
variable {s : State} {g addr t a n k c g0 id x : Nat} {data bs : List Byte} {e : EvtEntry} {code : BitVec 16} {place detail v : DWord}
   {handle : Word} {l : CacheLine} {o : Op} {st : Status} {r : Res}

theorem formed_cplWrite (h : Formed s) : Formed (cplWrite s g addr data) := by
  unfold cplWrite
  split
  · exact .ite (.rest h) (.rest h)
  · exact .rest h

theorem formed_writeEvent (h : Formed s) : Formed (writeEvent s t e) :=
  formed_cplWrite (.rest h)

theorem formed_setAlert (h : Formed s) : Formed (setAlert s code) := by
  unfold setAlert
  split
  · exact .rest h
  · exact h

theorem formed_raiseEvent (h : Formed s) : Formed (raiseEvent s t code place detail handle) :=
  .ite (formed_writeEvent (formed_setAlert h)) (formed_setAlert h)

theorem formed_raiseEventFree (h : Formed s) : Formed (raiseEventFree s t code place handle) :=
  formed_raiseEvent (.rest h)

theorem formed_raiseEventOpen (h : Formed s) : Formed (raiseEventOpen s t code handle) :=
  formed_raiseEventFree (.rest h)

theorem formed_raiseAll (h : Formed s) : Formed (raiseAll s code place detail) :=
  .foldl (fun _ _ h => formed_raiseEvent h) h

theorem formed_raiseAllOpen (h : Formed s) : Formed (raiseAllOpen s code) :=
  .foldl (fun _ _ h => formed_raiseEventOpen h) h

theorem formed_writeBackSector (h : Formed s) : Formed (writeBackSector l s k) := by
  refine .ite ?_ h
  unfold Formed at h ⊢
  rw [Memory.wf_iff] at h ⊢
  exact ⟨memWrite_wf _ _ _ h.1, h.2⟩

theorem formed_writeBack (h : Formed s) : Formed (writeBack s l) :=
  .ite (.foldl (fun _ _ h => formed_writeBackSector h) h) h

theorem formed_catchUp (h : Formed s) : Formed (catchUp s c) :=
  .ite (.rest h) h

theorem formed_releaseHold (h : Formed s) : Formed (releaseHold s a n) :=
  .ite h (.foldl (fun _ _ h => formed_catchUp h) (.rest h))

theorem formed_dWrite (h : Formed s) : Formed (dWrite s a bs) := dWrite_wf s a bs h

theorem formed_freshen (h : Formed s) : Formed (freshen s g0 n) := freshen_wf s g0 n h

theorem formed_sWrite (h : Formed s) : Formed (sWrite s a bs) := sWrite_wf s a bs h

theorem formed_countUninit {t : BitVec 4} (h : Formed s) : Formed (countUninit s t n) :=
  .ite h (.rest h)

theorem formed_promote (h : Formed s) : Formed (promote s) := (onlyOps_promote _).wf h

theorem formed_syncSet (h : Formed s) : Formed (syncSet s id v) := (onlyOps_syncSet _ _ _).wf h

theorem formed_syncAdd (h : Formed s) : Formed (syncAdd s id v) := (onlyOps_syncAdd _ _ _).wf h

theorem formed_addTotals {t : BitVec 4} {c : Counts} (h : Formed s) : Formed (addTotals s t c) :=
  .ite h (.rest h)

theorem formed_stallCheck (h : Formed s) : Formed (stallCheck s o) :=
  .ite (formed_raiseEventFree (.rest h)) h

theorem formed_finishOp (h : Formed s) : Formed (finishOp s o r) := (onlyOps_finishOp _ _ _).wf h

theorem formed_settle (h : Formed s) : Formed (settle s) := (onlyOps_settle _).wf h

theorem formed_complete (h : Formed s) : Formed (complete s o r) := (onlyOps_complete _ _ _).wf h

end

/-! ### The functions of `Machine/Hazel` -/

section
variable {s : State} {port x vc n a c : Nat} {f : Frame} {from_ : Option Nat} {o : Op} {dst : BitVec 13} {l : List (Nat × List Byte)}
   {st : Status} {data : List Byte} {r : Res} {handle : Word}

theorem formed_drainGo {n : Nat} (h : Formed s) : Formed (drainGo port n s) := by
  unfold Formed; rw [(portsOnly_drainGo port n s).mem]; exact h

theorem formed_drain (h : Formed s) : Formed (drain s port) :=
  formed_drainGo h

theorem formed_sendOn (h : Formed s) : Formed (sendOn s port f) :=
  formed_drain (.rest h)

theorem formed_creditReturn (h : Formed s) : Formed (creditReturn s port vc n) :=
  .ite h (formed_drain (.rest h))

theorem formed_creditBack (h : Formed s) : Formed (creditBack s port f) :=
  .ite h (formed_sendOn h)

theorem formed_sendRouted (h : Formed s) : Formed (sendRouted s f from_) := by
  unfold sendRouted
  split
  · exact formed_sendOn h
  · exact h

theorem formed_sendPieces (h : Formed s) : Formed (sendPieces s o dst l st).1 :=
  .foldl (fun _ _ h => formed_sendRouted h) (.rest (.rest h))

theorem formed_sendData (h : Formed s) : Formed (sendData s o dst a data st).1 :=
  formed_sendPieces h

theorem formed_sendStatus (h : Formed s) : Formed (sendStatus s f st) :=
  formed_sendRouted h

theorem formed_sendFinal (h : Formed s) : Formed (sendFinal s o) := by
  unfold sendFinal
  split
  · exact formed_sendRouted (.rest (.rest h))
  · exact h

theorem formed_endAway (h : Formed s) : Formed (endAway s o r) :=
  .ite (formed_settle (formed_sendFinal (.rest h))) (formed_complete h)

theorem formed_runCommand {c : Nat} {f : State → Op → Outcome} (hf : ∀ s o, Formed s → FormedOut (f s o)) (h : Formed s) :
    Formed (runCommand c f handle s) := by
  rcases runCommand_cases c f handle s with e | ⟨o, _, _, e⟩ | ⟨o, s', r, _, _, hs, e⟩ | ⟨o, s', _, _, hs, e⟩ | ⟨o, s', _, _, _, e⟩ |
    ⟨o, s', _, _, hs, e⟩ <;> rw [e]
  · exact h
  · exact formed_endAway h
  · exact formed_endAway (FormedOut.of (hf _ _ (.rest h)) hs)
  · exact formed_settle (FormedOut.of (hf _ _ (.rest h)) hs)
  · exact formed_settle (.rest h)
  · exact Formed.rest (FormedOut.of (hf _ _ (.rest h)) hs : Formed s')

end

/-! ### The functions of `Machine/Queues` -/

section
variable {s : State} {q t : Nat} {v handle : Word} {r : HostReq} {code : BitVec 16} {x o : Op}

theorem formed_badDoorbell (h : Formed s) : Formed (badDoorbell s q) :=
  formed_raiseEventFree (.rest h)

theorem formed_doorbell {t : BitVec 4} (h : Formed s) : Formed (doorbell s q t v).1 :=
  .iteFst (formed_badDoorbell h) (.iteFst h (.iteFst (.rest h) (formed_badDoorbell h)))

theorem formed_pushAccept (h : Formed s) : Formed (pushAccept s r) := by
  unfold pushAccept
  split
  · exact .rest (.rest h)
  · exact .ite (.rest h) (.ite (.rest (.rest h)) (.rest h))

theorem formed_admitPush (h : Formed s) : Formed (admitPush s) :=
  .foldl (fun _ _ h => formed_pushAccept h) (.rest h)

theorem formed_writeRecord (h : Formed s) : Formed (writeRecord handle s) := by
  unfold writeRecord
  split
  · exact h
  · exact .ite (.ite (.rest (.rest (formed_cplWrite h))) (formed_stallCheck h)) h

theorem formed_setCqHead (h : Formed s) : Formed (setCqHead s q v) :=
  .ite (.rest (.rest h)) (.rest h)

theorem formed_writePending (h : Formed s) : Formed (writePending t code s) := by
  unfold writePending
  split
  · exact h
  · exact .ite (formed_writeEvent (.rest h)) h

theorem formed_setEvtHead (h : Formed s) : Formed (setEvtHead s t v) :=
  .ite (.rest h) h

theorem formed_tryNop (h : Formed s) : FormedOut (tryNop s x) :=
  .done h

theorem formed_tryWait (h : Formed s) : FormedOut (tryWait s o) :=
  .ite (.go (.rest h)) (.go h)

theorem formed_waitTimeout (h : Formed s) : Formed (waitTimeout handle s) := by
  unfold waitTimeout
  split
  · exact h
  · exact .ite (.ite (formed_settle (.rest h)) (formed_complete h)) h

theorem formed_tryFence (h : Formed s) : FormedOut (tryFence s x) :=
  .go h

end

/-! ### The functions of `Machine/Fabric` -/

section
variable {s : State} {f : Frame} {port : Nat}

theorem formed_landFinal (h : Formed s) : Formed (landFinal s f) :=
  .rest (formed_syncAdd (formed_dWrite h))

theorem formed_countLanded (h : Formed s) : Formed (countLanded s port f) := by
  unfold countLanded
  refine .ite h ?_
  dsimp only
  split
  · exact .ite (.ite (.rest h) (.ite (.rest (.rest h)) (formed_landFinal h))) (.rest h)
  · exact .rest h

theorem formed_finalArrives (h : Formed s) : Formed (finalArrives s port f) :=
  .ite (formed_landFinal h) (.rest h)

theorem formed_finalDiscarded (h : Formed s) : Formed (finalDiscarded s port f) :=
  .ite (.rest h) (.rest h)

end

/-! ### The functions of `Machine/Shards` -/

section
variable {s : State} {c : ShardCfg} {k stepNo T x slot t e n : Nat} {tiles : List DWord} {logged : Bool}

theorem formed_writeDigests (h : Formed s) : Formed (writeDigests s c k tiles stepNo T) :=
  formed_dWrite (formed_dWrite h)

theorem formed_foldUp {c : ShardCfg} {f l j : Nat} (h : Formed s) : Formed (foldUp c k f l j s) := by
  induction f generalizing l j s with
  | zero => exact h
  | succ f ih => exact .ite h (ih (formed_dWrite h))

theorem formed_recomputeTile (h : Formed s) : Formed (recomputeTile s c slot k t) :=
  formed_foldUp (formed_dWrite h)

theorem formed_undoRestore (h : Formed s) : Formed (undoRestore c s e) :=
  formed_dWrite (formed_dWrite (formed_dWrite h))

theorem formed_undoRestoreAll (h : Formed s) : Formed (undoRestoreAll s c logged) :=
  .foldl (fun _ _ h => formed_undoRestore h) h

theorem formed_undoFreeAll (h : Formed s) : Formed (undoFreeAll s c) :=
  .foldl (fun _ _ h => .ite h (formed_dWrite h)) h

theorem formed_shardClean (h : Formed s) : Formed (shardClean s n) := by
  unfold shardClean
  split
  · exact h
  · exact .rest (.ite (formed_undoRestoreAll h) h)

theorem formed_abortShard (h : Formed s) : Formed (abortShard s n) :=
  .ite (.rest h) (formed_shardClean h)

theorem formed_holdInRun (h : Formed s) : Formed (holdInRun s n) := by
  unfold holdInRun
  split
  · exact h
  · exact .rest (.rest h)

theorem formed_haltShard (h : Formed s) : Formed (haltShard s n) :=
  .rest (.rest (.ite (.rest (formed_abortShard h)) (formed_holdInRun (.rest (formed_abortShard h)))))

end

/-! ### The functions of `Machine/Integrity` -/

section
variable {s : State} {dst : BitVec 13} {tenant : BitVec 4} {stream : Word} {payload bs data : List Byte}
   {g a shard tile n k kind site ch id b : Nat} {shared : Bool} {src : Option Nat} {t : Option (BitVec 4)} {c : ShardCfg} {r : Region}
   {l : List (Nat × Nat)}

theorem formed_sendServe (h : Formed s) : Formed (sendServe s dst tenant stream payload) :=
  formed_sendRouted h

theorem formed_startRefetch (h : Formed s) : Formed (startRefetch s g shared src tenant) := by
  unfold startRefetch
  refine .ite h ?_
  dsimp only
  split
  · exact formed_sendServe (.rest (.rest h))
  · exact .rest h

theorem formed_raiseUe (h : Formed s) : Formed (raiseUe s t a) := by
  unfold raiseUe
  split
  · exact formed_raiseEventFree h
  · exact h

theorem formed_dueRepair (h : Formed s) : Formed (dueRepair s shard tile) :=
  .ite h (.rest h)

theorem formed_recomputeSlot (h : Formed s) : Formed (recomputeSlot s n c k) :=
  formed_writeDigests h

theorem formed_actOnPoison (h : Formed s) : Formed (actOnPoison s a r) := by
  unfold actOnPoison
  dsimp only
  split
  · split
    · exact formed_startRefetch (formed_raiseAll h)
    · exact h
  · split
    · exact formed_startRefetch h
    · exact h
  · split
    · exact .ite (formed_dueRepair h) (formed_raiseUe (formed_haltShard h))
    · exact h
  · exact formed_raiseUe h
  · exact formed_raiseUe h
  · exact h
  · exact h
  · split
    · exact formed_recomputeSlot h
    · exact h

theorem formed_forgetUnlisted (h : Formed s) : Formed (forgetUnlisted s a n) :=
  .ite h (.marks (.rest h))

theorem formed_setArray (h : Formed s) : Formed (setArray s a bs) := by
  unfold Formed at h ⊢
  rw [Memory.wf_iff] at h ⊢
  exact ⟨memWrite_wf _ _ _ h.1, h.2⟩

theorem formed_markArray (h : Formed s) : Formed (markArray s g) :=
  .ite h (.marks (formed_setArray h))

theorem formed_poisonGranule (h : Formed s) : Formed (poisonGranule kind s a) := by
  unfold poisonGranule
  refine .ite h ?_
  dsimp only
  split
  · exact formed_actOnPoison (.marks (formed_markArray (.rest (.rest (.rest h)))))
  · exact .ite (formed_actOnPoison (.marks (.rest (.rest (.rest h))))) (formed_actOnPoison (.marks (.rest (.rest (.rest (.rest h))))))

theorem formed_detectUe (h : Formed s) : Formed (detectUe s a) :=
  formed_poisonGranule h

theorem formed_countCorrected (h : Formed s) : Formed (countCorrected s site n) :=
  .ite (formed_raiseAll (.rest (.rest (.ite (.rest (.rest (.rest h))) (.rest h))))) (.ite (.rest (.rest (.rest h))) (.rest h))

theorem formed_countSector (h : Formed s) : Formed (countSector s ch) :=
  formed_countCorrected (.rest h)

theorem formed_readStored (h : Formed s) : Formed (readStored s a) := by
  unfold readStored
  split
  · exact h
  · refine .ite h ?_
    dsimp only
    split
    · exact .ite (.marks h) (formed_setArray (.marks h))
    · exact .ite (formed_countSector (.marks h)) (formed_setArray (formed_countSector (.marks h)))
    · exact formed_detectUe h
    · exact formed_detectUe h

theorem formed_readIdle (h : Formed s) : Formed (readIdle data ch s id) := by
  unfold readIdle
  split
  · exact h
  · split
    · exact .marks h
    · exact formed_countSector (.marks h)
    · exact .rest h
    · exact h

theorem formed_activateSector (h : Formed s) : Formed (activateSector a s k) := by
  unfold activateSector
  dsimp only
  split
  · exact h
  · split
    · exact .ite (.marks h) (.marks (.marks h))
    · exact .ite (formed_countSector (.marks h)) (.marks (formed_countSector (.marks h)))
    · exact .marks h
    · exact .marks h

theorem formed_activateRow (h : Formed s) : Formed (activateRow s a) :=
  .ite h (.foldl (fun _ _ h => formed_activateSector h) h)

theorem formed_readBurst (h : Formed s) : Formed (readBurst s a) := by
  unfold readBurst
  split
  · exact h
  · extract_lets _ _ _ _ counted corrected
    have hcorrected : Formed corrected := .ite (.rest (.rest h)) (formed_countCorrected (.rest (.rest h)))
    exact .ite (.ite hcorrected (formed_detectUe (.rest hcorrected))) hcorrected

theorem formed_readPlace (h : Formed s) : Formed (readPlace s b) :=
  .ite h (formed_readBurst (formed_readStored h))

theorem formed_detectRead (h : Formed s) : Formed (detectRead s a n) :=
  .ite (.foldl (fun _ _ h => formed_detectUe h) (formed_forgetUnlisted h))
    (.foldl (fun _ _ h => formed_readPlace h) (.foldl (fun _ _ h => formed_detectUe h) (formed_forgetUnlisted h)))

theorem formed_mergeRead (h : Formed s) : Formed (mergeRead s a n) :=
  .ite (formed_forgetUnlisted h) (.foldl (fun _ _ h => formed_readPlace h) (formed_forgetUnlisted h))

theorem formed_reach (h : Formed s) : Formed (reach s l) :=
  .foldl (fun _ _ h => formed_detectRead (formed_releaseHold h)) h

theorem formed_reachFree (h : Formed s) : Formed (reachFree s l) :=
  formed_reach h

end

/-! ### The functions of `Machine/Access` -/

section
variable {s : State} {die line off hint a a0 n : Nat} {visitor small : Bool} {p : CacheLine → Bool} {l : CacheLine} {t : BitVec 4}
   {at_ : Nat → Nat} {acc : State × List Byte × Nat} {bs : List Byte} {o : Op}

theorem formed_evictLine (h : Formed s) : Formed (evictLine s die line visitor) := by
  unfold evictLine
  refine .rest ?_
  split
  · exact formed_writeBack h
  · exact h

theorem formed_flushLines (h : Formed s) : Formed (flushLines s p) :=
  .rest (.foldl (fun _ _ h => formed_writeBack h) h)

theorem formed_putLine (h : Formed s) : Formed (putLine s l) := by
  unfold putLine
  refine .ite h ?_
  refine .rest ?_
  refine .ite (.rest h) ?_
  split
  · exact formed_evictLine h
  · exact h

theorem formed_hcCount (h : Formed s) : Formed (hcCount s die off) :=
  .ite (.rest h) h

theorem formed_keepsLine (h : Formed s) : Formed (keepsLine s die line hint).1 :=
  .iteFst (.iteFst h (formed_hcCount h)) h

theorem formed_homeReadSector (h : Formed s) : Formed (homeReadSector hint small s a) :=
  .ite h (.ite
    (.ite (formed_evictLine (formed_hcCount h)) (formed_putLine (formed_keepsLine (formed_hcCount h))))
    (.ite (formed_hcCount h) (.ite (formed_putLine (formed_keepsLine (formed_hcCount h)))
      (.ite (formed_keepsLine (formed_hcCount h)) (formed_putLine (formed_keepsLine (formed_hcCount h)))))))

theorem formed_homeWriteSector (h : Formed s) : Formed (homeWriteSector hint small s a) :=
  .ite h (.ite h (formed_putLine (formed_keepsLine h)))

theorem formed_keepVisitor (h : Formed s) : Formed (keepVisitor s die t a) := by
  unfold keepVisitor
  refine .ite h ?_
  dsimp only
  split <;> exact formed_putLine h

theorem formed_readSector {acc : State × List Byte × Nat} (h : Formed acc.1) : Formed (readSector die t hint a0 n at_ acc a).1 := by
  obtain ⟨s, out, m⟩ := acc
  have hr : Formed (releaseHold s (at_ a) 64) := formed_releaseHold h
  unfold readSector
  dsimp only
  split
  · dsimp only
    split
    · exact formed_putLine (formed_hcCount hr)
    · exact hr
  · exact .ite (formed_keepVisitor (formed_homeReadSector hr)) (formed_homeReadSector hr)

theorem formed_readBy (h : Formed s) : Formed (readBy s die t hint a n at_).1 :=
  .iteFst h (.foldlFst (fun _ _ hacc => formed_readSector hacc) (.rest h))

theorem formed_readThrough (h : Formed s) : Formed (readThrough s die t hint a n).1 :=
  formed_readBy h

theorem formed_writeThrough (h : Formed s) : Formed (writeThrough s hint a bs) :=
  formed_dWrite (.foldl (fun _ _ h => formed_homeWriteSector h) h)

theorem formed_opRead (h : Formed s) : Formed (opRead s o a n).1 := by
  have hr := formed_readThrough (die := queueDie (detectRead s a n).cfg.live o.queue) (t := o.tenant) (hint := dHint o.desc) (a := a)
    (n := n) (formed_detectRead (a := a) (n := n) h)
  unfold opRead
  dsimp only
  split <;> exact hr

theorem formed_opWrite (h : Formed s) : Formed (opWrite s o a bs) :=
  formed_writeThrough h

end

/-! ### The functions of `Machine/HostPort` -/

section
variable {s : State} {r : HostReq} {n loc type a q : Nat} {owner : BitVec 4} {handle : HeldReq} {gone : List Refetch} {id : BitVec 16}
   {off : BitVec 20} {m : Fin 64}

theorem formed_takeAhead (h : Formed s) : Formed (takeAhead s r n) :=
  .ite (.marks (.rest h)) (.rest h)

theorem formed_readHome (h : Formed s) : Formed (readHome s r n loc).1 :=
  formed_countUninit (formed_readBy h)

theorem formed_serveRead {type : Nat} (h : Formed s) : Formed (serveRead s type r n loc) := by
  have hd : Formed (detectRead s loc n) := formed_detectRead h
  unfold serveRead
  refine .ite (.rest hd) ?_
  dsimp only
  split
  · exact .rest (.rest hd)
  · exact .rest (.ite (formed_takeAhead (formed_readHome (.rest hd))) (formed_readHome (.rest hd)))

theorem formed_hostRead (h : Formed s) : Formed (hostRead s type r n) := by
  unfold hostRead
  split
  · exact .rest h
  · exact formed_serveRead h

theorem formed_ownedWrite (h : Formed s) : Formed (ownedWrite s r owner) :=
  .rest (formed_raiseEventFree (.rest h))

theorem formed_dropOwnCopies (h : Formed s) : Formed (dropOwnCopies s r n) :=
  .marks (.foldl (fun _ _ h => .rest h) h)

theorem formed_serveWrite (h : Formed s) : Formed (serveWrite s type r n) :=
  .ite (.rest h) (.ite (.rest h) (.rest (formed_writeThrough (formed_dropOwnCopies h))))

theorem formed_serveOne (h : Formed s) : Formed (serveOne s handle) := by
  unfold serveOne
  split
  · exact .ite (formed_serveRead h) (.ite (formed_serveRead h) (.ite (formed_serveWrite h) (formed_serveWrite h)))
  · exact .ite (.rest h) h

theorem formed_serveAll (h : Formed s) : Formed (serveAll s) :=
  .foldl (fun _ _ h => formed_serveOne h) (.rest h)

theorem formed_reportRefetch {r : Refetch} (h : Formed s) : Formed (reportRefetch s r) := by
  unfold reportRefetch
  split
  · exact formed_raiseEventFree (.rest (.rest h))
  · exact .rest (.rest h)

theorem formed_endRefetches (h : Formed s) : Formed (endRefetches s gone) :=
  .foldl (fun _ _ h => formed_reportRefetch h) (.rest h)

theorem formed_serveHeld (h : Formed s) : Formed (serveHeld s) :=
  .ite (formed_serveAll h) (formed_serveAll (formed_endRefetches (formed_serveAll h)))

theorem formed_refetchLanded (h : Formed s) : Formed (refetchLanded s a n) :=
  .ite h (formed_serveHeld (formed_endRefetches h))

theorem formed_hostWrite (h : Formed s) : Formed (hostWrite s type r n) := by
  unfold hostWrite
  refine .ite (.rest h) ?_
  refine .ite (.rest h) ?_
  split
  · exact formed_ownedWrite h
  · exact .ite (.rest h) (.ite (.rest h) (formed_refetchLanded (formed_serveWrite h)))

theorem formed_pushWrite (h : Formed s) : Formed (pushWrite s r) :=
  .ite (.rest h) (.ite (.rest h) (.ite (.rest h) (.ite (.rest h) (formed_pushAccept h))))

theorem formed_pushOrphan (h : Formed s) : Formed (pushOrphan q id off s) := by
  unfold pushOrphan
  split
  · exact h
  · exact formed_admitPush (formed_raiseEventFree (.rest h))

theorem formed_noteBell (h : Formed s) : Formed (noteBell s q m) :=
  .ite h (.rest h)

theorem formed_dbRequest (h : Formed s) : Formed (dbRequest s r) := by
  unfold dbRequest
  refine .ite (.rest h) ?_
  refine .ite (.rest h) ?_
  split
  · exact .rest h
  · exact .rest (.ite (formed_noteBell (formed_doorbell h)) (formed_doorbell h))

theorem formed_fetchDescriptor (h : Formed s) : Formed (fetchDescriptor q s) :=
  .ite (formed_settle (formed_admitPush (.rest (.rest (.ite (formed_reach h) h))))) (.ite (formed_reach h) h)

end

/-! ### The functions of `Machine/Digests` -/

section
variable {s : State} {a len : Nat}

theorem formed_recomputeTouched (h : Formed s) : Formed (recomputeTouched s a len) :=
  .foldl (fun _ _ h => .foldl (fun _ _ h => formed_recomputeTile h) h) h

end

/-! ### The functions of `Machine/DataMove` -/

section
variable {s : State} {g line c space addr n off a width times tile : Nat} {l : State → Op → List (Nat × Nat)} {f : State → Op → Outcome}
   {o : Op} {handle : Word} {bs : List Byte} {r : Res} {k : Outcome} {x : Operand} {st : Status}

theorem formed_groupWrite {g a : Nat} {bs : List Byte} (h : Formed s) : FormedGw (groupWrite s g a bs) := by
  unfold FormedGw Formed
  rw [(onlyTxg_groupWrite s g a bs).frame.1]
  exact h

theorem formed_sensing {l : State → Op → List (Nat × Nat)} {f : State → Op → Outcome} (hf : ∀ s o, Formed s → FormedOut (f s o))
    (h : Formed s) : FormedOut (sensing l f s o) := by
  unfold sensing
  split
  · exact .sensed (formed_reachFree h)
  · exact .sensed (formed_reachFree (.rest h))
  · exact hf s o h

theorem formed_runData {f : State → Op → Outcome} (hf : ∀ t o, Formed t → FormedOut (f t o)) (h : Formed s) :
    Formed (runData c f handle s) := by
  have hrun : ∀ t, Formed t → Formed (runCommand c (sensing dataReads f) handle t) :=
    fun _ h => formed_runCommand (fun _ _ h => formed_sensing hf h) h
  unfold runData
  split
  · exact h
  · exact .ite (.ite (.ite (formed_settle (formed_serveHeld (hrun _ (.rest h)))) (hrun _ h)) (.ite h (.rest h)))
      (formed_runCommand hf h)

theorem formed_readOperand {space addr n : Nat} {x : Operand} (h : Formed s) (hx : readOperand s o space addr n = some x) :
    Formed x.s := by
  unfold readOperand at hx
  split at hx
  · obtain rfl := Option.some.inj hx
    exact h
  · dsimp only at hx
    split at hx
    · contradiction
    · obtain rfl := Option.some.inj hx
      exact formed_countUninit (formed_opRead (.foldl (fun _ _ h => formed_detectRead h) h))

theorem formed_writeResult {space addr : Nat} {bs : List Byte} {r : Res} (h : Formed s) :
    FormedOut (writeResult s o space addr bs r) := by
  unfold writeResult
  refine .ite (.done (formed_sWrite h)) ?_
  split
  · exact .ite (.done (formed_sendData h)) (.go (.rest (formed_sendData h)))
  · exact .done h
  · refine .ite (.done h) (.ite (.done h) ?_)
    split
    · split
      · next e => exact .again (FormedGw.of (formed_groupWrite h) e)
      · next e => exact .done (FormedGw.of (formed_groupWrite h) e)
      · next e => exact .done (FormedGw.of (formed_groupWrite h) e)
    · exact .ite trivial (.done (formed_refetchLanded (formed_recomputeTouched (formed_opWrite (formed_mergeRead h)))))

theorem formed_joinGroup (h : Formed s) (hk : FormedOut k) : FormedOut (joinGroup s o k) :=
  .ite trivial (.ite (.done h) hk)

theorem formed_withGroup (h : Formed s) (hk : FormedOut k) : FormedOut (withGroup s o space addr k) :=
  formed_joinGroup h (.ite (.done h) hk)

theorem formed_groupPut {a : Nat} {bs : List Byte} (h : Formed s) : FormedGw (groupPut s o a bs) := by
  unfold groupPut
  split
  · exact formed_groupWrite h
  · exact .ite (.wait h) (.ok (formed_refetchLanded (formed_opWrite h)))

theorem formed_groupPuts {l : List (Nat × List Byte)} (h : Formed s) : FormedGw (groupPuts s o l) := by
  induction l generalizing s with
  | nil => exact h
  | cons x l ih =>
    unfold groupPuts
    split
    · next e => exact ih (FormedGw.of (formed_groupPut h) e)
    · exact formed_groupPut h

theorem formed_askServe (h : Formed s) : FormedOut (askServe s o) := by
  unfold askServe
  split
  · exact .go (formed_sendServe (.rest (.rest h)))
  · trivial

theorem formed_copyResult (h : Formed s) : FormedOut (copyResult s o x) :=
  formed_writeResult h

theorem formed_tryCopy (h : Formed s) : FormedOut (tryCopy s o) := by
  refine formed_withGroup h (.ite (formed_writeResult h) (.ite (formed_askServe h) ?_))
  split
  · trivial
  · next hx => exact formed_copyResult (formed_readOperand h hx)

theorem formed_sendOnward {n : Counts} (h : Formed s) : Formed (sendOnward s o bs n) := by
  unfold sendOnward
  have hw := fun (r : Res) => formed_writeResult (o := o) (space := dDstSpace o.desc) (addr := dDst o.desc) (bs := bs) (r := r)
    (Formed.rest h : Formed (updOp s o.handle fun x => { x with pieces := [] }))
  split
  · exact h
  · exact formed_settle (.rest h)
  · exact h
  · next e => exact formed_settle (FormedOut.of (hw _) e)
  · next e => exact formed_endAway (FormedOut.of (hw _) e)

theorem formed_landPiece (h : Formed s) : FormedOpt (landPiece s o off bs) := by
  unfold landPiece
  extract_lets _ _ _ _ _ landed
  have hlanded : Formed landed := formed_refetchLanded (formed_recomputeTouched (formed_opWrite (formed_mergeRead h)))
  exact .ite (.some (formed_sWrite h)) (.ite (.some h) (.ite (.some (.rest h)) (.ite trivial (.some (.ite (.rest hlanded) hlanded)))))

theorem formed_convertResult (h : Formed s) : FormedOut (convertResult s o x) :=
  formed_writeResult h

theorem formed_tryConvert (h : Formed s) : FormedOut (tryConvert s o) := by
  refine formed_withGroup h (.ite (formed_writeResult h) (.ite (formed_askServe h) ?_))
  split
  · trivial
  · next hx => exact formed_convertResult (formed_readOperand h hx)

theorem formed_layBanks {a width : Nat} {bs : List (Nat × Nat × Nat)} {es : List (List Nat)} (h : Formed s) :
    Formed (layBanks a width bs es s) := by
  induction bs generalizing es s with
  | nil => exact h
  | cons b bs ih =>
    cases es with
    | nil => exact h
    | cons e es => exact ih (.foldl (fun _ _ h => .marks h) h)

theorem formed_tryTransposeIn (h : Formed s) : FormedOut (tryTransposeIn s o) := by
  refine formed_withGroup h (.ite (.done h) (.ite trivial ?_))
  split
  · trivial
  · next hx => exact .done (formed_layBanks (formed_readOperand h hx))

theorem formed_tryTransposeOut (h : Formed s) : FormedOut (tryTransposeOut s o) :=
  formed_withGroup h (.ite (formed_writeResult h) (.ite trivial
    (formed_writeResult (.rest (.foldl (fun _ _ h => formed_activateRow h) h)))))

theorem formed_refreshRound (h : Formed s) : Formed (refreshRound s c) :=
  .ite (.rest (.rest h)) h

theorem formed_boundaryRefs (h : Formed s) : Formed (boundaryRefs s c times) :=
  .ite h (.foldl (fun _ _ h => formed_refreshRound h) (.rest h))

theorem formed_cloneAtoms {x : Nat × Nat} (h : Formed s) : Formed (cloneAtoms s x) :=
  .ite h (.ite (formed_catchUp (.rest (.rest (.rest (formed_boundaryRefs h))))) (.rest (formed_boundaryRefs h)))

theorem formed_countClones {l : List (Nat × Nat)} (h : Formed s) : Formed (countClones s l) :=
  .foldl (fun _ _ h => formed_cloneAtoms h) h

theorem formed_signalPlan (h : Formed s) : Formed (signalPlan s o) := by
  unfold signalPlan
  split
  · exact formed_syncAdd h
  · exact h

theorem formed_stopOp (h : Formed s) : Formed (stopOp s o st) :=
  formed_finishOp (formed_signalPlan (.rest h))

theorem formed_endAccum (h : Formed s) : Formed (endAccum s handle st) := by
  unfold endAccum
  split
  · exact .ite (formed_stopOp h) h
  · exact h

theorem formed_zeroTile (h : Formed s) : Formed (zeroTile s tile) :=
  .rest (.foldl (fun _ _ h => formed_endAccum h) h)

theorem formed_zeroCovered (h : Formed s) : Formed (zeroCovered s a n) :=
  .foldl (fun _ _ h => formed_zeroTile h) h

theorem formed_zeroOfGroup {a n : Nat} {x : Outcome} (h : FormedOut x) : FormedOut (zeroOfGroup a n x) := by
  cases x with
  | done t r => exact .ite (.done (formed_zeroCovered h)) (.done h)
  | wait => trivial
  | again t => exact h
  | sensed t => exact h
  | go t => exact h

theorem formed_dropRange (h : Formed s) : Formed (dropRange s a n) :=
  .rest (.rest (.foldl (fun _ _ h => .foldl (fun _ _ h => formed_writeBackSector h) h) h))

theorem formed_zeroRange (h : Formed s) : FormedOut (zeroRange s a n) :=
  .ite (.done h) (.ite trivial (.done
    (formed_refetchLanded (formed_recomputeTouched (formed_zeroCovered (formed_dWrite (formed_countClones (formed_dropRange h))))))))

theorem formed_tryZero (h : Formed s) : FormedOut (tryZero s o) := by
  unfold tryZero
  refine formed_withGroup h ?_
  refine .ite (formed_writeResult h) ?_
  refine .ite (.ite trivial (.done (.foldl (fun _ _ h => .marks h) (formed_cloneAtoms h)))) ?_
  split
  · exact .ite (formed_zeroOfGroup (formed_writeResult h)) (formed_zeroRange h)
  · exact formed_writeResult h

theorem formed_trySignal (h : Formed s) : FormedOut (trySignal s o) :=
  .ite (.go (.rest (formed_sendRouted (.rest (.rest (.iteFst h (.rest h)))))))
    (.ite (.done (formed_syncSet h)) (.done (formed_syncAdd h)))

end

/-! ### The functions of `Machine/Random` -/

section
variable {s : State} {o : Op}

theorem formed_tryRngFill (h : Formed s) : FormedOut (tryRngFill s o) :=
  formed_withGroup h (.ite (formed_writeResult h) (formed_writeResult h))

theorem formed_tryDraw (h : Formed s) : FormedOut (tryDraw s o) := by
  refine formed_joinGroup h (.ite (.done h) ?_)
  split
  · trivial
  · next hx => exact .done (formed_readOperand h hx)

end

/-! ### The functions of `Machine/Tiles` -/

section
variable {s : State} {ph : CPhase} {plus : Bool} {tile vc a n ticket x : Nat} {f : Frame} {u : PlanUse}

theorem formed_sendPhase (h : Formed s) : Formed (sendPhase s ph plus tile vc f) := by
  unfold sendPhase
  refine .ite h ?_
  refine .ite (formed_sendRouted h) ?_
  dsimp only
  split
  · exact formed_sendOn h
  · exact h

theorem formed_readChunks (h : Formed s) : Formed (readChunks s a n) :=
  formed_reach h

theorem formed_readTile (h : Formed s) : Formed (readTile s tile) :=
  formed_readChunks h

theorem formed_sendTile {x : CPhase × Role} (h : Formed s) : Formed (sendTile s u tile ticket x) :=
  .foldl (fun _ _ h => formed_sendPhase h) (formed_readTile h)

theorem formed_advanceGo {u : PlanUse} {tile i t : Nat} {xs : List (CPhase × Role)} (h : Formed s) :
    Formed (advanceGo u tile xs i t s) := by
  induction xs generalizing i t s with
  | nil => exact h
  | cons x xs ih => exact .ite (ih h) (.ite h (ih (.rest (.ite (formed_sendTile h) h))))

theorem formed_formTriple (h : Formed s) : Formed (formTriple s tile) := by
  unfold formTriple
  split
  · exact h
  · refine .ite h ?_
    refine .rest ?_
    split
    · exact .rest (formed_readTile h)
    · exact formed_readTile h

theorem formed_finishRegion (h : Formed s) : Formed (finishRegion s u) := by
  unfold finishRegion
  split
  · exact formed_syncAdd h
  · dsimp only
    split
    · exact formed_finishOp (.rest (formed_syncAdd h))
    · exact .rest (formed_syncAdd h)

theorem formed_advanceOne {x : Nat × Nat} (h : Formed s) : Formed (advanceOne u s x) :=
  .ite (.ite (formed_formTriple (formed_advanceGo h)) (formed_advanceGo h)) h

theorem formed_advanceTile (h : Formed s) : Formed (advanceTile s tile) := by
  unfold advanceTile
  refine .ite h ?_
  split
  · exact .ite (formed_formTriple h) h
  · exact .ite (formed_finishRegion (.foldl (fun _ _ h => formed_advanceOne h) h)) (.foldl (fun _ _ h => formed_advanceOne h) h)

end

/-! ### The functions of `Machine/Accum` -/

section
variable {s : State} {tile f fmt : Nat} {c : Contribution} {o : Op} {fin sat : Bool} {parts : List (Nat × List (Nat × Nat))}
  {k : Counts}
   {l : List Contribution}

theorem formed_accumOperand {x : Operand} (h : Formed s) (hx : accumOperand s o = some x) : Formed x.s := by
  unfold accumOperand at hx
  dsimp only at hx
  split at hx
  · split at hx
    · obtain rfl := Option.some.inj hx
      exact h
    · contradiction
  · exact formed_readOperand h hx

theorem formed_finalTaken (h : Formed s) : Formed (finalTaken s tile f) :=
  .foldl (fun _ _ h => formed_endAccum h) h

theorem formed_acceptTile (h : Formed s) : Formed (acceptTile c s tile) :=
  .ite (formed_finalTaken (.rest h)) (.rest h)

theorem formed_acceptAccum (h : Formed s) : Formed (acceptAccum o fin sat parts s) :=
  .foldl (fun _ _ h => formed_acceptTile h) h

theorem formed_tryAccum (h : Formed s) : FormedOut (tryAccum s o) := by
  refine formed_withGroup h ?_
  split
  · exact .done h
  · dsimp only
    split
    · exact .done h
    · trivial
    · refine .ite (.go (formed_acceptAccum (.rest h))) ?_
      split
      · trivial
      · next hx => exact .ite (.go (formed_acceptAccum (.rest (formed_accumOperand h hx)))) trivial

theorem formed_planAccepted (h : Formed s) : Formed (planAccepted s c) := by
  unfold planAccepted
  split
  · exact formed_creditBack h
  · exact h

theorem formed_countTicket (h : Formed s) : Formed (countTicket s tile c k) := by
  unfold countTicket
  split
  · exact .rest h
  · split
    · split
      · exact .rest h
      · split
        · exact .rest h
        · exact h
    · exact h

theorem formed_accumApplied (h : Formed s) : Formed (accumApplied s c) := by
  unfold accumApplied
  split
  · exact h
  · refine .ite h ?_
    split
    · exact .ite (formed_finishOp h) h
    · exact h

theorem formed_applyOne (h : Formed s) : Formed (applyOne tile fmt s c) := by
  refine formed_accumApplied (formed_planAccepted (formed_countTicket ?_))
  split
  · exact .rest (formed_dWrite h)
  · split <;> next e => exact FormedGw.of (formed_groupWrite h) e

/-- The state that an examination of a contribution leaves is formed. -/
def FormedGate : TicketGate → Prop
  | .open_ => True
  | .shut t => Formed t
  | .full t _ => Formed t

theorem FormedGate.of {x y : TicketGate} (h : FormedGate x) (e : x = y) : FormedGate y := e ▸ h

theorem formed_ticketGate {c : Contribution} (h : Formed s) : FormedGate (ticketGate s tile fmt c) := by
  unfold ticketGate
  dsimp only
  split
  · split
    · exact h
    · trivial
  · split
    · exact h
    · split
      · trivial
      · next e => exact Formed.rest h
      · split <;> exact Formed.rest h

theorem formed_readParts (h : Formed s) : Formed (readParts s tile fmt l) :=
  .foldl (fun _ _ h => formed_readChunks h) h

theorem formed_ticketGates {l : List Contribution} (h : Formed s) : FormedGate (ticketGates s tile fmt l) := by
  induction l with
  | nil => trivial
  | cons c l ih =>
    unfold ticketGates
    split
    · exact ih
    · exact formed_ticketGate h

theorem formed_applyTicket (h : Formed s) : Formed (applyTicket tile s) := by
  unfold applyTicket
  split
  · exact h
  · refine .ite h (.ite h ?_)
    split
    · exact h
    · split
      · next e => exact FormedGate.of (formed_ticketGates h) e
      · next e => exact formed_settle (formed_serveHeld (formed_endAccum (FormedGate.of (formed_ticketGates h) e)))
      · refine formed_settle (.ite (.rest ?_) ?_) <;>
          exact formed_advanceTile (.foldl (fun _ _ h => formed_applyOne h) (.rest (formed_readParts h)))

end

/-! ### The functions of `Machine/Narrow` -/

section
variable {s : State} {r : StepRun} {l : StepLayer} {x : Nat × CPlan} {i k n t : Nat} {handle : Word} {q : SlotGather} {cp : CPlan}

theorem formed_narrowSend (h : Formed s) : Formed (narrowSend s r l x i) := by
  unfold narrowSend
  split
  · exact h
  · exact .foldl (fun _ _ h => .foldl (fun _ _ h => formed_sendPhase h) h) h

theorem formed_narrowPresent (h : Formed s) : Formed (narrowPresent s handle k l x i) := by
  unfold narrowPresent
  split
  · exact h
  · exact .ite h (.ite (formed_syncAdd (formed_narrowSend (.rest h))) (formed_narrowSend (.rest h)))

theorem formed_narrowShard (h : Formed s) : Formed (narrowShard s n) := by
  unfold narrowShard
  split
  · split
    · exact h
    · refine .foldl (fun _ _ h => ?_) h
      refine .ite ?_ h
      split
      · exact .foldl (fun _ _ h => formed_narrowPresent h) h
      · exact h
  · exact h

theorem formed_slotSend (h : Formed s) : Formed (slotSend s r q cp t) := by
  unfold slotSend
  split
  · exact h
  · exact .foldl (fun _ _ h => .foldl (fun _ _ h => formed_sendPhase h) h) h

theorem formed_slotPresent (h : Formed s) : Formed (slotPresent s handle i q cp t) := by
  unfold slotPresent
  split
  · exact h
  · exact .ite h (.ite (formed_syncAdd (formed_slotSend (.rest h))) (formed_slotSend (.rest h)))

theorem formed_slotCopy (h : Formed s) : Formed (slotCopy handle i q cp s t) := by
  unfold slotCopy
  split
  · exact h
  · exact formed_slotPresent (formed_dWrite h)

theorem formed_beginSlots {f : Nat} (h : Formed s) : Formed (beginSlots handle f s) := by
  induction f generalizing s with
  | zero => exact h
  | succ f ih =>
    unfold beginSlots
    split
    · exact h
    · split
      · exact h
      · split
        · exact h
        · exact .ite (.ite (formed_reachFree h) h)
            (ih (.foldl (fun _ _ h => formed_slotCopy h) (.rest (.rest (.ite (formed_reachFree h) h)))))

theorem formed_slotGathers (h : Formed s) : Formed (slotGathers s) :=
  .foldl (fun _ _ h => formed_beginSlots h) h

end

/-! ### The functions of `Machine/Sweep` -/

section
variable {s : State} {c : ShardCfg} {slot t copy T n stepNo : Nat} {fields : List (Nat × List Nat)} {coarse : Word} {src ts : List Nat}
   {w : SweepRec} {o : TileOut} {last pass1 : Bool} {v : List Word} {st : ShardState}

theorem formed_writeFields (h : Formed s) : Formed (writeFields s c slot t fields) := by
  unfold writeFields
  refine .foldl (fun _ _ h => ?_) h
  split
  · exact formed_dWrite h
  · exact h

theorem formed_emitTile (h : Formed s) : Formed (emitTile s c copy coarse t T src).1 :=
  formed_dWrite h

theorem formed_narrowHeader (h : Formed s) : Formed (narrowHeader s c copy coarse T) :=
  formed_dWrite h

theorem formed_addSweepCounts {n : Counts} (h : Formed s) : Formed (addSweepCounts s w c n) := by
  unfold addSweepCounts
  split
  · exact .rest h
  · exact .rest h
  · exact formed_addTotals h

theorem formed_undoLog (h : Formed s) : Formed (undoLog s n c t stepNo).1 := by
  unfold undoLog
  refine .iteFst h ?_
  split
  · exact h
  · exact formed_dWrite (formed_dWrite (formed_dWrite (formed_dWrite (formed_dWrite h))))

theorem formed_sweepTile (h : Formed s) : Formed (sweepTile s w c o last t) := by
  have hu : Formed (writeFields (undoLog s w.shard c t w.stepNo.toNat).1 c 0 t o.fields) := formed_writeFields (formed_undoLog h)
  unfold sweepTile
  refine .ite h (.ite (.ite ?_ hu) (formed_writeFields h))
  dsimp only
  split
  · exact formed_dWrite (formed_dWrite hu)
  · exact formed_dWrite hu

theorem formed_countScalars (h : Formed s) : Formed (countScalars s w c) :=
  formed_addSweepCounts h

theorem formed_sweepTiles (h : Formed s) : Formed (sweepTiles s w c pass1 ts) := by
  unfold sweepTiles
  refine formed_addSweepCounts ?_
  refine .marks ?_
  refine .foldlFst (fun _ _ hacc => ?_) h
  dsimp only
  split
  · exact formed_emitTile (formed_sweepTile hacc)
  · exact formed_sweepTile hacc

theorem formed_writeRows (h : Formed s) : Formed (writeRows s w c) :=
  .ite (formed_dWrite (formed_addSweepCounts (formed_addSweepCounts h))) (formed_addSweepCounts h)

theorem formed_writeCols (h : Formed s) : Formed (writeCols s w c v) :=
  .ite (formed_dWrite (formed_addSweepCounts h)) h

theorem formed_deliverBetween (h : Formed s) : Formed (deliverBetween s n v) := by
  unfold deliverBetween
  split
  · exact h
  · refine .foldl (fun _ _ h => ?_) h
    split
    · exact .ite (.rest (formed_writeCols h)) h
    · exact h

theorem formed_startSweep (h : Formed s) : Formed (startSweep s w st) := by
  unfold startSweep
  refine .rest ?_
  split
  · exact .marks (.rest h)
  · exact .rest h

theorem formed_endSweep (h : Formed s) : Formed (endSweep s w c st) :=
  .rest (.rest (formed_writeDigests (.ite (.ite h (formed_dWrite h)) (formed_narrowHeader (.ite h (formed_dWrite h))))))

theorem formed_flipShard (h : Formed s) : Formed (flipShard s n) := by
  unfold flipShard
  split
  · exact h
  · exact .ite (.rest (formed_undoFreeAll (formed_dWrite (.ite h (formed_dWrite h))))) (.rest h)

end

/-! ### The functions of `Machine/PlanPlayer` -/

section
variable {s : State} {t : BitVec 4} {r : StepRun} {n k outcome : Nat} {handle clip : Word} {w : SweepRec} {st : ShardState}
  {redo p1 : Bool}
   {v : Verdict} {g : StepPlan} {c : ShardCfg} {stepNo : DWord} {ts : List Nat} {swept l : List (Nat × Nat)} {o : Op}

theorem formed_closePlanned (h : Formed s) : Formed (closePlanned s t) :=
  .foldl (fun _ _ h => .rest (.rest h)) h

theorem formed_setMark (h : Formed s) : Formed (setMark s r) :=
  .rest (.ite h (formed_closePlanned h))

theorem formed_holdShard (h : Formed s) : Formed (holdShard s n) := by
  unfold holdShard
  dsimp only
  split
  · exact .rest (formed_holdInRun h)
  · exact formed_holdInRun h

theorem formed_signalRun (h : Formed s) : Formed (signalRun s handle) := by
  unfold signalRun
  split
  · exact h
  · refine .ite h ?_
    split
    · exact h
    · exact formed_syncAdd (.rest h)

theorem formed_gathersOver (h : Formed s) : Formed (gathersOver s handle) := by
  unfold gathersOver
  split
  · exact h
  · split
    · exact h
    · exact .ite h (formed_signalRun (.rest h))

theorem formed_closeWindows (h : Formed s) : Formed (closeWindows s handle) := by
  unfold closeWindows
  split
  · exact h
  · split
    · exact h
    · exact .rest h

theorem formed_runSweep (h : Formed s) : Formed (runSweep s handle w st) :=
  formed_startSweep (formed_closeWindows h)

theorem formed_startOutcomeSweep (h : Formed s) : Formed (startOutcomeSweep s r n redo clip) := by
  unfold startOutcomeSweep
  split
  · exact h
  · exact .ite (formed_holdShard (.ite (formed_undoRestoreAll h) h)) (formed_runSweep (.ite (formed_undoRestoreAll h) h))

theorem formed_redoShard (h : Formed s) : Formed (redoShard s r n) := by
  unfold redoShard
  split
  · exact .ite (formed_startOutcomeSweep h) h
  · exact h

theorem formed_verdictShard (h : Formed s) : Formed (verdictShard s r v n) := by
  unfold verdictShard
  refine .ite h ?_
  refine .ite (.ite (.rest h) (formed_shardClean h)) ?_
  refine .ite (.ite h (.ite (.rest h) (formed_redoShard h))) ?_
  split
  · exact .ite (formed_startOutcomeSweep h) h
  · exact h

theorem formed_skipSettled (h : Formed s) : Formed (skipSettled s handle) := by
  unfold skipSettled
  split
  · exact h
  · split
    · exact h
    · exact .ite (formed_gathersOver (.rest (.foldl (fun _ _ h => formed_shardClean h) h))) h

theorem formed_recordVerdict (h : Formed s) : Formed (recordVerdict s r g v) :=
  .ite (formed_raiseEvent (.rest (.rest (.rest h)))) (.rest h)

theorem formed_deliverVerdict (h : Formed s) : Formed (deliverVerdict s handle v) := by
  unfold deliverVerdict
  split
  · exact h
  · split
    · exact h
    · exact .ite h (formed_skipSettled (.foldl (fun _ _ h => formed_verdictShard h) (formed_setMark (formed_recordVerdict (.rest h)))))

theorem formed_sweepsOver (h : Formed s) : Formed (sweepsOver s handle) := by
  unfold sweepsOver
  refine .ite h ?_
  split
  · exact .ite (formed_finishOp h) h
  · exact h

theorem formed_abortsOver (h : Formed s) : Formed (abortsOver s) :=
  .foldl (fun _ _ h => .ite h (formed_finishOp h)) h

theorem formed_afterStop (h : Formed s) : Formed (afterStop s n) := by
  unfold afterStop
  split
  · exact h
  · refine .ite (formed_holdShard h) ?_
    split
    · exact h
    · exact .ite (formed_skipSettled h) (.ite (formed_redoShard h) (formed_startOutcomeSweep h))

theorem formed_repairSweep (h : Formed s) : Formed (repairSweep s n c redo clip stepNo) :=
  .ite h (formed_startSweep h)

theorem formed_sweepAgain (h : Formed s) : Formed (sweepAgain s w c) :=
  .ite (formed_repairSweep h) h

theorem formed_stopSweep (h : Formed s) : Formed (stopSweep s w c ts) := by
  unfold stopSweep
  extract_lets counted _ dropped clean
  have hclean : Formed clean := formed_shardClean (.rest (.rest (formed_countScalars (.ite h (formed_sweepTiles h)))))
  refine formed_abortsOver ?_
  split
  · exact formed_sweepsOver (formed_sweepAgain (.ite hclean (.rest hclean)))
  · exact formed_afterStop hclean
  · exact formed_sweepAgain hclean

theorem formed_sweepStop (h : Formed s) : Formed (sweepStop n swept s) := by
  unfold sweepStop
  split
  · refine .ite h ?_
    dsimp only
    split
    · exact .ite (formed_settle (formed_reach h)) (formed_settle (formed_serveHeld (formed_stopSweep (formed_reach h))))
    · exact formed_settle (formed_reach h)
  · exact h

theorem formed_finishSweep (h : Formed s) : Formed (finishSweep s w c st) := by
  unfold finishSweep
  dsimp only
  split
  · exact .ite (formed_endSweep (formed_countScalars h)) (formed_narrowShard (formed_endSweep (formed_countScalars h)))
  · exact formed_sweepsOver (formed_endSweep (formed_countScalars h))
  · exact formed_endSweep (formed_countScalars h)

theorem formed_aheadSweep (h : Formed s) : Formed (aheadSweep s w c p1) :=
  formed_finishSweep (formed_sweepTiles (formed_sweepTiles h))

theorem formed_lastPass (h : Formed s) : Formed (lastPass s w c) := by
  unfold lastPass
  refine .ite ?_ (formed_finishSweep (formed_sweepTiles h))
  split
  · exact formed_aheadSweep h
  · exact formed_aheadSweep h
  · exact .ite (formed_finishSweep (formed_sweepTiles h)) (.ite (formed_finishSweep (formed_sweepTiles h)) (formed_sweepTiles h))

theorem formed_firstPass (h : Formed s) : Formed (firstPass s w c) :=
  .rest (formed_sweepTiles (formed_writeRows h))

theorem formed_tryPlanRun (h : Formed s) : FormedOut (tryPlanRun s o) :=
  .ite (.done (formed_signalPlan h)) (.go (.rest h))

theorem formed_beginStep (h : Formed s) : Formed (beginStep s r g) := by
  unfold beginStep
  refine formed_slotGathers ?_
  refine .foldl (fun _ _ h => formed_advanceTile h) ?_
  dsimp only
  split
  · exact .rest (.foldl (fun _ _ h => formed_holdShard h) (formed_setMark (.rest (.rest (.rest h)))))
  · exact .foldl (fun _ _ h => formed_holdShard h) (formed_setMark (.rest (.rest (.rest h))))

theorem formed_planRunStart (h : Formed s) : Formed (planRunStart handle s) := by
  unfold planRunStart
  split
  · exact h
  · split
    · exact h
    · refine .ite h ?_
      refine .ite ?_ (formed_settle (formed_beginStep h))
      dsimp only
      split
      · exact formed_settle (formed_finishOp (.rest h))
      · exact .rest h

theorem formed_speculate (h : Formed s) : Formed (speculate n s) := by
  unfold speculate
  split
  · exact .ite (.ite (formed_settle (formed_holdShard h)) (formed_runSweep h)) h
  · exact h

theorem formed_flipAll (h : Formed s) : Formed (flipAll s g) :=
  .foldl (fun _ _ h => .ite (.rest (formed_narrowShard h)) (formed_flipShard h)) h

theorem formed_commitRun (h : Formed s) : Formed (commitRun s r g) :=
  .ite (formed_gathersOver (.rest (formed_flipAll (.rest h)))) (.rest (formed_flipAll (.rest h)))

theorem formed_commitFlip (h : Formed s) : Formed (commitFlip t s) := by
  unfold commitFlip
  refine .ite h ?_
  split
  · exact h
  · split
    · exact formed_settle (formed_serveHeld (formed_commitRun h))
    · exact h

theorem formed_gatherFlip (h : Formed s) : Formed (gatherFlip t k s) := by
  unfold gatherFlip
  split
  · exact h
  · split
    · exact h
    · refine formed_settle ?_
      refine .ite ?_ ?_
      · refine formed_gathersOver ?_
        refine .rest ?_
        split
        · exact .rest h
        · exact h
      · refine .rest ?_
        split
        · exact .rest h
        · exact h

theorem formed_zeroTiles (h : Formed s) : Formed (zeroTiles s l) :=
  .foldl (fun _ _ h => formed_zeroTile (formed_dWrite (formed_dropRange h))) (formed_countClones h)

theorem formed_settleSkips (h : Formed s) : Formed (settleSkips t s) :=
  .foldl (fun _ _ h => formed_skipSettled h) h

theorem formed_zeroStep (h : Formed s) : Formed (zeroStep t s) := by
  unfold zeroStep
  dsimp only
  split
  · exact formed_settle (formed_settleSkips h)
  · split
    · exact formed_settle (formed_settleSkips h)
    · exact .ite (formed_settle (formed_settleSkips h)) (formed_settle (.rest (formed_zeroTiles (formed_settle (formed_settleSkips h)))))

theorem formed_endRun {st : Status} (h : Formed s) : Formed (endRun s r st outcome) := by
  unfold endRun
  dsimp only
  split
  · exact .ite (formed_finishOp (.rest (formed_signalRun h))) (.rest (formed_signalRun h))
  · exact .rest (formed_signalRun h)

theorem formed_planRunDone (h : Formed s) : Formed (planRunDone handle s) := by
  unfold planRunDone
  split
  · exact h
  · exact .ite (formed_settle (formed_endRun h)) h

end

/-! ### The functions of `Machine/Digest` -/

section
variable {s : State} {n t : Nat} {code : BitVec 16} {detail : DWord} {src : List (BitVec 13)} {c : ShardCfg}
   {cmp : List (BitVec 13 × List DWord)} {tiles : List Nat} {agree : Bool} {answers : List MemberDigest} {o : Op} {bs : List Byte}
   {d : RepairData} {data : List RepairData}

theorem formed_raiseCompared (h : Formed s) : Formed (raiseCompared s n t code detail) := by
  unfold raiseCompared
  split
  · exact formed_raiseEvent (.rest h)
  · exact formed_raiseEvent h

theorem formed_dueHalt (h : Formed s) : Formed (dueHalt s n) := by
  unfold dueHalt
  split
  · exact h
  · exact .ite h (formed_raiseCompared (formed_haltShard (.rest h)))

theorem formed_dueRepairFrom (h : Formed s) : Formed (dueRepairFrom s n t src) :=
  .rest (formed_dueRepair h)

theorem formed_actOnSplit (h : Formed s) : Formed (actOnSplit s n c cmp tiles) := by
  unfold actOnSplit
  refine .ite h ?_
  refine .ite ?_ ?_
  · refine formed_dueHalt ?_
    refine .rest ?_
    refine .foldl (fun _ _ h => ?_) (.rest (.rest h))
    split
    · exact formed_dueRepairFrom h
    · exact h
  · refine .foldl (fun _ _ h => ?_) (.rest (.rest h))
    split
    · exact formed_dueRepairFrom h
    · exact h

theorem formed_clearHalt (h : Formed s) : Formed (clearHalt s n c agree) :=
  .ite (.rest h) h

theorem formed_endDigests (h : Formed s) : Formed (endDigests s n) := by
  unfold endDigests
  refine .ite h ?_
  split
  · exact h
  · exact .foldl (fun _ _ h => .ite (formed_finishOp h) h) h

theorem formed_tryDigest (h : Formed s) : FormedOut (tryDigest answers s o) := by
  unfold tryDigest
  extract_lets read
  have hread : Formed read := formed_reachFree h
  split
  · trivial
  · extract_lets _ _ recomputed _ _ _ _ _ split
    have hsplit : Formed split := formed_actOnSplit (formed_clearHalt (.rest (formed_recomputeSlot hread)))
    exact .ite trivial (.ite (.done (formed_recomputeSlot hread)) (.ite (.go hsplit) (.done hsplit)))

theorem formed_compareShard (h : Formed s) : Formed (compareShard n answers s) := by
  unfold compareShard
  split
  · exact h
  · exact .ite (formed_settle (formed_actOnSplit (.rest (.ite (formed_reachFree h) h)))) (.ite (formed_reachFree h) h)

theorem formed_putFields (h : Formed s) : Formed (putFields s n c t bs) := by
  unfold putFields
  refine .ite ?_ (formed_dWrite h)
  split
  · exact formed_dWrite h
  · exact h

theorem formed_resweep (h : Formed s) : Formed (resweep s n c) := by
  unfold resweep
  refine .ite h ?_
  split
  · exact .ite h (.rest h)
  · exact .ite (formed_afterStop (formed_shardClean h)) (formed_repairSweep (formed_shardClean h))

theorem formed_writeRepair (h : Formed s) : Formed (writeRepair s n c t d) :=
  .rest (.rest (formed_recomputeTile (.rest (.ite (formed_dWrite (formed_putFields (formed_resweep h)))
    (formed_dWrite (formed_dWrite (formed_putFields (formed_resweep h))))))))

theorem formed_noSource (h : Formed s) : Formed (noSource s n c t) :=
  .ite (formed_raiseUe (formed_haltShard (.rest h))) (formed_haltShard (.rest h))

theorem formed_afterRepair (h : Formed s) : Formed (afterRepair s n) :=
  formed_settle (formed_serveHeld (formed_endDigests (formed_dueHalt h)))

theorem formed_tileRepair (h : Formed s) : Formed (tileRepair n t d s) := by
  unfold tileRepair
  split
  · exact h
  · refine .ite h ?_
    split
    · exact formed_afterRepair (formed_noSource h)
    · exact .ite h (.ite (.ite (formed_afterRepair (formed_noSource h)) (formed_dueRepairFrom h))
        (formed_afterRepair (formed_raiseCompared (.rest (formed_writeRepair h)))))

theorem formed_tryRepair (h : Formed s) : FormedOut (tryRepair data s o) := by
  unfold tryRepair
  dsimp only
  split
  · trivial
  · exact .ite (.done h) (.ite trivial (.ite (.done h) (.ite (.done h)
      (.done (formed_serveHeld (.foldl (fun _ _ h => formed_writeRepair h) h))))))

end

/-! ### The functions of `Machine/Activations` -/

section
variable {s : State} {o : Op} {unit sectors n addr : Nat} {rec_ : List (Byte × Bool)} {x : List Nat} {c : ShardCfg}
   {l : List (Nat × List Byte)} {r : Res}

theorem formed_tryActStore (h : Formed s) : FormedOut (tryActStore s o) := by
  refine formed_withGroup h (.ite (formed_writeResult h) (.ite (.done h) ?_))
  split
  · trivial
  · next hx => exact formed_writeResult (.rest (.rest (.rest (formed_readOperand h hx))))

theorem formed_actPage (h : Formed s) : Formed (actPage s unit sectors rec_).1 :=
  .iteFst h (.iteFst h (.iteFst (.rest h) h))

theorem formed_actRebuild {unit : Nat} {l : List Nat} {data : List (Byte × Bool)} (h : Formed s) :
    Formed (actRebuild unit l data s).1 := by
  induction l generalizing data s with
  | nil => exact h
  | cons n l ih => exact ih (formed_actPage h)

theorem formed_tryActLoad (h : Formed s) : FormedOut (tryActLoad s o) := by
  refine formed_withGroup h (.ite (formed_writeResult h) ?_)
  split
  · trivial
  · next hx =>
    refine .ite (.done (formed_readOperand h hx)) ?_
    split
    · exact .done (formed_readOperand h hx)
    · exact formed_writeResult (formed_actRebuild (formed_readOperand h hx))

theorem formed_snapOne {n : Nat} {c : ShardCfg} (h : Formed s) : Formed (snapOne o s n c).1 :=
  formed_countUninit h

theorem formed_snapAll {l : List (Nat × ShardCfg)} {a : Nat} (h : Formed s) : Formed (snapAll o l a s).1 := by
  induction l generalizing a s with
  | nil => exact h
  | cons e l ih => exact ih (formed_snapOne h)

theorem formed_writeLocal {l : List (Nat × List Byte)} {r : Res} (h : Formed s) : FormedOut (writeLocal s o l r) := by
  unfold writeLocal
  split
  · next g _ =>
    have hw : FormedGw (l.foldl (fun (acc : GroupWrite) x => match acc with
        | .ok s => groupWrite s g x.1 x.2
        | w => w) (.ok s)) := by
      refine .foldl (fun x e hx => ?_) (.ok h)
      split
      · exact formed_groupWrite hx
      · exact hx
    split
    · next e => exact .again (FormedGw.of hw e)
    · next e => exact .done (FormedGw.of hw e)
    · next e => exact .done (FormedGw.of hw e)
  · exact .ite trivial (.done (.foldl (fun _ _ h => formed_refetchLanded (formed_opWrite h)) h))

theorem formed_writePieces {addr : Nat} {l : List (Nat × List Byte)} {r : Res} (h : Formed s) :
    FormedOut (writePieces s o addr l r) := by
  unfold writePieces
  split
  · exact .ite (.done (formed_sendPieces h)) (.go (.rest (formed_sendPieces h)))
  · exact .done h
  · exact formed_writeLocal h

theorem formed_trySnapshot (h : Formed s) : FormedOut (trySnapshot s o) :=
  formed_withGroup h (.ite trivial (formed_writePieces (formed_snapAll (formed_reachFree h))))

end

/-! ### The functions of `Machine/Txg` -/

section
variable {s : State} {g : Txg} {o : Op} {l : Nat × List Byte} {n line : Nat}

theorem formed_abortOps (h : Formed s) : Formed (abortOps s g) :=
  .foldl (fun _ _ h => formed_stopOp h) h

theorem formed_discardGroup (h : Formed s) : Formed (discardGroup s g) :=
  .rest (.rest (formed_abortOps h))

theorem formed_tryTxgBegin (h : Formed s) : FormedOut (tryTxgBegin s o) :=
  .ite (.done h) (.ite (.done h) (.done (.rest h)))

theorem formed_tryTxgEnd (h : Formed s) : FormedOut (tryTxgEnd s o) := by
  unfold tryTxgEnd
  refine .ite trivial ?_
  split
  · exact .done h
  · exact .ite (.done h) (.ite (.done (formed_serveHeld (formed_discardGroup h))) (.go h))

theorem formed_applyLine (h : Formed s) : Formed (applyLine s l) :=
  formed_refetchLanded (formed_dWrite (.foldl (fun _ _ h => formed_homeWriteSector h) h))

theorem formed_applyGroup (h : Formed s) : Formed (applyGroup s g) :=
  .rest (.rest (.foldl (fun _ _ h => formed_applyLine h) (.rest h)))

theorem formed_txgEnding (h : Formed s) : Formed (txgEnding n s) := by
  unfold txgEnding
  split
  · exact h
  · split
    · exact h
    · exact .ite (formed_complete (formed_serveHeld (formed_discardGroup h)))
        (.ite (formed_complete (formed_serveHeld (formed_applyGroup h))) h)

theorem formed_lockGrant {g : Nat} (h : Formed s) : Formed (lockGrant line g s) := by
  unfold lockGrant
  split
  · exact h
  · exact .ite h (.ite (.rest (.rest h)) (.rest (.rest h)))

theorem formed_lockTimeout (h : Formed s) : Formed (lockTimeout line n s) := by
  unfold lockTimeout
  split
  · dsimp only
    split
    · exact formed_complete (formed_serveHeld (.rest (.rest (formed_abortOps h))))
    · exact formed_settle (formed_serveHeld (.rest (.rest (formed_abortOps h))))
  · exact h

end

/-! ### The functions of `Machine/Context` -/

section
variable {s : State} {o : Op} {bs : List Byte} {off u : Nat} {ids : List Nat} {acc : State × Nat}

theorem formed_tryCtxSave (h : Formed s) : FormedOut (tryCtxSave s o) :=
  .ite trivial (.ite (.done h) (formed_writeResult h))

theorem formed_restoreSyncs (h : Formed s) : Formed (restoreSyncs s bs off ids) :=
  formed_promote (.foldl (fun _ _ h => .rest h) (.rest h))

theorem formed_restoreUe (hacc : Formed acc.1) : Formed (restoreUe bs acc u).1 :=
  formed_sWrite (formed_sWrite hacc)

theorem formed_ctxApply (h : Formed s) : Formed (ctxApply s o bs) :=
  formed_restoreSyncs (.foldlFst (fun _ _ hacc => formed_restoreUe hacc)
    (.foldl (fun _ _ h => .rest h) (.foldl (fun _ _ h => .rest h) h)))

theorem formed_tryCtxRestore (h : Formed s) : FormedOut (tryCtxRestore s o) := by
  refine .ite trivial (.ite (.done h) ?_)
  split
  · trivial
  · next hx =>
    have ht := formed_readOperand h hx
    exact .ite (.done ht) (.ite (.done (formed_ctxApply ht)) (.done ht))

end

/-! ### The functions of `Machine/Migrate` -/

section
variable {s : State} {o : Op} {a n tier line u : Nat} {pin : Bool} {acc : State × Nat} {mv : Nat × Nat × Word}

theorem formed_startMoves (h : Formed s) : FormedOut (startMoves s o a n tier pin) :=
  .ite (.ite (.done (.rest h)) (.go (.rest (.rest h)))) (.done h)

theorem formed_tryMigrate (h : Formed s) : FormedOut (tryMigrate s o) := by
  unfold tryMigrate
  refine formed_joinGroup h ?_
  refine .ite (.done h) ?_
  split
  · trivial
  · exact .ite (.done h) (formed_startMoves h)

theorem formed_protectLine (hacc : Formed acc.1) : Formed (protectLine acc line).1 :=
  .iteFst (formed_putLine (formed_keepsLine hacc)) (formed_putLine (formed_keepsLine hacc))

theorem formed_tryPin (h : Formed s) : FormedOut (tryPin s o) := by
  unfold tryPin
  refine formed_joinGroup h ?_
  refine .ite (.done h) ?_
  split
  · trivial
  · split
    · exact .done (.rest (.rest h))
    · exact formed_startMoves h
    · exact .ite trivial (.done (.foldlFst (fun _ _ hacc => formed_protectLine hacc) (formed_reach h)))

theorem formed_dropHomeLines (h : Formed s) : Formed (dropHomeLines s u) :=
  .rest (formed_flushLines h)

theorem formed_markUnit (h : Formed s) : Formed (markUnit s a) :=
  .ite h (.foldl (fun _ _ h => formed_markArray h) (.rest h))

theorem formed_switchUnit (h : Formed s) : Formed (switchUnit s mv) :=
  .ite (formed_markUnit (.marks (formed_releaseHold (.rest (formed_dropHomeLines (formed_reach (.rest h)))))))
    (.marks (formed_releaseHold (.rest (formed_dropHomeLines (formed_reach (.rest h))))))

theorem formed_unitSwitch (h : Formed s) : Formed (unitSwitch u s) := by
  unfold unitSwitch
  split
  · exact h
  · refine .ite h ?_
    refine formed_settle ?_
    refine formed_serveHeld ?_
    refine .ite (formed_switchUnit h) ?_
    split
    · exact formed_finishOp (formed_switchUnit h)
    · exact formed_switchUnit h

end

/-! ### The functions of `Machine/Dropout` -/

section
variable {s : State} {g : StepPlan} {r : StepRun} {st : Status} {handle : Word} {vs : List (BitVec 4 × Verdict)}
  {flag cut delay plus : Bool}
   {pkg y : BitVec 13} {but from_ : Option Nat} {d : Nat}

theorem formed_idlePorts (h : Formed s) : Formed (idlePorts s) :=
  .foldl (fun _ _ h => .rest h) h

theorem formed_cleanShards (h : Formed s) : Formed (cleanShards s g) :=
  .foldl (fun _ _ h => formed_shardClean h) (.rest h)

theorem formed_dropAccums (h : Formed s) : Formed (dropAccums s g) :=
  .foldl (fun _ _ h => formed_stopOp h) h

theorem formed_abandonRun (h : Formed s) : Formed (abandonRun s r st) := by
  unfold abandonRun
  split
  · exact formed_endRun h
  · exact formed_endRun (.ite h (.rest (formed_cleanShards h)))

theorem formed_resendSlots (h : Formed s) : Formed (resendSlots s r g) := by
  unfold resendSlots
  refine .foldl (fun _ _ h => ?_) h
  split
  · exact h
  · split
    · exact formed_slotSend h
    · exact h

theorem formed_replayRun (h : Formed s) : Formed (replayRun s r) := by
  unfold replayRun
  split
  · exact h
  · exact formed_resendSlots (formed_setMark (.foldl (fun _ _ h => formed_holdShard h)
      (formed_raiseEventOpen (.rest (.rest (formed_zeroTiles (formed_dropAccums (.rest (formed_cleanShards h)))))))))

theorem formed_furtherDropout (h : Formed s) : Formed (furtherDropout s) :=
  .foldl (fun _ _ h => formed_abandonRun h) (formed_raiseAllOpen (.rest (.rest (.rest h))))

theorem formed_resendNarrow (h : Formed s) : Formed (resendNarrow s handle) := by
  unfold resendNarrow
  split
  · exact h
  · split
    · exact h
    · refine .foldl (fun _ _ h => ?_) (formed_resendSlots h)
      split
      · exact h
      · split
        · exact formed_narrowSend h
        · exact h

theorem formed_resumeRun (h : Formed s) : Formed (resumeRun vs s r) := by
  unfold resumeRun
  refine .ite h ?_
  refine .ite (formed_resendNarrow h) ?_
  split
  · exact formed_resendNarrow (formed_deliverVerdict h)
  · exact formed_replayRun h

theorem formed_roundResult (h : Formed s) : Formed (roundResult s flag vs) := by
  unfold roundResult
  split
  · exact h
  · refine .ite (formed_furtherDropout h) ?_
    split
    · exact formed_furtherDropout h
    · extract_lets raised resumed
      have hresumed : Formed resumed := .foldl (fun _ _ h => formed_resumeRun h) (formed_raiseAllOpen (.rest (.rest (.rest (.rest h)))))
      exact .ite (formed_furtherDropout hresumed) hresumed

theorem formed_sendDrop (h : Formed s) : Formed (sendDrop s pkg cut but) :=
  .foldl (fun _ _ h => formed_sendOn h) h

theorem formed_dropOut (h : Formed s) : Formed (dropOut s delay) :=
  formed_idlePorts (.rest (.rest h))

theorem formed_dropSelf (h : Formed s) : Formed (dropSelf s) :=
  .ite h (formed_dropOut (formed_sendDrop h))

theorem formed_closeFrom (h : Formed s) : Formed (closeFrom s pkg) :=
  .foldl (fun _ _ h => .rest (.rest h)) h

theorem formed_learnDrop (h : Formed s) : Formed (learnDrop s y cut from_) := by
  unfold learnDrop
  extract_lets _ learned closed
  have hclosed : Formed closed := .rest (formed_closeFrom (formed_sendDrop (.rest h)))
  exact .ite (.ite h (formed_dropOut h)) (.ite h (.ite (formed_furtherDropout hclosed) (.ite (.rest hclosed) (.rest (.rest hclosed)))))

theorem formed_linksLost (h : Formed s) : Formed (linksLost d plus s) :=
  .ite h (.ite (formed_learnDrop h) (formed_learnDrop (.rest h)))

theorem formed_lossOfSignal (h : Formed s) : Formed (lossOfSignal d plus s) :=
  formed_settle (formed_linksLost (.foldl (fun _ _ h => .rest h) h))

end

/-! ### The functions of `Machine/Trees` -/

section
variable {s : State} {p : CPhase} {plus : Bool} {fs : List Frame} {cp : CPlan} {t : TreeRun} {v : TreeVal} {verdict : Option Verdict}
   {u : TreeUse} {n x plan attempt : Nat} {tenant : BitVec 4} {seq : Word} {f : Frame}

theorem formed_sendTree (h : Formed s) : Formed (sendTree p plus fs s) :=
  .foldl (fun _ _ h => formed_sendPhase h) h

theorem formed_sendDown (h : Formed s) : Formed (sendDown s cp fs) :=
  .foldl (fun _ _ h => .ite (formed_sendTree (.ite (formed_sendTree h) h)) (.ite (formed_sendTree h) h)) h

theorem formed_planComplete (h : Formed s) : Formed (planComplete s cp) :=
  formed_syncAdd h

theorem formed_treeDone (h : Formed s) : Formed (treeDone s t cp v verdict) := by
  unfold treeDone
  split
  · exact formed_roundResult (.rest h)
  · dsimp only
    split
    · exact formed_deliverVerdict (formed_planComplete (.rest h))
    · exact formed_planComplete (.rest h)
  · exact formed_deliverBetween (formed_planComplete (.rest h))
  · dsimp only
    split
    · exact formed_finishOp (.rest (formed_planComplete (.rest h)))
    · exact .rest (formed_planComplete (.rest h))

theorem formed_rootResult (h : Formed s) : Formed (rootResult s t cp) :=
  formed_treeDone (formed_sendDown h)

theorem formed_countTree (h : Formed s) : Formed (countTree s u n) := by
  unfold countTree
  refine .ite h ?_
  split
  · exact .rest h
  · exact .rest h
  · split
    · exact formed_addSweepCounts h
    · exact h
  · exact h

theorem formed_advanceTree {f : Nat} {u : TreeUse} (h : Formed s) : Formed (advanceTree f u s) := by
  induction f generalizing s with
  | zero => exact h
  | succ f ih =>
    unfold advanceTree
    split
    · exact h
    · split
      · exact h
      · refine .ite h ?_
        split
        · exact formed_rootResult h
        · split
          · exact .ite (ih (.rest (formed_countTree h))) (.rest (formed_sendTree (formed_countTree h)))
          · exact h

theorem formed_startTree (h : Formed s) : Formed (startTree s u tenant plan seq attempt v) :=
  formed_advanceTree (.rest h)

theorem formed_treeUp (h : Formed s) : Formed (treeUp s t cp f) := by
  unfold treeUp
  split
  · exact h
  · exact formed_advanceTree (.rest h)

theorem formed_treeDown (h : Formed s) : Formed (treeDown s t cp f) := by
  unfold treeDown
  dsimp only
  split
  · exact .ite (formed_treeDone (formed_sendDown h)) (.rest (formed_sendDown h))
  · exact formed_treeDone (formed_sendDown h)
  · exact formed_treeDone (formed_sendDown h)
  · exact formed_treeDone (formed_sendDown h)

theorem formed_joinRound (h : Formed s) : Formed (joinRound s) := by
  unfold joinRound
  split
  · exact h
  · refine .ite h ?_
    refine .ite ?_ h
    split
    · exact formed_startTree h
    · exact h

end

/-! ### The functions of `Machine/Steps` -/

section
variable {s : State} {n u : Nat} {w : SweepRec} {c : ShardCfg} {o : Op} {redo residue : Bool} {e : Engine} {acc : State × Counts}
   {r : StepRun} {g : StepPlan} {t : BitVec 4}

theorem formed_startBetween (h : Formed s) : Formed (startBetween s n w c) := by
  unfold startBetween
  split
  · exact h
  · split
    · exact formed_deliverBetween (formed_addSweepCounts h)
    · exact .ite h (formed_startTree (formed_addSweepCounts h))

theorem formed_passOver (h : Formed s) : Formed (passOver n w c s) :=
  .ite (formed_startBetween (formed_firstPass h)) (.ite (formed_startBetween h) (formed_lastPass h))

theorem formed_sweepComplete (h : Formed s) : Formed (sweepComplete n s) := by
  unfold sweepComplete
  split
  · refine .ite h ?_
    dsimp only
    split
    · exact .ite (formed_settle (formed_reach h)) (formed_settle (formed_serveHeld (formed_passOver (formed_reach h))))
    · exact formed_settle (formed_reach h)
  · exact h

theorem formed_commandSweep {e : Nat × ShardCfg} (h : Formed s) : Formed (commandSweep o redo s e) :=
  .ite (.rest h) (formed_startSweep (.ite (formed_undoRestoreAll h) h))

theorem formed_sweepCommand (h : Formed s) : FormedOut (sweepCommand redo s o) :=
  .ite (.done h) (.ite (.go (.foldl (fun _ _ h => formed_commandSweep h) h)) (.done (.foldl (fun _ _ h => formed_commandSweep h) h)))

theorem formed_tryCommit (h : Formed s) : FormedOut (tryCommit s o) :=
  .ite (.ite (.done h) (.done h)) (.ite (.done h) (.ite trivial
    (.done (formed_serveHeld (.foldl (fun _ _ h => formed_flipShard h) h)))))

theorem formed_tryAbort (h : Formed s) : FormedOut (tryAbort s o) :=
  .ite (.done h) (.ite (.go (.foldl (fun _ _ h => formed_abortShard h) h)) (.done (.foldl (fun _ _ h => formed_abortShard h) h)))

theorem formed_initHeader {wmax coarse : Word} {nonfin : Bool} (h : Formed s) : Formed (initHeader s wmax coarse nonfin).1 :=
  .rest (.rest (.rest (.rest h)))

theorem formed_initInt (h : Formed s) : Formed (initInt s n c) :=
  formed_dWrite (.rest (.rest (.rest (.rest (.foldl (fun _ _ h => formed_writeFields h) h)))))

theorem formed_initFp (h : Formed s) : Formed (initFp s n c o).1 := by
  refine formed_narrowHeader (formed_dWrite (formed_initHeader ?_))
  refine .foldlFst (fun p x hp => ?_) h
  exact formed_emitTile (formed_writeFields hp)

theorem formed_initShard {e : Nat × ShardCfg} (hacc : Formed acc.1) : Formed (initShard o acc e).1 :=
  formed_writeDigests (.marks (.iteFst (formed_initInt hacc) (formed_initFp hacc)))

theorem formed_tryInitParams (h : Formed s) : FormedOut (tryInitParams s o) :=
  .ite (.done h) (.ite trivial (.done (formed_serveHeld (.foldlFst (fun _ _ hacc => formed_initShard hacc) h))))

theorem formed_dropIdle (h : Formed s) : Formed (dropIdle s) :=
  .ite (formed_dropSelf h) h

theorem formed_ueFault (h : Formed s) : Formed (ueFault u residue s) :=
  .ite h (formed_dropIdle (.rest (.rest (.rest h))))

theorem formed_enterTriple {t : Triple} (h : Formed s) : Formed (enterTriple s r g t) := by
  unfold enterTriple
  dsimp only
  split
  · exact formed_deliverVerdict (.rest h)
  · exact formed_startTree (.rest h)

theorem formed_tripleEntry (h : Formed s) : Formed (tripleEntry t s) := by
  unfold tripleEntry
  split
  · exact h
  · split
    · exact h
    · refine .ite h ?_
      split
      · exact formed_settle (formed_enterTriple h)
      · exact h

theorem formed_zeroWork (h : Formed s) : Formed (zeroWork s e) := by
  unfold zeroWork
  split
  · exact .marks h
  · exact h
  · exact h
  · exact h

theorem formed_yieldEngine (h : Formed s) : Formed (yieldEngine s e t) :=
  .ite (.rest (formed_zeroWork h)) h

theorem formed_phaseDispatch (h : Formed s) : Formed (phaseDispatch e t s) :=
  .ite (.ite (formed_yieldEngine (formed_settle (formed_slotGathers h)))
    (.rest (formed_yieldEngine (formed_settle (formed_slotGathers h))))) (formed_settle (formed_slotGathers h))

end

/-! ### The functions of `Machine/Collectives` -/

section
variable {s : State} {c : CollRun} {cp : CPlan} {i : Nat} {handle : Word} {o : Op}

theorem formed_beginReduce (h : Formed s) : Formed (beginReduce s c cp) := by
  unfold beginReduce
  dsimp only
  split
  · exact .ite (formed_finishRegion (.foldl (fun _ _ h => formed_advanceTile h) (.rest h)))
      (.foldl (fun _ _ h => formed_advanceTile h) (.rest h))
  · exact .foldl (fun _ _ h => formed_advanceTile h) (.rest h)

theorem formed_gatherSend (h : Formed s) : Formed (gatherSend s c cp i) :=
  .foldl (fun _ _ h => .foldl (fun _ _ h => formed_sendPhase h) h) h

theorem formed_gatherCheck (h : Formed s) : Formed (gatherCheck s handle) := by
  unfold gatherCheck
  split
  · exact h
  · split
    · exact h
    · refine .ite ?_ h
      dsimp only
      split
      · exact formed_finishOp (.rest (formed_planComplete h))
      · exact .rest (formed_planComplete h)

theorem formed_gatherPresent (h : Formed s) : Formed (gatherPresent s handle i) := by
  unfold gatherPresent
  split
  · exact h
  · split
    · exact h
    · exact .ite h (formed_gatherCheck (formed_gatherSend (.rest h)))

theorem formed_copyOwn {x : GroupWrite} {i : Nat} (h : FormedGw x) : FormedGw (copyOwn o c x i) := by
  unfold copyOwn
  split
  · dsimp only
    split
    · exact .wait h
    · next hx => exact formed_groupPuts (.rest (formed_readOperand h hx))
  · exact h

theorem formed_beginGather (h : Formed s) : FormedGw (beginGather s o c cp) := by
  have hw : FormedGw (((List.range cp.tiles).filter (gatherOwns s cp)).foldl (copyOwn o c) (.ok s)) :=
    .foldl (fun _ _ h => formed_copyOwn h) (.ok h)
  refine .ite (.wait h) ?_
  split
  · next e => exact .ok (formed_gatherCheck (.foldl (fun _ _ h => formed_gatherPresent h) (.rest (FormedGw.of hw e))))
  · exact hw

theorem formed_endGather (h : Formed s) : Formed (endGather s handle) := by
  unfold endGather
  split
  · exact formed_stopOp h
  · exact h

theorem formed_readNorm {r : State × Triple} (h : Formed s) (hr : readNorm s o = some r) : Formed r.1 := by
  unfold readNorm at hr
  split at hr
  · obtain rfl := Option.some.inj hr
    exact .rest h
  · obtain ⟨x, hx, rfl⟩ := Option.map_eq_some_iff.mp hr
    exact .rest (formed_readOperand h hx)

theorem formed_beginNorm (h : Formed s) : FormedOpt (beginNorm s o c cp) := by
  unfold beginNorm
  cases hr : readNorm s o with
  | none => trivial
  | some r => exact formed_startTree (.rest (formed_readNorm h hr))

theorem formed_beginColl (h : Formed s) : Formed (beginColl s handle) := by
  unfold beginColl
  split
  · exact h
  · refine .ite h ?_
    split
    · refine .ite (formed_beginReduce (.rest (.rest h))) (.ite ?_ ?_)
      · split
        · next e => exact FormedGw.of (formed_beginGather (.rest (.rest h))) e
        · exact formed_reachFree (.rest h)
        · next e => exact formed_endGather (FormedGw.of (formed_beginGather (.rest (.rest h))) e)
      · cases e : beginNorm _ _ _ _ with
        | none => exact formed_reachFree h
        | some t => exact FormedOpt.of (formed_beginNorm (.rest (.rest h))) e
    · exact h

theorem formed_tryColl (h : Formed s) : FormedOut (tryColl s o) :=
  formed_joinGroup h (.ite (.done h) (.go (formed_beginColl (.rest h))))

theorem formed_tryNorm (h : Formed s) : FormedOut (tryNorm s o) := by
  refine .ite (formed_tryColl h) (formed_joinGroup h ?_)
  split
  · trivial
  · next hr =>
    split
    · exact .done (formed_readNorm h hr)
    · trivial

end

/-! ### The functions of `Machine/Frames` -/

section
variable {s : State} {port a i n lane : Nat} {l : List Frame} {bad : Bool} {f : Frame} {k : State → State} {st : Status} {handle : Word}
   {o : Op} {c : CollRun} {x : StepRun × Nat × SlotGather × CPlan × Nat} {peer : BitVec 13} {spid : DWord} {width : BitVec 2}

theorem formed_undelivered (h : Formed s) : Formed (undelivered s port).1 :=
  .iteFst h (.rest (.rest h))

theorem formed_moveFrames (h : Formed s) : Formed (moveFrames s port l) :=
  .foldl (fun _ _ h => formed_sendOn h) h

theorem formed_portOut (h : Formed s) : Formed (portOut s port) := by
  have hu := formed_undelivered (port := port)
    (s := logRecordFree (updPort s port fun p => { p with up := false, out := true, width := 0 }) 0x0D 0 port port 0xF) h
  unfold portOut
  dsimp only
  generalize undelivered _ port = u at hu ⊢
  split <;> split
  · exact formed_settle (formed_joinRound (formed_linksLost (formed_moveFrames (.rest hu))))
  · exact formed_settle (formed_joinRound (formed_linksLost (.rest hu)))
  · exact formed_moveFrames (.rest hu)
  · exact .rest hu

theorem formed_frameReplay (h : Formed s) : Formed (frameReplay port bad s) :=
  .ite (formed_portOut (.rest h)) (.rest h)

theorem formed_staleFrame (h : Formed s) : Formed (staleFrame s port f) :=
  formed_creditBack (.rest h)

theorem formed_arrive (h : Formed s) : Formed (arrive s port f) :=
  formed_creditReturn (.rest h)

theorem formed_received (h : Formed s) (hk : ∀ t, Formed t → Formed (k t)) : Formed (received s port f k) :=
  .ite (hk _ (formed_arrive h)) (formed_frameReplay h)

theorem formed_forward (h : Formed s) : Formed (forward s port f) :=
  .ite (formed_creditBack h) (.ite (formed_creditBack (formed_sendRouted h)) (.rest h))

theorem formed_routed (h : Formed s) (hk : ∀ t, Formed t → Formed (k t)) : Formed (routed s port f k) :=
  formed_received h (fun _ h => .ite (formed_forward h) (hk _ h))

theorem formed_refuseFrame (h : Formed s) : Formed (refuseFrame s port f st) :=
  formed_creditBack (formed_sendStatus (.ite h (.ite (formed_finalDiscarded h) (formed_countLanded h))))

theorem formed_pullOver (h : Formed s) : Formed (pullOver s handle) := by
  unfold pullOver
  split
  · exact h
  · exact .ite h (.rest h)

theorem formed_takePull (h : Formed s) : Formed (takePull s port f o) := by
  refine .ite (.rest h) ?_
  split
  · exact formed_settle (formed_pullOver (.rest (formed_refuseFrame (.rest h))))
  · split
    · exact .rest h
    · next e =>
      exact formed_settle (formed_pullOver (formed_creditBack (.rest (FormedOpt.of (.ite (formed_landPiece h) (.some h)) e))))

theorem formed_landWrite (h : Formed s) : Formed (landWrite s port f) :=
  formed_refetchLanded (formed_recomputeTouched (.ite (formed_dWrite h)
    (.ite (formed_finalArrives h) (formed_countLanded (formed_dWrite h)))))

theorem formed_takeWrite (h : Formed s) : Formed (takeWrite port f s) := by
  unfold takeWrite
  split
  · exact formed_takePull h
  · refine .ite (.rest h) ?_
    split
    · exact formed_refuseFrame h
    · exact .ite (.rest h) (formed_settle (formed_creditBack (formed_landWrite h)))

theorem formed_joinTile (h : Formed s) : Formed (joinTile s port f a) := by
  unfold joinTile
  split
  · exact h
  · dsimp only
    split
    · refine formed_creditBack (.ite ?_ h)
      cases planUse s _ with
      | none => exact h
      | some u => exact formed_sendPhase h
    · exact .rest h

theorem formed_takeAcc (h : Formed s) : Formed (takeAcc port f s) := by
  unfold takeAcc
  refine .ite (formed_creditBack h) ?_
  refine .ite (.rest h) ?_
  refine .ite ?_ ?_
  · split
    · exact .rest h
    · exact formed_staleFrame h
    · split
      · exact formed_refuseFrame h
      · exact formed_joinTile h
  · split
    · exact formed_refuseFrame h
    · split
      · exact .rest h
      · exact formed_staleFrame h
      · exact formed_joinTile h

theorem formed_narrowTileDone (h : Formed s) : Formed (narrowTileDone s f i) := by
  unfold narrowTileDone
  split
  · exact h
  · split
    · exact .foldl (fun _ _ h => .ite (.foldl (fun _ _ h => .ite (formed_narrowPresent h) h) h) h) h
    · exact h

theorem formed_writeNarrow {grp : Option Nat} {f : Frame} {a : Nat} (h : Formed s) : FormedGw (writeNarrow s grp f a) := by
  unfold writeNarrow
  split
  · exact .ok h
  · dsimp only
    split
    · exact formed_groupWrite h
    · exact .ite (.wait h) (.ok (formed_refetchLanded (formed_dWrite h)))

theorem formed_takeGather (h : Formed s) : Formed (takeGather s port f c) := by
  unfold takeGather
  dsimp only
  split
  · exact formed_refuseFrame h
  · split
    · exact .rest (.rest h)
    · exact formed_settle (formed_creditBack (formed_endGather (.rest h)))
    · next e =>
      have hw := FormedGw.of (formed_writeNarrow h) e
      exact formed_settle (formed_creditBack (.ite (formed_gatherPresent hw) hw))

theorem formed_takeSlot (h : Formed s) : Formed (takeSlot s port f x) := by
  refine .ite (.rest h) ?_
  split
  · exact .rest h
  · exact .rest h
  · next e =>
    have hw := FormedGw.of (formed_writeNarrow h) e
    exact formed_settle (formed_creditBack (.ite (formed_slotPresent hw) hw))

theorem formed_takeNarrow (h : Formed s) : Formed (takeNarrow port f s) := by
  refine .ite (formed_creditBack h) (.ite (.rest h) (.ite ?_ ?_))
  · split
    · exact formed_takeGather h
    · exact formed_staleFrame h
    · exact .rest h
  · split
    · exact formed_refuseFrame h
    · split
      · exact .rest h
      · exact formed_staleFrame h
      · split
        · exact formed_takeSlot h
        · split
          · exact .rest h
          · exact .rest h
          · next e => exact formed_settle (formed_creditBack (formed_narrowTileDone (FormedGw.of (formed_writeNarrow h) e)))

theorem formed_takeTree (h : Formed s) : Formed (takeTree port f s) := by
  unfold takeTree
  refine .ite (formed_creditBack h) ?_
  refine .ite (.rest h) ?_
  split
  · split
    · exact formed_settle (formed_creditBack (.ite (formed_treeUp h) (formed_treeDown h)))
    · exact .rest h
  · exact .ite (formed_staleFrame h) (.rest h)

theorem formed_takeServe (h : Formed s) : Formed (takeServe port f s) := by
  unfold takeServe
  extract_lets _ _ _ read _ _ counted sent reported
  have hread : Formed read := .foldl (fun _ _ h => formed_detectRead h) h
  have hreported : Formed reported := .foldl (fun _ _ h => formed_sendStatus h)
    (.foldl (fun _ _ h => formed_sendRouted h) (formed_countUninit hread))
  exact .ite (.rest h) (.ite (formed_refuseFrame h) (.ite (formed_refuseFrame h) (.ite (.rest hread)
    (formed_settle (formed_creditBack (.ite (formed_sendStatus hreported) hreported))))))

theorem formed_takeStatus (h : Formed s) : Formed (takeStatus port f s) := by
  unfold takeStatus
  refine formed_creditBack ?_
  split
  · exact .rest h
  · exact h

theorem formed_takeDrop (h : Formed s) : Formed (takeDrop port f s) :=
  formed_settle (formed_joinRound (formed_learnDrop (formed_creditBack h)))

theorem formed_takeRecover (h : Formed s) : Formed (takeRecover port f s) := by
  unfold takeRecover
  split
  · exact .ite (formed_creditBack h) (.rest h)
  · split
    · exact formed_settle (formed_creditBack (.ite (formed_treeDown h) (formed_treeUp h)))
    · exact .rest h

theorem formed_inOrder (hk : ∀ t, Formed t → Formed (k t)) (h : Formed s) : Formed (inOrder port f k s) :=
  .ite (.rest h) (hk _ h)

theorem formed_takeFrame (h : Formed s) : Formed (takeFrame port f s) := by
  unfold takeFrame
  split
  · exact formed_takeWrite h
  · exact formed_takeAcc h
  · exact formed_takeAcc h
  · exact formed_takeNarrow h
  · exact formed_takeTree h
  · exact formed_takeTree h
  · exact formed_takeServe h
  · exact formed_takeStatus h
  · exact formed_takeDrop h
  · exact formed_takeRecover h
  · exact h

theorem formed_keepPlace {x : Nat × Frame} (h : Formed s) : Formed (keepPlace i n x s) :=
  .ite (.rest h) h

theorem formed_takeHeld (h : Formed s) : Formed (takeHeld port f s) :=
  .ite (formed_forward h) (formed_takeFrame h)

theorem formed_releaseHeld (h : Formed s) : Formed (releaseHeld i s) := by
  unfold releaseHeld
  split
  · exact h
  · exact .ite h (formed_keepPlace (formed_takeHeld (.rest h)))

theorem formed_laneFailure (h : Formed s) : Formed (laneFailure port lane s) :=
  .ite (formed_portOut (.rest h)) (.rest (.rest h))

theorem formed_adoptFrames (h : Formed s) : Formed (adoptFrames s port) := by
  unfold adoptFrames
  split
  · exact h
  · exact .foldl (fun _ _ h => formed_moveFrames (.rest h)) h

theorem formed_portTrained (h : Formed s) : Formed (portTrained port peer spid width s) :=
  .ite h (.ite (formed_joinRound (formed_adoptFrames (formed_sendOn (.rest (.rest (formed_undelivered (.rest h)))))))
    (.rest (.rest (.rest h))))

theorem formed_linkTimeout (h : Formed s) : Formed (linkTimeout port s) := by
  unfold linkTimeout
  split
  · exact h
  · exact .ite (formed_settle (formed_joinRound (.rest h))) h

end

/-! ### The functions of `Machine/RegMap` -/

section
variable {s : State} {r : Requester} {st : Status} {v mask : Word} {handle : HeldReg} {off k n m : Nat} {act : State → State × Status}
   {t : BitVec 4}

theorem formed_answerRead (h : Formed s) : Formed (answerRead s r st v) := by
  unfold answerRead
  split <;> exact .rest h

theorem formed_answerWrite (h : Formed s) : Formed (answerWrite s r st) := by
  unfold answerWrite
  split
  · exact .rest h
  · exact .rest h
  · exact h

theorem formed_waitReg (h : Formed s) : Formed (waitReg s handle) :=
  .ite (.rest (.rest h)) (.rest h)

theorem formed_writeReg (hact : ∀ t, Formed t → Formed (act t).1) (h : Formed s) : Formed (writeReg r off v act s) := by
  unfold writeReg
  split
  · exact formed_answerWrite h
  · exact .ite (formed_waitReg h) (formed_answerWrite (hact _ h))

theorem formed_readTenant (h : Formed s) : Formed (readTenant s t off).1 := by
  unfold readTenant
  split
  · exact h
  · exact h
  · exact h
  · exact h
  · exact .rest h
  · exact h
  · exact h
  · exact h
  · exact h

theorem formed_readHub (h : Formed s) : Formed (readHub s off).1 := by
  unfold readHub
  split
  · exact h
  · exact h
  · exact h
  · exact h
  · exact h
  · exact h
  · exact h
  · exact h
  · exact h
  · exact h
  · exact h
  · exact h
  · exact h
  · exact h
  · exact h
  · exact h
  · exact h
  · exact h
  · exact h
  · exact h
  · exact h
  · exact h
  · exact h
  · exact h
  · exact h
  · exact h
  · exact h
  · exact h
  · exact h
  · exact h
  · exact h
  · exact h
  · exact h
  · exact h
  · exact h
  · exact h
  · exact .rest h
  · exact h
  · exact h
  · exact h
  · exact .iteFst h (.iteFst h h)

theorem formed_readSync (h : Formed s) : Formed (readSync s r k off).1 := by
  unfold readSync
  split
  · exact .rest h
  · exact h
  · exact h
  · exact h

theorem formed_readSbd (h : Formed s) : Formed (readSbd s n off).1 := by
  unfold readSbd
  dsimp only
  split <;> exact h

theorem formed_readTb (h : Formed s) : Formed (readTb s m off).1 := by
  unfold readTb
  dsimp only
  split
  · exact h
  · exact h
  · exact h
  · exact .rest h
  · exact h
  · exact .rest h
  · exact h
  · exact h
  · exact h
  · exact h
  · exact h

theorem formed_regRead (h : Formed s) : Formed (regRead s r off).1 :=
  .iteFst (.rest h) (.iteFst h (.iteFst (formed_readHub h) (.iteFst h
    (.iteFst h (.iteFst h (.iteFst h (.iteFst (formed_readTenant h)
    (.iteFst h (.iteFst (formed_readSbd h) (.iteFst (formed_readTb h)
    (.iteFst h (.iteFst h (.iteFst (formed_readSync h) (.iteFst h (.iteFst h h)))))))))))))))

theorem formed_readReg {act : State → State × Word} (hact : ∀ t, Formed t → Formed (act t).1) (h : Formed s) :
    Formed (readReg r off act s) := by
  unfold readReg
  split
  · exact formed_answerRead h
  · exact .ite (formed_waitReg h) (formed_answerRead (hact _ h))

theorem formed_unitWrite (h : Formed s) : Formed (unitWrite s off v) := by
  unfold unitWrite
  refine .ite (.rest h) ?_
  refine .ite (.rest h) ?_
  refine .ite (.rest h) ?_
  refine .ite ?_ ?_
  · dsimp only
    split
    · exact .rest h
    · exact .rest h
    · exact .rest h
    · exact .rest h
    · exact h
  · refine .ite ?_ ?_
    · dsimp only
      split
      · exact .rest h
      · exact .rest h
      · exact h
    · refine .ite ?_ h
      dsimp only
      split
      · exact .rest h
      · exact .rest h
      · exact .rest h
      · exact .rest h
      · exact .rest h
      · exact h

theorem formed_storeReg (h : Formed s) : Formed (storeReg s off v mask) := by
  unfold storeReg
  split
  · exact .rest h
  · exact .ite h (formed_unitWrite h)

theorem formed_clearBits (h : Formed s) : Formed (clearBits s off v) := by
  unfold clearBits
  split
  · exact .rest h
  · exact .rest h
  · exact .rest h
  · exact .rest h
  · exact .rest h
  · exact .rest h
  · exact .rest h
  · refine .ite ?_ h
    split
    · exact .rest h
    · exact .ite (.rest h) h
    · exact .rest h
    · exact .rest h
    · exact h

end

/-! ### The functions of `Machine/CfgImage` -/

section
variable {s : State} {b : Bool} {img : List Byte} {o : Op} {g off : Nat} {v : Word} {e : RegPreset} {old new : Plane} {w : CommitWait}
   {st : Status} {r : Requester}

theorem formed_clearBank (h : Formed s) : Formed (clearBank s b) := clearBank_wf s b h

theorem formed_stageImage (h : Formed s) : Formed (stageImage s img) :=
  .rest (.rest (formed_dWrite (formed_clearBank h)))

theorem formed_stageFails (h : Formed s) : Formed (stageFails s) :=
  .rest (formed_clearBank h)

theorem formed_tryCfgStage (h : Formed s) : FormedOut (tryCfgStage s o) := by
  refine .ite trivial (.ite (.done h) ?_)
  split
  · trivial
  · next hx =>
    have ht := formed_readOperand h hx
    exact .ite (.done (formed_stageImage ht)) (.done (formed_stageFails ht))

theorem formed_tryCfgCommit (h : Formed s) : FormedOut (tryCfgCommit s o) := by
  unfold tryCfgCommit
  refine .ite trivial ?_
  refine .ite (.done h) ?_
  refine .ite (.done h) ?_
  split
  · exact .done h
  · exact .go (.rest h)

theorem formed_moveGranule (h : Formed s) : Formed (moveGranule s g) :=
  .rest (.rest (formed_freshen h))

theorem formed_setPace (h : Formed s) : Formed (setPace s v) :=
  .ite (.rest (.rest h)) (.rest h)

theorem formed_raiseSvn (h : Formed s) : Formed (raiseSvn s v) :=
  .ite (.rest h) h

theorem formed_applyPreset (h : Formed s) : Formed (applyPreset s e) :=
  .ite (formed_setPace h) (.ite (formed_raiseSvn h) (.ite (formed_idlePorts (formed_storeReg h))
    (.ite (formed_setCqHead h) (.ite (formed_setEvtHead h) (formed_storeReg h)))))

theorem formed_switchBank {old : Nat} (h : Formed s) : Formed (switchBank s old) := by
  unfold switchBank
  exact .ite (.rest h) (formed_dWrite (.rest h))

theorem formed_imagePhase (h : Formed s) : Formed (imagePhase s) :=
  .ite (.rest h) h

theorem formed_switchRings (h : Formed s) : Formed (switchRings s old new) :=
  .foldl (fun _ _ h => .ite h (.rest h)) h

theorem formed_policyQuiet (h : Formed s) : Formed (policyQuiet s old new) :=
  .ite h (.rest h)

theorem formed_switchPlanes (h : Formed s) : Formed (switchPlanes s) := by
  unfold switchPlanes
  extract_lets _ _ _ _ _ _ _ _ _ _ _ _ rung _ _ _ _ _ imaged _ _ _ marked
  have hrung : Formed rung := formed_switchRings (.foldl (fun _ _ h => .rest (.rest h))
    (.rest (.foldl (fun _ _ h => formed_moveGranule h) (.rest (.ite (.rest h) (.rest (.rest h)))))))
  have himaged : Formed imaged := .ite (formed_imagePhase (.rest (formed_switchBank (.ite (.rest hrung) (.rest (.rest hrung))))))
    (.ite (.rest hrung) (.rest (.rest hrung)))
  have hmarked : Formed marked := .ite (.ite (.rest himaged) himaged) (.rest (.ite (.rest himaged) himaged))
  exact .rest (.foldl (fun _ _ h => formed_applyPreset h) (formed_policyQuiet hmarked))

theorem formed_planeWrite (h : Formed s) : Formed (planeWrite s off v) :=
  .ite (.ite (.rest h) h) (.rest h)

theorem formed_releaseWrites (h : Formed s) : Formed (releaseWrites s) :=
  .ite h (.foldl (fun _ _ h => formed_answerWrite (formed_planeWrite h)) (.rest h))

theorem formed_endCommit (h : Formed s) : Formed (endCommit s w st) := by
  unfold endCommit
  refine formed_settle ?_
  refine formed_releaseWrites ?_
  dsimp only
  split
  · exact formed_finishOp (.rest h)
  · exact .rest h

theorem formed_quietSwitch (h : Formed s) : Formed (quietSwitch s) := by
  unfold quietSwitch
  split
  · exact h
  · exact .ite (formed_dropIdle (formed_serveHeld (formed_endCommit (formed_switchPlanes h)))) h

theorem formed_quietTimeout (h : Formed s) : Formed (quietTimeout s) := by
  unfold quietTimeout
  split
  · exact h
  · exact .ite h (formed_endCommit h)

theorem formed_planeRegWrite (h : Formed s) : Formed (planeRegWrite r off v s) :=
  .ite (.ite (.rest (.rest h)) (.rest h)) (formed_writeReg (fun _ h => formed_planeWrite h) h)

theorem formed_lkDropped (h : Formed s) : Formed (lkDropped s off) :=
  formed_raiseEventFree (.rest h)

theorem formed_setLeadCfg (h : Formed s) : Formed (setLeadCfg s v) :=
  .ite (formed_lkDropped h) (.rest h)

theorem formed_setMinSvn (h : Formed s) : Formed (setMinSvn s v) :=
  .ite (formed_lkDropped h) (formed_raiseSvn h)

end

/-! ### The functions of `Machine/Pim` -/

section
variable {s : State} {c len : Nat} {handle : Word} {hold bad : Bool} {o : Op} {r : PipRun}

theorem formed_writeRowOp {e : PipEnv} {x : Nat} {a : Atom} {w : Nat × BitVec 8192} (h : Formed a.s) :
    Formed (writeRowOp e x a w).s := by
  unfold writeRowOp
  split
  · exact .marks h
  · split <;> exact h

theorem formed_writeBanks {e : PipEnv} {w : DWord} {x : Nat} {vals : List (Nat × BitVec 8192)} {a : Atom} (h : Formed a.s) :
    Formed (writeBanks e w x vals a).s := by
  unfold writeBanks
  induction vals.filter _ generalizing a with
  | nil => exact h
  | cons v l ih => exact ih (formed_writeRowOp h)

theorem formed_activateSource {e : PipEnv} {a : Atom} {w : DWord} (h : Formed a.s) : Formed (activateSource e a w).s := by
  unfold activateSource
  split
  · split
    · exact .foldl (fun _ _ h => formed_activateRow h) h
    · exact h
  · exact h

theorem formed_pipWord {e : PipEnv} {a : Atom} {w : DWord} (h : Formed a.s) : Formed (pipWord e a w).s := by
  have ha : Formed (activateSource e a w).s := formed_activateSource h
  unfold pipWord
  dsimp only
  split
  · exact formed_writeBanks ha
  · exact formed_writeBanks (formed_writeBanks (formed_writeBanks (formed_writeBanks ha)))
  · exact formed_writeBanks (formed_writeBanks ha)
  · exact formed_writeBanks ha
  · exact formed_writeBanks ha
  · exact ha

theorem formed_heatMode (h : Formed s) : Formed (heatMode s c) :=
  .ite (.ite (.rest h) (.ite (.rest h) h)) h

theorem formed_pimOver (h : Formed s) : Formed (pimOver s handle) := by
  unfold pimOver
  refine .ite h ?_
  split
  · exact formed_finishOp h
  · exact h

theorem formed_pimPoisoned (h : Formed s) : Formed (pimPoisoned s c handle) :=
  .rest (.foldl (fun _ _ h => formed_raiseEventOpen h) (.rest h))

theorem formed_leaveRun (h : Formed s) : Formed (leaveRun s c hold) :=
  .rest (.ite (.rest h) (formed_catchUp (.rest h)))

theorem formed_startOn (h : Formed s) : Formed (startOn handle hold s c) :=
  .ite (formed_pimPoisoned h) (formed_heatMode (formed_boundaryRefs (.rest h)))

theorem formed_tryPimRun (h : Formed s) : FormedOut (tryPimRun s o) :=
  .ite (.done h) (.ite trivial (.ite trivial (.go (formed_pimOver (.foldl (fun _ _ h => formed_startOn h) (.rest h))))))

theorem formed_boundaryWait (h : Formed s) : Formed (boundaryWait s c) :=
  .ite (.rest (.rest (.rest h))) (.ite (.rest (.rest (.rest h))) (.rest h))

theorem formed_afterAtom (h : Formed s) : Formed (afterAtom s c r len bad) := by
  refine formed_settle (formed_serveHeld (formed_pimOver (.ite ?_ (.ite ?_ ?_))))
  · exact formed_leaveRun (formed_pimPoisoned (.rest h))
  · exact formed_heatMode (formed_boundaryWait (.rest (formed_boundaryRefs (.rest h))))
  · exact formed_leaveRun (.rest h)

theorem formed_stopRun (h : Formed s) : Formed (stopRun s c) := by
  unfold stopRun
  split
  · exact formed_pimOver (formed_leaveRun (formed_pimPoisoned h))
  · exact h

theorem formed_pipWords {e : PipEnv} {l : List DWord} {a : Atom} (h : Formed a.s) : Formed (l.foldl (pipWord e) a).s := by
  induction l generalizing a with
  | nil => exact h
  | cons w l ih => exact ih (formed_pipWord h)

theorem formed_atomComplete {c : Nat} (h : Formed s) : Formed (atomComplete c s) := by
  unfold atomComplete
  split
  · exact h
  · split
    · exact h
    · exact .ite h (formed_afterAtom (formed_pipWords (.rest (.rest (.rest h)))))

theorem formed_yieldTimeout (h : Formed s) : Formed (yieldTimeout c s) :=
  .ite (.rest h) h

end

/-! ### The functions of `Machine/Channels` -/

section
variable {s : State} {c b ch row bank k chunk q g : Nat} {lanes : List Nat} {attempt : Attempt} {temp : BitVec 8} {l : CacheLine}
   {handle : Word} {id code : BitVec 16} {off : BitVec 20} {u : Upset} {upsets : List Upset} {fails repairable : Bool}

theorem formed_failChannel (h : Formed s) : Formed (failChannel s c) :=
  formed_stopRun (.rest (.rest (.rest (.rest h))))

theorem formed_retrainEnd (h : Formed s) : Formed (retrainEnd s c lanes) :=
  .ite (formed_failChannel (.rest (.rest (.rest (.rest h))))) (.rest (.rest (.rest (.rest h))))

theorem formed_parityRetry (h : Formed s) : Formed (parityRetry c attempt s) := by
  unfold parityRetry
  refine .ite h ?_
  split
  · exact .ite h (.ite (.rest h) (.rest h))
  · exact .ite h (.rest h)
  · exact .ite (formed_settle (formed_serveHeld (formed_retrainEnd h))) h

theorem formed_refreshBank (h : Formed s) : Formed (refreshBank c b s) :=
  .ite h (.ite (.rest h) (.rest h))

theorem formed_setTemp (h : Formed s) : Formed (setTemp temp s c) :=
  formed_heatMode (.rest h)

theorem formed_patrolSector (h : Formed s) : Formed (patrolSector ch row bank s k) := by
  unfold patrolSector
  refine .ite h ?_
  refine .ite (formed_readIdle h) ?_
  refine .ite (.ite (.rest (formed_activateSector h)) (formed_activateSector h)) ?_
  split
  · exact formed_readStored h
  · exact formed_readIdle h

theorem formed_cacheUpset (h : Formed s) : Formed (cacheUpset s l k) :=
  .ite (formed_poisonGranule (.rest h)) (.ite (.rest h) (.rest (.rest (.rest h))))

theorem formed_adderUpset (h : Formed s) : Formed (adderUpset s chunk) := by
  unfold adderUpset
  refine .ite h ?_
  split
  · exact .rest (.rest (formed_dWrite h))
  · exact h

theorem formed_reorderUpset (h : Formed s) : Formed (reorderUpset s handle) :=
  .ite h (.rest (.rest (.rest h)))

theorem formed_pushUpset (h : Formed s) : Formed (pushUpset s q id off) :=
  .ite (.rest (.rest (.rest h))) h

theorem formed_writeSetUpset (h : Formed s) : Formed (writeSetUpset s g) := by
  unfold writeSetUpset
  split
  · exact formed_raiseEventOpen (.rest (.rest (.rest h)))
  · exact h

theorem formed_upset (h : Formed s) : Formed (upset s u) := by
  unfold upset
  split
  · exact .ite (.marks h) h
  · exact .rest h
  · split
    · exact formed_cacheUpset h
    · exact h
  · exact formed_writeSetUpset h
  · exact formed_adderUpset h
  · exact formed_reorderUpset h
  · exact formed_pushUpset h
  · exact .ite h (formed_countCorrected h)

theorem formed_patrolRead (h : Formed s) : Formed (patrolRead ch row bank upsets s) :=
  .ite (formed_settle (.foldl (fun _ _ h => formed_upset h) h))
    (formed_settle (.foldl (fun _ _ h => formed_patrolSector h) (.foldl (fun _ _ h => formed_upset h) h)))

theorem formed_refetchDeadline (h : Formed s) : Formed (refetchDeadline g s) := by
  unfold refetchDeadline
  refine .ite ?_ h
  refine formed_settle ?_
  refine formed_serveHeld ?_
  split
  · exact formed_raiseUe (.rest (.rest (.rest h)))
  · exact .rest (.rest (.rest h))

theorem formed_raiseGroup (h : Formed s) : Formed (raiseGroup s k code) :=
  .foldl (fun _ _ h => formed_raiseEventFree h) h

theorem formed_dropModule (h : Formed s) : Formed (dropModule s k) :=
  .ite (.ite (.rest (.marks h)) (.rest (.rest (.marks h)))) (.marks h)

theorem formed_moduleOut (h : Formed s) : Formed (moduleOut s k) :=
  formed_raiseGroup (.rest (.rest (formed_dropModule (.rest h))))

theorem formed_transportReplay (h : Formed s) : Formed (transportReplay k fails s) :=
  .ite h (.ite (.rest h) (.ite (formed_moduleOut h) (.rest h)))

theorem formed_releaseCpl (h : Formed s) : Formed (releaseCpl s) :=
  .foldl (fun _ _ h => formed_cplWrite h) (.rest h)

theorem formed_groupResetOver (h : Formed s) : Formed (groupResetOver s g) :=
  .ite (.rest h) h

theorem formed_moduleTrained (h : Formed s) : Formed (moduleTrained k repairable s) :=
  .ite h (.ite (formed_groupResetOver (.rest (.rest (.rest h))))
    (formed_groupResetOver (.ite (formed_raiseGroup (formed_releaseCpl (.rest h))) (formed_releaseCpl (.rest h)))))

end

/-! ### The functions of `Machine/Recovery` -/

section
variable {s : State} {n by_ e off u l : Nat} {b parityOk : Bool} {expect : Word} {act : State → State} {reach : BitVec 16}
  {c : ShardCfg}
   {x : Nat × ShardCfg} {stepNo : DWord} {kept : Option (List Word)} {r : StepRun} {v view : RestartView} {g : Txg} {ops : List Nat}
   {st : Status}

theorem formed_holdBy (h : Formed s) : Formed (holdBy s n by_) :=
  .ite (formed_raiseAll (.rest (.rest (.rest h)))) (.rest (.rest h))

theorem formed_grantTo (h : Formed s) : Formed (grantTo s n by_) :=
  formed_holdBy (.rest h)

theorem formed_claimLease (h : Formed s) : Formed (claimLease b expect s) :=
  .ite (formed_grantTo h) h

theorem formed_renewLease (h : Formed s) : Formed (renewLease b expect s) :=
  .ite (.rest h) h

theorem formed_releaseLease (h : Formed s) : Formed (releaseLease b expect s) :=
  .ite (.rest (.rest h)) h

theorem formed_cupuleRequest (hact : ∀ t, Formed t → Formed (act t)) (h : Formed s) : Formed (cupuleRequest b parityOk act s) :=
  .ite h (.ite (.rest h) (hact _ h))

theorem formed_leaseExpiry (h : Formed s) : Formed (leaseExpiry s) :=
  .ite h (formed_cupuleRequest (fun _ h => formed_claimLease h) (.rest h))

theorem formed_acornProbe (h : Formed s) : Formed (acornProbe b reach s) :=
  .ite h (.ite (.ite (formed_releaseLease (.rest (.rest h))) (.rest (.rest h))) (.rest h))

theorem formed_setFatal (h : Formed s) : Formed (setFatal s) :=
  formed_settle (formed_serveHeld (.rest (formed_dropOut (.rest (.rest (.foldl (fun _ _ h => formed_catchUp h) (.rest h)))))))

theorem formed_hubFatal (h : Formed s) : Formed (hubFatal s) :=
  .ite (formed_setFatal h) h

theorem formed_walkEntry (h : Formed s) : Formed (walkEntry n c s e) := by
  unfold walkEntry
  extract_lets _ read _ _
  have hread : Formed read := .ite (formed_reach h) h
  exact .ite (.ite (.ite (formed_dWrite (formed_dueRepair hread)) (formed_raiseUe (formed_haltShard hread))) (formed_undoRestore hread))
    (.ite (formed_dWrite hread) hread)

theorem formed_walkShard (h : Formed s) : Formed (walkShard s x) :=
  .ite (.ite (.rest (.foldl (fun _ _ h => formed_walkEntry h) h)) (.foldl (fun _ _ h => formed_walkEntry h) h)) h

theorem formed_walkUndo (h : Formed s) : Formed (walkUndo s) :=
  .foldl (fun _ _ h => formed_walkShard h) h

theorem formed_resumeSweep (h : Formed s) : Formed (resumeSweep s n c stepNo kept) :=
  .ite (.rest (.rest h)) h

theorem formed_rerunShard {r : StepRun} {v : Verdict} (h : Formed s) : Formed (rerunShard r v s n) := by
  unfold rerunShard
  refine .ite h ?_
  split
  · exact h
  · extract_lets _ _ _ clean
    have hclean : Formed clean := formed_shardClean (.rest (.rest h))
    exact .ite (formed_startOutcomeSweep hclean) (.ite (formed_resumeSweep (formed_startOutcomeSweep hclean)) hclean)

theorem formed_recoverRun (h : Formed s) : Formed (recoverRun s r) := by
  unfold recoverRun
  split
  · exact .ite h (.foldl (fun _ _ h => formed_rerunShard h) h)
  · exact .ite (formed_abandonRun h) h

theorem formed_recoverTxg (h : Formed s) : Formed (recoverTxg s g) := by
  unfold recoverTxg
  refine .ite (formed_applyGroup h) ?_
  dsimp only
  split
  · exact formed_finishOp (formed_discardGroup h)
  · exact formed_discardGroup h

theorem formed_endOps (h : Formed s) : Formed (endOps s ops st) :=
  .foldl (fun _ _ h => formed_finishOp h) h

theorem formed_abortCommits (h : Formed s) : Formed (abortCommits s) := by
  unfold abortCommits
  refine formed_endOps ?_
  split
  · exact formed_endCommit h
  · exact h

theorem formed_abortMoves (h : Formed s) : Formed (abortMoves s) :=
  .foldl (fun _ _ h => formed_finishOp h) (.rest h)

theorem formed_dropRuns (h : Formed s) : Formed (dropRuns s) :=
  .ite (.foldl (fun _ _ h => formed_abandonRun h) h) h

theorem formed_abortPims (h : Formed s) : Formed (abortPims s) :=
  .foldl (fun _ _ h => formed_finishOp h) (.rest (.rest h))

theorem formed_leaderRecovery (h : Formed s) : Formed (leaderRecovery s) :=
  formed_dropRuns (formed_abortPims (formed_abortMoves (formed_abortCommits (.foldl (fun _ _ h => formed_recoverTxg h)
    (.foldl (fun _ _ h => formed_recoverRun h) (formed_walkUndo h))))))

theorem formed_finishRecover (h : Formed s) : Formed (finishRecover s) :=
  formed_settle (formed_serveHeld (.rest (.rest (.rest (formed_leaderRecovery (.ite (.rest h) h))))))

theorem formed_restartAcorns (h : Formed s) : Formed (restartAcorns v s) := by
  have hclaim : ∀ (b : Bool) (e : Word) (t : State), Formed t → Formed (cupuleRequest b true (claimLease b e) t) :=
    fun _ _ _ h => formed_cupuleRequest (fun _ h => formed_claimLease h) h
  exact .ite (hclaim _ _ _ (hclaim _ _ _ (.rest h))) (hclaim _ _ _ (hclaim _ _ _ (.rest h)))

theorem formed_hubRecover (h : Formed s) : Formed (hubRecover v s) :=
  .ite h (.ite (formed_finishRecover (formed_restartAcorns (.rest (.ite (.rest (.rest h)) h))))
    (formed_restartAcorns (.rest (.ite (.rest (.rest h)) h))))

theorem formed_i3cWrite {r : Requester} (hact : ∀ t, Formed t → Formed (act t)) (h : Formed s) : Formed (i3cWrite r off act s) := by
  unfold i3cWrite
  split
  · exact formed_answerWrite h
  · exact formed_answerWrite (hact _ h)
  · exact h

theorem formed_recoverCtrl {r : Requester} {v : Word} (h : Formed s) : Formed (recoverCtrl r v view s) :=
  formed_i3cWrite (fun _ h => .ite (formed_hubRecover h) h) h

theorem formed_reportedEpoch (h : Formed s) : Formed (reportedEpoch s).1 :=
  .iteFst (.rest h) h

theorem formed_endDeferent (h : Formed s) : Formed (endDeferent s b by_) :=
  .ite (.rest (.rest (.rest (formed_reportedEpoch h))))
    (.ite (formed_finishRecover (formed_holdBy (.rest (.rest (formed_reportedEpoch h)))))
      (formed_holdBy (.rest (.rest (formed_reportedEpoch h)))))

theorem formed_leadCommand {v : Word} (h : Formed s) : Formed (leadCommand v s) :=
  .ite h (.ite (.ite (formed_endDeferent h) h) (.ite h (formed_grantTo h)))

theorem formed_endWork (h : Formed s) : Formed (endWork s st) :=
  formed_serveHeld (formed_releaseWrites (.foldl (fun _ _ h => formed_stopOp h)
    (.rest (.rest (.rest (.rest (.foldl (fun _ _ h => formed_shardClean h) (.rest h))))))))

theorem formed_endAll (h : Formed s) : Formed (endAll s st) :=
  formed_endWork (.foldl (fun _ _ h => formed_abandonRun h) h)

theorem formed_unitFailure (h : Formed s) : Formed (unitFailure u s) := by
  unfold unitFailure
  extract_lets failed recorded
  have hrecorded : Formed recorded := .rest (.rest (.rest (.rest h)))
  exact .ite h (.ite (formed_dropSelf hrecorded) (.ite (formed_settle (formed_endAll (formed_dropSelf hrecorded)))
    (.ite (formed_settle (formed_releaseWrites (formed_endOps (formed_abortCommits hrecorded))))
      (.ite (.rest (.rest hrecorded)) hrecorded))))

theorem formed_spineFailure (h : Formed s) : Formed (spineFailure l s) :=
  .ite h (.ite (formed_dropSelf (.rest h)) (.rest h))

end

/-! ### The functions of `Machine/Resets` -/

section
variable {s : State} {r : Requester} {k die c u g p t : Nat} {v : Word} {view : Option RestartView} {found : List (SpineLink × Nat)}
   {f : FlashView} {slot loaded sizesOk ucie hz : Bool} {lanes f0 f1 : List Nat} {passes : BitVec 3}

theorem formed_coldReset : Formed (coldReset s) := Memory.wf_reset

theorem formed_endDecided {r : StepRun} (h : Formed s) : Formed (endDecided s r) := by
  unfold endDecided
  split
  · exact .ite (formed_finishOp h) h
  · exact h

theorem formed_warmEnd (h : Formed s) : Formed (warmEnd s) :=
  formed_endWork (.rest (.foldl (fun _ _ h => formed_endDecided h) (.foldl (fun _ _ h => formed_abandonRun h) h)))

theorem formed_warmClear (h : Formed s) : Formed (warmClear s) := by
  have hc : Formed (flushLines s fun _ => true) := formed_flushLines h
  unfold Formed at hc ⊢
  rw [Memory.wf_iff] at hc ⊢
  exact ⟨hc.1, rfl⟩

theorem formed_stopBoot (h : Formed s) : Formed (stopBoot k s) :=
  formed_setFatal (.rest (.rest h))

theorem formed_warmReset {v : RestartView} (h : Formed s) : Formed (warmReset v s) :=
  .ite h (.ite formed_coldReset (.ite (formed_restartAcorns (formed_warmClear (formed_warmEnd h)))
    (formed_stopBoot (formed_restartAcorns (formed_warmClear (formed_warmEnd h))))))

theorem formed_resetCtrl (h : Formed s) : Formed (resetCtrl r v view s) := by
  unfold resetCtrl
  refine .ite formed_coldReset ?_
  refine formed_i3cWrite (fun _ h => ?_) h
  refine .ite ?_ h
  split
  · exact formed_warmReset h
  · exact formed_warmReset (.rest (.rest (.rest (.rest (.rest h)))))

theorem formed_resetRelease (h : Formed s) : Formed (resetRelease found s) :=
  .ite (.ite (.rest (.rest (.rest (.rest h)))) (.rest h)) (.ite (.rest h) h)

theorem formed_startAcorns (h : Formed s) : Formed (startAcorns f slot s) :=
  .ite (formed_stopBoot (.rest (.rest h))) (.rest (.rest h))

theorem formed_firmwareBoot (h : Formed s) : Formed (firmwareBoot f s) := by
  unfold firmwareBoot
  refine .ite h ?_
  refine .ite (formed_stopBoot h) ?_
  split
  · exact formed_stopBoot h
  · exact formed_startAcorns h

theorem formed_sproutLoad (h : Formed s) : Formed (sproutLoad die loaded s) :=
  .ite h (.ite (.rest h) (.rest (.rest (.rest (.rest h)))))

theorem formed_channelTraining (h : Formed s) : Formed (channelTraining c lanes s) :=
  .ite h (.ite (.rest (.rest (.rest (formed_failChannel (.rest (.rest h)))))) (.rest (.rest (.rest h))))

theorem formed_markLpFailed (h : Formed s) : Formed (markLpFailed s c) :=
  .ite (.rest (.rest h)) (.rest h)

theorem formed_lpTraining (h : Formed s) : Formed (lpTraining f0 f1 sizesOk passes s) := by
  unfold lpTraining
  refine .ite h ?_
  dsimp only
  split
  · exact .rest (.rest (.rest (.rest h)))
  · exact .rest (.rest (.rest (.ite (.foldl (fun _ _ h => formed_markLpFailed h) (.rest (.rest (.rest (.rest h)))))
      (.rest (.rest (.rest (.rest h)))))))

theorem formed_ueSelftest {passes : Bool} (h : Formed s) : Formed (ueSelftest u passes s) :=
  .ite h (.rest h)

theorem formed_rebuildLive (h : Formed s) : Formed (rebuildLive s) :=
  .ite (.rest (.rest (.rest (.rest h)))) (.rest (.rest h))

theorem formed_carryOn {r : StepRun} (h : Formed s) : Formed (carryOn s r) :=
  formed_resendNarrow (formed_recoverRun h)

theorem formed_warmFinish (h : Formed s) : Formed (warmFinish s) :=
  .rest (.rest (.foldl (fun _ _ h => formed_recoverTxg h) (.foldl (fun _ _ h => formed_carryOn h)
    (.rest (formed_walkUndo (.foldl (fun _ _ h => formed_applyPreset h) (formed_rebuildLive (.rest h))))))))

theorem formed_bootReady (h : Formed s) : Formed (bootReady s) := by
  unfold bootReady
  extract_lets _ spined joined
  have hspined : Formed spined := .ite (.rest (.rest (.rest h))) h
  have hjoined : Formed joined := .ite hspined (.rest (.rest (.rest hspined)))
  exact .ite h (formed_settle (formed_serveHeld (.ite (formed_warmFinish hjoined) (.rest hjoined))))

theorem formed_setKeep (h : Formed s) : Formed (setKeep v s) :=
  .ite (formed_dropSelf (formed_idlePorts (.rest h))) (formed_idlePorts (.rest h))

theorem formed_keepWrite (h : Formed s) : Formed (keepWrite r v s) :=
  formed_writeReg (fun _ h => formed_setKeep h) h

theorem formed_resetGroup (h : Formed s) : Formed (resetGroup g s) :=
  .rest (.rest (.rest (.foldl (fun _ _ h => formed_dropModule (.rest h)) h)))

theorem formed_resetHazel (h : Formed s) : Formed (resetHazel p s) :=
  .ite (.rest (.rest h)) (.rest h)

theorem formed_portReset (h : Formed s) : Formed (portReset t s) :=
  .ite h (.ite (formed_resetGroup h) (.ite (formed_resetHazel h) h))

theorem formed_portResetWrite (h : Formed s) : Formed (portResetWrite r v s) := by
  unfold portResetWrite
  split
  · exact formed_answerWrite h
  · exact formed_portReset (formed_answerWrite h)

theorem formed_requestRetain (h : Formed s) : Formed (requestRetain s) :=
  .ite h (.ite (.rest (.rest h)) (formed_settle (formed_serveHeld (.rest (.rest (.foldl (fun _ _ h => formed_catchUp h) (.rest h)))))))

theorem formed_retainEntry (h : Formed s) : Formed (retainEntry s) := by
  refine .ite h (.rest (formed_idlePorts (.rest (.rest (.rest (.rest (.rest (formed_flushLines ?_))))))))
  exact (Memory.wf_iff _).2 ⟨((Memory.wf_iff _).1 h).1, rfl⟩

theorem formed_retainRefuse (h : Formed s) : Formed (retainRefuse s) :=
  .ite (formed_settle (.rest (.rest h))) h

theorem formed_writeAllPending (h : Formed s) : Formed (writeAllPending s t) :=
  .foldl (fun _ _ h => formed_writePending h) h

theorem formed_wake {v : RestartView} (h : Formed s) : Formed (wake v s) := by
  unfold wake
  extract_lets _ _ _ _ _ _ _ _ pending _
  have hpending : Formed pending := .foldl (fun _ _ h => formed_writeAllPending h)
    (.rest (.rest (formed_rebuildLive (.rest (formed_restartAcorns (.rest h))))))
  exact .ite h (.ite formed_coldReset (formed_settle (formed_serveHeld (.ite hpending (formed_setFatal hpending)))))

theorem formed_setPower (h : Formed s) : Formed (setPower r v view s) := by
  unfold setPower
  refine .ite ?_ (.ite (formed_requestRetain (.rest h)) (.rest h))
  split
  · exact formed_wake (.rest h)
  · exact formed_wake (.rest (.rest (.rest (.rest (.rest (.rest h))))))

theorem formed_powerWrite (h : Formed s) : Formed (powerWrite r v view s) :=
  formed_writeReg (fun _ h => .iteFst h (formed_setPower h)) h

theorem formed_railRemoval (h : Formed s) : Formed (railRemoval ucie hz s) := by
  unfold railRemoval
  extract_lets _ down _
  have hdown : Formed down := .ite (.foldl (fun _ _ h => .ite (formed_dropModule (.rest h)) h) (.rest h)) (.rest h)
  exact .ite h (.ite formed_coldReset (.ite (.rest hdown) hdown))

theorem formed_l1Entry (h : Formed s) : Formed (l1Entry g s) :=
  .ite (.rest h) h

theorem formed_l1Exit (h : Formed s) : Formed (l1Exit g s) :=
  formed_releaseCpl (.rest h)

end

/-! ### The functions of `Machine/Power` -/

section
variable {s : State} {short long pip : BitVec 16} {draw : List Nat} {d : Nat}

theorem formed_powerEstimate (h : Formed s) : Formed (powerEstimate short long draw pip s) :=
  .ite (.rest h) (.rest (.rest (.rest (.rest (.ite (.foldl (fun _ _ h => .rest (.rest h)) (.rest h)) (.rest h))))))

theorem formed_throttle (h : Formed s) : Formed (throttle d s) :=
  .ite h (formed_raiseAll (.rest (.rest (.rest h))))

end

/-! ### The functions of `Machine/Husk` -/

section
variable {s : State} {l : List HuskSample} {flags crc : Word} {b block : List Byte} {cfgEn cut late : Bool}
  {f : State → State × List Byte}
   {n : Nat}

theorem formed_huskSample (h : Formed s) : Formed (huskSample l s) :=
  .ite h (.ite (.rest h) (.rest (.rest h)))

theorem formed_closeInterval (h : Formed s) : Formed (closeInterval flags s) :=
  .ite (.rest h) (.rest (.rest h))

theorem formed_intervalClose (h : Formed s) : Formed (intervalClose s) :=
  .ite (.rest (formed_closeInterval h)) h

theorem formed_occupancyRecord (h : Formed s) : Formed (occupancyRecord b s) :=
  .ite h (.ite (.rest h) (.rest h))

theorem formed_romCheck (h : Formed s) : Formed (romCheck crc s) :=
  .ite (.rest h) (.rest (.rest (formed_closeInterval (.rest h))))

theorem formed_pfail (h : Formed s) : Formed (pfail s) :=
  .ite h (.rest (.ite (.rest h) (formed_closeInterval (.rest h))))

theorem formed_recoverCut (h : Formed s) : Formed (recoverCut s) :=
  formed_closeInterval (.rest h)

theorem formed_huskPowerUp (h : Formed s) : Formed (huskPowerUp crc cfgEn cut late s) :=
  .ite h (.rest (formed_romCheck (.ite (.rest (.rest (.ite (formed_recoverCut (.rest h)) (.rest (.rest h)))))
    (.rest (.ite (formed_recoverCut (.rest h)) (.rest (.rest h)))))))

theorem formed_mirrorSnapshot (h : Formed s) : Formed (mirrorSnapshot s) :=
  .ite h (.rest (.rest h))

theorem formed_huskReply (hf : ∀ t, Formed t → Formed (f t).1) (h : Formed s) : Formed (huskReply f s) :=
  .ite h (.rest (hf _ h))

theorem formed_huskAck (h : Formed s) : Formed (huskAck n s).1 :=
  .iteFst h (.ite (.rest (formed_closeInterval (.rest h))) (.rest h))

theorem formed_huskConfig (h : Formed s) : Formed (huskConfig block s).1 :=
  .iteFst (.rest (.rest (.ite h (formed_closeInterval h)))) (.rest h)

end

/-! ### The functions of `Machine/Test` -/

section
variable {s : State} {l : List Nat} {st result off n m run errors d lane : Nat} {code : BitVec 8} {act start : State → State}
  {c : CoreId}
   {r : MarginRun} {ok : Bool} {req : Requester} {v : Word}

theorem formed_releaseChannels (h : Formed s) : Formed (releaseChannels s l) :=
  formed_settle (formed_serveHeld (.rest h))

theorem formed_leaveStack (h : Formed s) : Formed (leaveStack st s) :=
  formed_releaseChannels (.foldl (fun _ _ h => formed_retrainEnd h) h)

theorem formed_loadIr (hact : ∀ t, Formed t → Formed (act t)) (h : Formed s) : Formed (loadIr code act s) :=
  .ite formed_coldReset (.ite (formed_leaveStack (.ite (.rest h) (hact _ (.rest h)))) (.ite (.rest h) (hact _ (.rest h))))

theorem formed_testCore (h : Formed s) : Formed (testCore s c) := by
  unfold testCore
  dsimp only
  split
  · exact .rest (.rest h)
  · exact .rest (.rest (.rest h))
  · exact .rest (formed_flushLines (.rest h))
  · exact .rest h

theorem formed_tapResets (h : Formed s) : Formed (tapResets s) :=
  .ite formed_coldReset (.ite (formed_leaveStack (.rest h)) (.rest h))

theorem formed_beginRun (h : Formed s) : Formed (beginRun r result s) := by
  unfold beginRun
  refine .rest ?_
  split
  · exact .rest (.rest (.rest h))
  · exact .rest (.rest h)

theorem formed_startRun (h : Formed s) : Formed (startRun r ok result s) :=
  .ite (.rest h) (formed_beginRun h)

theorem formed_marginWrite (hstart : ∀ t, Formed t → Formed (start t)) (h : Formed s) : Formed (marginWrite req off v start s) :=
  formed_writeReg (fun _ h => .ite (hstart _ (formed_storeReg h)) (formed_storeReg h)) h

theorem formed_sbdMargin (h : Formed s) : Formed (sbdMargin req n v s) :=
  formed_marginWrite (fun _ h => formed_startRun h) h

theorem formed_startUmargin (h : Formed s) : Formed (startUmargin n m result s) :=
  .ite (.rest h) (formed_startRun h)

theorem formed_sbdUmargin (h : Formed s) : Formed (sbdUmargin req n v s) :=
  formed_marginWrite (fun _ h => formed_startUmargin h) h

theorem formed_tbMargin (h : Formed s) : Formed (tbMargin req m v s) := by
  unfold tbMargin
  exact formed_marginWrite (fun _ h => formed_startRun h) h

theorem formed_marginRunEnd (h : Formed s) : Formed (marginRunEnd run errors s) := by
  unfold marginRunEnd
  split
  · exact h
  · refine formed_releaseChannels ?_
    split
    · exact .ite (.rest (.rest h)) (formed_releaseCpl (.rest (.rest (.rest h))))
    · exact .rest (.rest h)

theorem formed_retireLane (h : Formed s) : Formed (retireLane d v s) :=
  .ite (.rest h) (.ite h (.ite (.rest h) (.rest h)))

theorem formed_retireWrite (h : Formed s) : Formed (retireWrite req d v s) :=
  formed_marginWrite (fun _ h => formed_retireLane h) h

theorem formed_testStep (h : Formed s) : Formed (testStep d lane s) := by
  unfold testStep
  split <;> exact .rest (.rest h)

theorem formed_testLane (h : Formed s) : Formed (testLane d v s) :=
  .ite h (.ite (.rest h) (.ite h (.ite (formed_testStep (.ite (.rest h) h)) (.ite (.rest h) h))))

theorem formed_rngTestWrite (h : Formed s) : Formed (rngTestWrite req d v s) := by
  unfold rngTestWrite
  exact formed_writeReg (fun _ h => formed_testLane (formed_clearBits (formed_storeReg h))) h

end

/-! ### The functions of `Machine/Registers` -/

section
variable {s : State} {r : Requester} {off q t k : Nat} {v : Word}

theorem formed_readAny (h : Formed s) : Formed (readAny r off s) :=
  formed_readReg (fun _ h => formed_regRead h) h

theorem formed_cqHeadReg (h : Formed s) : Formed (cqHeadReg r q v s) :=
  formed_writeReg (fun _ h => formed_setCqHead h) h

theorem formed_sqTailReg (h : Formed s) : Formed (sqTailReg r q v s) :=
  formed_writeReg (fun _ h => formed_doorbell h) h

theorem formed_clearBadDb (h : Formed s) : Formed (clearBadDb r q v s) :=
  formed_writeReg (fun _ h => .ite (.rest h) h) h

theorem formed_doorbellReg (h : Formed s) : Formed (doorbellReg r off v s) := by
  unfold doorbellReg
  dsimp only
  split
  · exact formed_sqTailReg h
  · exact formed_cqHeadReg h
  · exact formed_clearBadDb h
  · exact formed_writeReg (fun _ h => h) h

theorem formed_evtHeadReg (h : Formed s) : Formed (evtHeadReg r t v s) :=
  formed_writeReg (fun _ h => formed_setEvtHead h) h

theorem formed_syncAddReg (h : Formed s) : Formed (syncAddReg r k v s) :=
  formed_writeReg (fun _ h => formed_settle (formed_syncAdd h)) h

theorem formed_setLoReg (h : Formed s) : Formed (setLoReg r k v s) :=
  formed_writeReg (fun _ h => .rest h) h

theorem formed_setHigh (h : Formed s) : Formed (setHigh r k v s) :=
  formed_settle (formed_syncSet (.rest h))

theorem formed_setHiReg (h : Formed s) : Formed (setHiReg r k v s) :=
  formed_writeReg (fun _ h => formed_setHigh h) h

theorem formed_syncReg (h : Formed s) : Formed (syncReg r off v s) := by
  unfold syncReg
  dsimp only
  split
  · exact formed_syncAddReg h
  · exact formed_setLoReg h
  · exact formed_setHiReg h
  · exact formed_writeReg (fun _ h => h) h

theorem formed_setNumSel (h : Formed s) : Formed (setNumSel v s) :=
  .ite (.rest (.rest h)) (.rest h)

theorem formed_numSelReg (h : Formed s) : Formed (numSelReg r v s) :=
  formed_writeReg (fun _ h => .iteFst (formed_setNumSel h) h) h

theorem formed_hubReg (h : Formed s) : FormedOpt (hubReg r off v s) := by
  unfold hubReg
  split
  · exact .some (formed_planeRegWrite h)
  · exact .some (formed_writeReg (fun _ h => formed_setMinSvn h) h)
  · exact .some (formed_resetCtrl h)
  · exact .some (formed_portResetWrite h)
  · exact .some (formed_keepWrite h)
  · exact .some (formed_numSelReg h)
  · exact .some (formed_writeReg (fun _ h => formed_setPace h) h)
  · exact .some (formed_powerWrite h)
  · exact .some (formed_writeReg (fun _ h => formed_setLeadCfg h) h)
  · exact .some (formed_i3cWrite (fun _ h => formed_leadCommand h) h)
  · exact .some (formed_recoverCtrl (.rest (.rest (.rest (.rest (.rest h))))))
  · exact .ite (.some (formed_planeRegWrite h)) (.ite (.some (formed_evtHeadReg h)) trivial)

theorem formed_dieReg (h : Formed s) : FormedOpt (dieReg r off v s) := by
  unfold dieReg
  refine .ite trivial ?_
  dsimp only
  split
  · exact .some (.ite (formed_sbdMargin h) (formed_tbMargin h))
  · exact .ite (.some (formed_sbdUmargin h)) trivial
  · exact .some (formed_retireWrite h)
  · exact .some (formed_rngTestWrite h)
  · trivial

theorem formed_plainWrite (h : Formed s) : Formed (plainWrite r off v s) :=
  formed_writeReg (fun _ h => formed_clearBits (formed_storeReg h)) h

theorem formed_writeAny (h : Formed s) : Formed (writeAny r off v s) := by
  refine .ite (formed_syncReg h) (.ite (formed_doorbellReg h) ?_)
  split
  · next e => exact FormedOpt.of (formed_hubReg h) e
  · split
    · next e => exact FormedOpt.of (formed_dieReg h) e
    · exact formed_plainWrite h

theorem formed_accessTimeout (h : Formed s) : Formed (accessTimeout r off s) := by
  unfold accessTimeout
  split
  · exact h
  · exact .ite (formed_answerWrite (.rest h)) (formed_answerRead (.rest h))

end

theorem formed_execCopy {s : State} {handle : Word} (h : Formed s) : FormedNext (execCopy handle s) := by
  unfold execCopy
  split
  · exact .next (formed_sendOnward h)
  · exact .next (formed_runData (fun _ _ h => formed_tryCopy h) h)

theorem formed_execConvert {s : State} {handle : Word} (h : Formed s) : FormedNext (execConvert handle s) := by
  unfold execConvert
  split
  · exact .next (formed_sendOnward h)
  · exact .next (formed_runData (fun _ _ h => formed_tryConvert h) h)

/-- Every command leaves the memories in canonical form. -/
theorem formed_exec {s : State} (h : Formed s) (c : Instr) : FormedNext (exec c s) := by
  cases c with
  | mrd64 => exact .next (formed_hostRead h)
  | mwr64 => exact .next (.ite (formed_hostWrite h) (.ite (formed_pushWrite h) (.ite (.rest h) (.rest h))))
  | pushWrite => exact .next (formed_pushWrite h)
  | srd32 => exact .next (formed_hostRead h)
  | swr32 => exact .next (formed_hostWrite h)
  | db => exact .next (formed_dbRequest h)
  | regRd => exact .next (formed_readAny h)
  | regWr => exact .next (formed_writeAny h)
  | badTypeRequest => exact .next (.ite h (.rest h))
  | descriptorFetch => exact .next (formed_fetchDescriptor h)
  | completionRecordWrite => exact .next (formed_writeRecord h)
  | eventRecordWrite => exact .next (formed_writePending h)
  | nop => exact .next (formed_runCommand (fun _ _ h => formed_tryNop h) h)
  | planRun => exact .next (formed_runCommand (fun _ _ h => formed_tryPlanRun h) h)
  | planRunStart => exact .next (formed_planRunStart h)
  | planRunDone => exact .next (formed_planRunDone h)
  | signal => exact .next (formed_settle (formed_slotGathers (formed_runCommand (fun _ _ h => formed_trySignal h) h)))
  | wait => exact .next (formed_runCommand (fun _ _ h => formed_tryWait h) h)
  | waitTimeout => exact .next (formed_waitTimeout h)
  | fence => exact .next (formed_runCommand (fun _ _ h => formed_tryFence h) h)
  | copy => exact formed_execCopy h
  | convert => exact formed_execConvert h
  | transposeIn => exact .next (formed_runData (fun _ _ h => formed_tryTransposeIn h) h)
  | transposeOut => exact .next (formed_runData (fun _ _ h => formed_tryTransposeOut h) h)
  | accum => exact .next (formed_runData (fun _ _ h => formed_tryAccum h) h)
  | ticketApply => exact .next (formed_applyTicket h)
  | reduce => exact .next (formed_runCommand (fun _ _ h => formed_tryColl h) h)
  | gather => exact .next (formed_runData (fun _ _ h => formed_tryColl h) h)
  | norm => exact .next (formed_runData (fun _ _ h => formed_tryNorm h) h)
  | collectiveStart => exact .next (formed_settle (formed_beginColl h))
  | sweepSpec => exact .next (formed_runCommand (fun _ _ h => formed_sweepCommand h) h)
  | sweepRedo => exact .next (formed_runCommand (fun _ _ h => formed_sweepCommand h) h)
  | commit => exact .next (formed_runCommand (fun _ _ h => formed_tryCommit h) h)
  | abort => exact .next (formed_runCommand (fun _ _ h => formed_tryAbort h) h)
  | digest => exact .next (formed_runCommand (fun _ _ h => formed_sensing (fun _ _ h => formed_tryDigest h) h) h)
  | repair => exact .next (formed_runCommand (fun _ _ h => formed_tryRepair h) h)
  | pimRun => exact .next (formed_runCommand (fun _ _ h => formed_tryPimRun h) h)
  | zero => exact .next (formed_runData (fun _ _ h => formed_tryZero h) h)
  | migrate => exact .next (formed_runCommand (fun _ _ h => formed_tryMigrate h) h)
  | pin => exact .next (formed_runData (fun _ _ h => formed_tryPin h) h)
  | snapshot => exact .next (formed_runData (fun _ _ h => formed_sensing (fun _ _ h => formed_trySnapshot h) h) h)
  | actStore => exact .next (formed_runData (fun _ _ h => formed_tryActStore h) h)
  | actLoad => exact .next (formed_runData (fun _ _ h => formed_tryActLoad h) h)
  | rngFill => exact .next (formed_runData (fun _ _ h => formed_tryRngFill h) h)
  | draw => exact .next (formed_runData (fun _ _ h => formed_tryDraw h) h)
  | initParams => exact .next (formed_runCommand (fun _ _ h => formed_tryInitParams h) h)
  | txgBegin => exact .next (formed_runCommand (fun _ _ h => formed_tryTxgBegin h) h)
  | txgEnd => exact .next (formed_runCommand (fun _ _ h => formed_tryTxgEnd h) h)
  | txgEnding => exact .next (formed_txgEnding h)
  | lockGrant => exact .next (formed_lockGrant h)
  | lockTimeout => exact .next (formed_lockTimeout h)
  | ctxSave => exact .next (formed_runData (fun _ _ h => formed_tryCtxSave h) h)
  | ctxRestore => exact .next (formed_runData (fun _ _ h => formed_tryCtxRestore h) h)
  | cfgStage => exact .next (formed_releaseWrites (formed_runData (fun _ _ h => formed_tryCfgStage h) h))
  | cfgCommit => exact .next (formed_runCommand (fun _ _ h => formed_tryCfgCommit h) h)
  | quietPointSwitch => exact .next (formed_quietSwitch h)
  | quietTimeout => exact .next (formed_quietTimeout h)
  | pushOrphanTimeout => exact .next (formed_pushOrphan h)
  | cqHeadWrite => exact .next (formed_cqHeadReg h)
  | evtHeadWrite => exact .next (formed_evtHeadReg h)
  | discard => exact .next (formed_planeRegWrite h)
  | shWrite => exact .next (.ite (formed_planeRegWrite h) h)
  | paceLimitsWrite => exact .next (formed_writeReg (fun _ h => formed_setPace h) h)
  | lkWrite => exact .next (formed_writeReg (fun _ h => formed_setLeadCfg h) h)
  | minSvnWrite => exact .next (formed_writeReg (fun _ h => formed_setMinSvn h) h)
  | arm => exact .next (formed_keepWrite h)
  | dropSelf => exact .next (formed_keepWrite h)
  | keepDropDelay => exact .next (formed_idlePorts (.rest h))
  | syncAdd => exact .next (formed_syncAddReg h)
  | setLo => exact .next (formed_setLoReg h)
  | setHi => exact .next (formed_setHiReg h)
  | valueLoRead => exact .next (formed_readAny h)
  | tenNumLoRead => exact .next (formed_readAny h)
  | totalsClear => exact .next (formed_numSelReg h)
  | marginRun => exact .next (formed_sbdMargin h)
  | umarginRun => exact .next (formed_sbdUmargin h)
  | tbMarginRun => exact .next (formed_tbMargin h)
  | marginRunEnd => exact .next (formed_marginRunEnd h)
  | laneRetire => exact .next (formed_retireWrite h)
  | rngTestRestart => exact .next (formed_rngTestWrite h)
  | rngTestStep => exact .next (formed_rngTestWrite h)
  | i3cRegRd => exact .next (formed_readAny (.rest h))
  | i3cRegWr => exact .next (formed_writeAny (.rest h))
  | i3cBadCommand => exact .next (.ite h (.rest (.rest h)))
  | coldReset =>
    refine .next ?_
    split
    · exact formed_coldReset
    · exact formed_coldReset
    · exact formed_resetCtrl h
  | warmReset =>
    refine .next ?_
    split
    · exact formed_warmReset h
    · exact formed_resetCtrl h
  | portResetGroup => exact .next (formed_portResetWrite h)
  | portResetHazel => exact .next (formed_portResetWrite h)
  | hubRecover =>
    refine .next ?_
    split
    · exact formed_hubRecover h
    · exact formed_recoverCtrl h
  | lead => exact .next (formed_i3cWrite (fun _ h => formed_leadCommand h) h)
  | retain => exact .next (formed_powerWrite h)
  | retainEntry => exact .next (formed_retainEntry h)
  | retainRefuse => exact .next (formed_retainRefuse h)
  | wake => exact .next (formed_powerWrite h)
  | l1Entry => exact .next (formed_l1Entry h)
  | l1Exit => exact .next (formed_l1Exit h)
  | speculativeSweep => exact .next (formed_speculate h)
  | sweepComplete => exact .next (formed_sweepComplete h)
  | sweepStop => exact .next (formed_sweepStop h)
  | ueFault => exact .next (formed_ueFault h)
  | packageTripleEntry => exact .next (formed_tripleEntry h)
  | commitFlip => exact .next (formed_commitFlip h)
  | gatherFlip => exact .next (formed_gatherFlip h)
  | accumulatorZeroing => exact .next (formed_zeroStep h)
  | phaseDispatch => exact .next (formed_phaseDispatch h)
  | digestComparison => exact .next (formed_compareShard h)
  | tileRepair => exact .next (formed_tileRepair h)
  | write => exact .next (formed_routed h (fun _ h => formed_takeWrite h))
  | acc => exact .next (formed_routed h (fun _ h => formed_takeAcc h))
  | set => exact .next (formed_routed h (fun _ h => formed_takeAcc h))
  | narrow => exact .next (formed_routed h (fun _ h => formed_inOrder (fun _ h => formed_takeNarrow h) h))
  | triple => exact .next (formed_routed h (fun _ h => formed_inOrder (fun _ h => formed_takeTree h) h))
  | verdict => exact .next (formed_routed h (fun _ h => formed_inOrder (fun _ h => formed_takeTree h) h))
  | serve => exact .next (formed_routed h (fun _ h => formed_takeServe h))
  | status => exact .next (formed_routed h (fun _ h => formed_takeStatus h))
  | drop => exact .next (formed_received h (fun _ h => formed_takeDrop h))
  | recover => exact .next (formed_routed h (fun _ h => formed_takeRecover h))
  | credit => exact .next (formed_received h (fun _ h => h))
  | link => exact .next (formed_received h (fun _ h => .rest h))
  | badFrameType => exact .next (formed_received h (fun _ h => formed_creditBack (.rest h)))
  | frameReplay => exact .next (formed_frameReplay h)
  | heldFrameRelease => exact .next (formed_releaseHeld h)
  | streamCountTimeout =>
    refine .next ?_
    split
    · exact .rest (.rest h)
    · exact h
  | hazelLaneFailure => exact .next (formed_laneFailure h)
  | hazelPortTrained => exact .next (formed_settle (formed_portTrained h))
  | lossOfSignal => exact .next (formed_settle (formed_joinRound (formed_lossOfSignal h)))
  | linkTrainTimeout => exact .next (formed_linkTimeout h)
  | recoveryRoundTimeout => exact .next (.ite (formed_settle (formed_furtherDropout h)) h)
  | keepWatchdogExpiry => exact .next (.ite h (formed_dropOut (.rest h)))
  | claim => exact .next (formed_cupuleRequest (fun _ h => formed_claimLease h) h)
  | renew => exact .next (formed_cupuleRequest (fun _ h => formed_renewLease h) h)
  | release => exact .next (formed_cupuleRequest (fun _ h => formed_releaseLease h) h)
  | deferentTimeout => exact .next (.ite (formed_endDeferent h) h)
  | leaseExpiry => exact .next (formed_leaseExpiry h)
  | acornProbe => exact .next (formed_acornProbe h)
  | acornSelftest => exact .next (.ite (.rest h) h)
  | lockstepMismatch => exact .next (.ite (.rest h) h)
  | hubUnitFailure => exact .next (formed_unitFailure h)
  | hubFatal => exact .next (formed_hubFatal h)
  | bridgeSelfRefresh => exact .next (.rest h)
  | spineModuleFailure => exact .next (formed_spineFailure h)
  | portDown => exact .next (.ite (formed_moduleOut h) h)
  | hostModuleTrained => exact .next (formed_moduleTrained h)
  | hostPortTrainingRetry => exact .next h
  | parityRetry => exact .next (formed_parityRetry h)
  | refresh => exact .next (formed_refreshBank h)
  | hotRefreshWindow => exact .next (formed_settle (formed_serveHeld (.foldl (fun _ _ h => formed_setTemp h) h)))
  | patrolRead => exact .next (formed_patrolRead h)
  | ceWindowEnd => exact .next (.rest h)
  | refetchDeadline => exact .next (formed_refetchDeadline h)
  | atomComplete => exact .next (formed_atomComplete h)
  | yieldTimeout => exact .next (formed_yieldTimeout h)
  | unitSwitch => exact .next (formed_unitSwitch h)
  | droopFlag => exact .next (.rest (.rest h))
  | droopLimitRise => exact .next (.rest (.rest h))
  | thermalLimit => exact .next (.rest (.rest (.rest h)))
  | powerEstimate => exact .next (formed_powerEstimate h)
  | throttle => exact .next (formed_throttle h)
  | timebaseSwitch => exact .next (.rest h)
  | switchRecord => exact .next (.ite h (.rest h))
  | heartbeat => exact .next (.ite h (.rest h))
  | occupancyRecord => exact .next (formed_occupancyRecord h)
  | maskExpiry => exact .next (.rest h)
  | huskSample => exact .next (formed_huskSample h)
  | intervalClose => exact .next (formed_intervalClose h)
  | huskCheckpoint => exact .next (.ite (.rest h) h)
  | romCheck => exact .next (.ite (formed_romCheck h) h)
  | pfail => exact .next (formed_pfail h)
  | huskPowerUp => exact .next (formed_huskPowerUp h)
  | huskCfgEnRise => exact .next (.ite (.rest h) h)
  | mirrorSnapshot => exact .next (formed_mirrorSnapshot h)
  | mirrorLinkLoss => exact .next (.rest h)
  | huskIdent => exact .next (formed_huskReply (fun _ h => h) h)
  | huskStatus => exact .next (formed_huskReply (fun _ h => .rest h) h)
  | readRec => exact .next (formed_huskReply (fun _ h => h) h)
  | ack => exact .next (formed_huskReply (fun _ h => formed_huskAck h) h)
  | anchor => exact .next (formed_huskReply (fun _ h => .rest h) h)
  | key => exact .next (formed_huskReply (fun _ h => h) h)
  | live => exact .next (formed_huskReply (fun _ h => h) h)
  | config => exact .next (formed_huskReply (fun _ h => .iteFst (formed_huskConfig h) h) h)
  | huskBadCommand => exact .next (.ite h (formed_huskReply (fun _ h => h) h))
  | resetRelease => exact .next (formed_resetRelease h)
  | firmwareBoot => exact .next (formed_firmwareBoot h)
  | sproutLoad => exact .next (formed_sproutLoad h)
  | channelTraining => exact .next (formed_channelTraining h)
  | lpddr5xTraining => exact .next (formed_lpTraining h)
  | ueSelftest => exact .next (formed_ueSelftest h)
  | bootReady => exact .next (formed_bootReady h)
  | idcode => exact .next (formed_loadIr (fun _ h => .rest h) h)
  | samplePreload => exact .next (formed_loadIr (fun _ h => .rest (.rest (.rest (.rest h)))) h)
  | extest => exact .next (formed_loadIr (fun _ h => .rest (.rest h)) h)
  | clamp => exact .next (formed_loadIr (fun _ h => h) h)
  | highz => exact .next (formed_loadIr (fun _ h => h) h)
  | stackTest => exact .next (formed_loadIr (fun _ h => .rest (.rest h)) h)
  | stackSel => exact .next (formed_loadIr (fun _ h => .rest (.rest h)) h)
  | coreTest => exact .next (formed_loadIr (fun _ h => .rest (.foldl (fun _ _ h => formed_testCore h) h)) h)
  | coreDie => exact .next (formed_loadIr (fun _ h => .rest (.rest h)) h)
  | regRead => exact .next (formed_loadIr (fun _ h => formed_readReg (fun _ h => formed_regRead h) (.rest h)) h)
  | bypass => exact .next (formed_loadIr (fun _ h => h) h)
  | tapReset => exact .next (formed_tapResets h)
  | testModeExit => exact .next (.ite formed_coldReset h)
  | hostTransportReplay => exact .next (formed_transportReplay h)
  | sproutFailure => exact .next h
  | umarginPartnerStart =>
    refine .next ?_
    split
    · exact formed_beginRun h
    · exact h
  | umarginPartnerTimeout =>
    refine .next ?_
    split
    · exact .rest (.rest h)
    · exact h
  | registerAccessTimeout => exact .next (formed_accessTimeout h)
  | retainRailRemoval => exact .next (formed_railRemoval h)
  | retainRailRestore => exact .next (.rest h)

/-- Settles O60, by a lemma per operation of the model: each function that yields a state keeps the form. -/
theorem stepKeepsMemoryForm : Obligations.StepKeepsMemoryForm := by
  unfold Obligations.StepKeepsMemoryForm
  intro s t h
  unfold step
  split
  · exact FormedNext.next h t
  · exact formed_exec (.rest h) _ t

end Sys2Proof.Machine
end

section
/-! PROOFS. The checks of accumulator tickets, and host-port modules in and out of service. -/

namespace Sys2Proof.Machine

/-! ### Tickets -/

/-- Until FINAL has been applied, an applied or held ticket is refused (R141). -/
theorem ticketCheck_used {s : State} {tile k : Nat} (fin : Bool) (hd : hostDone (tileDyn s tile) = false)
    (h : k < (tileDyn s tile).next ∨ ∃ c ∈ (tileDyn s tile).held, c.ticket = k) : ticketCheck s tile k fin = .bad stTicket := by
  have hused : (decide (k < (tileDyn s tile).next) || (tileDyn s tile).held.any fun c => c.ticket = k) = true := by
    simpa using h
  simp [ticketCheck, hd, hused]

/-- A ticket that is neither applied nor held. -/
def unusedTicket (d : TileDyn) (k : Nat) : Prop := d.next ≤ k ∧ ∀ c ∈ d.held, c.ticket ≠ k

theorem unusedTicket_check {d : TileDyn} {k : Nat} (h : unusedTicket d k) :
    (decide (k < d.next) || d.held.any fun c => c.ticket = k) = false := by
  simpa [unusedTicket] using h

/-- While no FINAL has been accepted, an unused ticket is judged by the window of 64 tickets (R242). -/
theorem ticketCheck_window {s : State} {tile k : Nat} (fin : Bool) (hf : (tileDyn s tile).final = none)
    (hk : unusedTicket (tileDyn s tile) k) :
    ticketCheck s tile k fin = if (tileDyn s tile).next + 64 ≤ k then .wait else .fine := by
  have hd : hostDone (tileDyn s tile) = false := by simp [hostDone, hf]
  simp [ticketCheck, hd, unusedTicket_check hk, hf]

/-- Once a FINAL has been accepted, an unused ticket may neither lie above it nor be a second one (R243, R245). -/
theorem ticketCheck_final {s : State} {tile k f : Nat} (fin : Bool) (hd : hostDone (tileDyn s tile) = false)
    (hf : (tileDyn s tile).final = some f) (hk : unusedTicket (tileDyn s tile) k) :
    ticketCheck s tile k fin = if f < k ∨ fin = true then .bad stBadField else .fine := by
  simp [ticketCheck, hd, unusedTicket_check hk, hf]

/-- Settles O28: the tile's used tickets, its FINAL and its window decide in this order. -/
theorem ticketRules : Obligations.TicketRules := by
  unfold Obligations.TicketRules
  intro s tile k fin
  refine ⟨fun hd h => ticketCheck_used fin hd h, fun hf hk hh => ?_, fun hf hn hk hh => ?_, fun f hd hf hn hh => ?_, fun hd => ?_⟩
  · rw [ticketCheck_window fin hf ⟨by omega, hh⟩]
    exact if_pos hk
  · rw [ticketCheck_window fin hf ⟨hn, hh⟩]
    exact if_neg (by omega)
  · exact ticketCheck_final fin hd hf ⟨hn, hh⟩
  · simp [ticketCheck, hd]

/-! ### Host-port modules -/

theorem moduleUp_eq (s : State) (k : Nat) : moduleUp s k = (moduleOf s k).up := rfl

theorem moduleOf_of_modules {s t : State} (h : t.fe.modules = s.fe.modules) (k : Nat) : moduleOf t k = moduleOf s k := by
  rw [moduleOf, h, moduleOf]

theorem moduleOf_updModule_self (s : State) (k : Nat) (f : HostModule → HostModule) :
    moduleOf (updModule s k f) k = f (moduleOf s k) := nmGet_nmSet_self ..

theorem moduleOf_updModule_ne (s : State) (f : HostModule → HostModule) {k j : Nat} (h : j ≠ k) :
    moduleOf (updModule s k f) j = moduleOf s j := nmGet_nmSet_ne _ _ _ h

theorem onlyEvents_raiseGroup (s : State) (k : Nat) (code : BitVec 16) : OnlyEvents s (raiseGroup s k code) :=
  .foldl _ (fun s t => onlyEvents_raiseEventFree s t code _ 0) _ s

theorem onlyEvents_releaseCpl (s : State) : OnlyEvents s (releaseCpl s) :=
  OnlyEvents.trans (t := { s with fe := { s.fe with heldCpl := [] } }) ⟨rfl, rfl, rfl, rfl, rfl, rfl, rfl, rfl, rfl, rfl, rfl, rfl⟩
    (.foldl _ (fun s _ => onlyEvents_cplWrite s _ _ _) _ _)

/-- What a module that stops takes with it: no byte of memory, no other module, and of the held requests at most some. -/
theorem dropModule_keeps (s : State) (k : Nat) :
    (dropModule s k).mem = { s.mem with copies := (dropModule s k).mem.copies } ∧ (dropModule s k).syncs = s.syncs ∧
    (dropModule s k).fe.modules = s.fe.modules ∧ ∀ h ∈ (dropModule s k).fe.held, h ∈ s.fe.held := by
  unfold dropModule
  dsimp only
  split
  · split
    · exact ⟨rfl, rfl, rfl, fun h hh => hh⟩
    · exact ⟨rfl, rfl, rfl, fun h hh => List.mem_of_mem_filter hh⟩
  · exact ⟨rfl, rfl, rfl, fun h hh => hh⟩

/-- A module that leaves service is out, and carries nothing (R110). -/
theorem moduleOut_keeps (s : State) (k : Nat) :
    moduleOf (moduleOut s k) k = ⟨false, 0, true⟩ ∧ (∀ j, j ≠ k → moduleOf (moduleOut s k) j = moduleOf s j) ∧
    (moduleOut s k).mem.cells = s.mem.cells ∧ (moduleOut s k).mem.poison = s.mem.poison ∧ (moduleOut s k).syncs = s.syncs ∧
    ∀ h ∈ (moduleOut s k).fe.held, h ∈ s.fe.held := by
  obtain ⟨hmem, hsyncs, hmodules, hheld⟩ := dropModule_keeps (updModule s k fun _ => ⟨false, 0, true⟩) k
  have he := onlyEvents_raiseGroup (logRecordFree (dropModule (updModule s k fun _ => ⟨false, 0, true⟩) k) 0x0D (1 + k / 16) (k % 16) k 0xF)
    k evPortDown
  have hm : (moduleOut s k).fe.modules = (updModule s k fun _ => ⟨false, 0, true⟩).fe.modules := he.modules.trans hmodules
  have hmem' : (moduleOut s k).mem = (dropModule (updModule s k fun _ => ⟨false, 0, true⟩) k).mem := he.mem
  refine ⟨(moduleOf_of_modules hm k).trans (moduleOf_updModule_self ..), fun j hj =>
    (moduleOf_of_modules hm j).trans (moduleOf_updModule_ne _ _ hj), ?_, ?_, he.syncs.trans hsyncs, fun h hh => ?_⟩
  · rw [hmem', hmem]; rfl
  · rw [hmem', hmem]; rfl
  · have : (moduleOut s k).fe.held = (dropModule (updModule s k fun _ => ⟨false, 0, true⟩) k).fe.held := he.held
    exact hheld h (this ▸ hh)

theorem groupResetOver_keeps (s : State) (g : Nat) :
    (groupResetOver s g).fe = s.fe ∧ (groupResetOver s g).mem = s.mem ∧ (groupResetOver s g).syncs = s.syncs := by
  unfold groupResetOver
  split <;> exact ⟨rfl, rfl, rfl⟩

/-- EV_PORT_UP of a module whose group a PORT reset retrains (R704). -/
def notePortUp (s : State) (k : Nat) : State := if s.units.boot.resets.contains (k / 4) then raiseGroup s k evPortUp else s

theorem onlyEvents_notePortUp (s : State) (k : Nat) : OnlyEvents s (notePortUp s k) := by
  unfold notePortUp
  split
  · exact onlyEvents_raiseGroup s k evPortUp
  · exact .refl s

/-- A module that trains carries traffic: what waited for it goes out, and EV_PORT_UP follows a PORT reset (R704, R714). -/
theorem moduleTrained_repairable {s : State} {k : Nat} (hup : moduleUp s k = false) (hout : (moduleOf s k).out = false)
    (hrail : s.units.power.noUcie = false) :
    moduleOf (moduleTrained k true s) k = ⟨true, 0, false⟩ ∧ (moduleTrained k true s).mem = s.mem ∧
    (moduleTrained k true s).syncs = s.syncs := by
  have hrun : moduleTrained k true s = groupResetOver (notePortUp (releaseCpl (updModule s k fun _ => ⟨true, 0, false⟩)) k) (k / 4) := by
    simp [moduleTrained, ← moduleUp_eq, hup, hout, hrail, notePortUp]
  have he := (onlyEvents_releaseCpl (updModule s k fun _ => ⟨true, 0, false⟩)).trans (onlyEvents_notePortUp _ k)
  obtain ⟨hfe, hmem, hsyncs⟩ := groupResetOver_keeps (notePortUp (releaseCpl (updModule s k fun _ => ⟨true, 0, false⟩)) k) (k / 4)
  rw [hrun]
  refine ⟨?_, hmem.trans he.mem, hsyncs.trans he.syncs⟩
  rw [moduleOf_of_modules (congrArg FrontEnd.modules hfe), moduleOf_of_modules he.modules, moduleOf_updModule_self]

/-- A module that exceeds repair stays out (R714). -/
theorem moduleTrained_beyondRepair {s : State} {k : Nat} (hup : moduleUp s k = false) (hout : (moduleOf s k).out = false)
    (hrail : s.units.power.noUcie = false) :
    moduleOf (moduleTrained k false s) k = ⟨false, 0, true⟩ ∧ (moduleTrained k false s).mem = s.mem := by
  have hrun : moduleTrained k false s =
      groupResetOver (logRecordFree (updModule s k fun _ => ⟨false, 0, true⟩) 0x0D (1 + k / 16) (k % 16) k 0xF) (k / 4) := by
    simp [moduleTrained, ← moduleUp_eq, hup, hout, hrail]
  obtain ⟨hfe, hmem, -⟩ := groupResetOver_keeps (logRecordFree (updModule s k fun _ => ⟨false, 0, true⟩) 0x0D (1 + k / 16) (k % 16) k 0xF)
    (k / 4)
  rw [hrun]
  refine ⟨?_, hmem⟩
  rw [moduleOf_of_modules (s := updModule s k fun _ => ⟨false, 0, true⟩) (congrArg FrontEnd.modules hfe), moduleOf_updModule_self]

/-- Settles O50: what a module's end and its training leave, by what each of their parts leaves. -/
theorem hostModules : Obligations.HostModules := by
  unfold Obligations.HostModules
  refine ⟨fun s k hup => ?_, fun s k hup => ⟨?_, fun hfew => ?_, fun hmany => ?_⟩, fun s k hup hout hrail => ⟨?_, ?_⟩, fun s k => rfl⟩
  · obtain ⟨hself, hothers, hcells, hpoison, hsyncs, hheld⟩ := moduleOut_keeps s k.val
    refine ⟨moduleOut s k.val, congrArg Host.Outcome.next (if_pos hup), ?_, ?_, hcells, hpoison, hsyncs, hothers, hheld⟩
    · rw [moduleUp_eq, hself]
    · rw [hself]
  · refine ⟨updModule s k.val fun m => { m with fails := 0 }, congrArg Host.Outcome.next ?_, moduleOf_updModule_self .., rfl⟩
    simp [transportReplay, hup]
  · refine ⟨updModule s k.val fun m => { m with fails := m.fails + 1 }, congrArg Host.Outcome.next ?_, moduleOf_updModule_self .., rfl⟩
    simp [transportReplay, hup, Nat.not_le.2 hfew]
  · obtain ⟨hself, -, hcells, -⟩ := moduleOut_keeps s k.val
    refine ⟨moduleOut s k.val, congrArg Host.Outcome.next ?_, ?_, ?_, hcells⟩
    · simp [transportReplay, hup, hmany]
    · rw [moduleUp_eq, hself]
    · rw [hself]
  · obtain ⟨hself, hmem, hsyncs⟩ := moduleTrained_repairable hup hout hrail
    exact ⟨_, rfl, by rw [moduleUp_eq, hself], hmem, hsyncs⟩
  · obtain ⟨hself, hmem⟩ := moduleTrained_beyondRepair hup hout hrail
    exact ⟨_, rfl, by rw [moduleUp_eq, hself], by rw [hself], hmem⟩

end Sys2Proof.Machine
end

section
/-! PROOFS. The checks that come before a host request or a register write takes effect (SPEC.md, section 03). -/

namespace Sys2Proof.Machine

/-! ### Register accesses: turned away, or carried out -/

theorem readReg_refused {s : State} {r : Requester} {off : Nat} {st : Status} (h : regRefusal s r off = some st)
    (act : State → State × Word) : readReg r off act s = answerRead s r st 0 := by
  simp [readReg, readDenied, h]

theorem writeReg_refused {s : State} {r : Requester} {off : Nat} {st : Status} (h : regRefusal s r off = some st) (v : Word)
    (act : State → State × Status) : writeReg r off v act s = answerWrite s r st := by
  simp [writeReg, writeDenied, h]

theorem writeReg_ok {s : State} {r : Requester} {off : Nat} (h : WriteOk s r off) (v : Word) (act : State → State × Status) :
    writeReg r off v act s = answerWrite (act s).1 r (act s).2 := by
  simp [writeReg, h.1, h.2]

theorem planeRegWrite_refused {s : State} {r : Requester} {off : Nat} {st : Status} (h : regRefusal s r off = some st) (v : Word) :
    planeRegWrite r off v s = answerWrite s r st := by
  simp [planeRegWrite, writeDenied, h, writeReg_refused h]

/-! ### Misaligned register accesses (R768) -/

/-- No register of the HUB window that does more than store has a misaligned offset, but for the SH ranges. -/
theorem hubReg_misaligned {off : Nat} (ha : off % 4 ≠ 0) (r : Requester) (v : Word) (s : State) :
    hubReg r off v s = if shOffset off then some (planeRegWrite r off v s) else none := by
  have hevt : (inRange off 0x10000 0x1000 && decide (off % 0x100 = 0x34)) = false := by
    simp only [Bool.and_eq_false_iff, decide_eq_false_iff_not]
    omega
  unfold hubReg
  split
  any_goals omega
  rw [hevt]; rfl

theorem dieReg_misaligned {off : Nat} (ha : off % 4 ≠ 0) (r : Requester) (v : Word) (s : State) : dieReg r off v s = none := by
  unfold dieReg
  dsimp only
  split
  · rfl
  · split
    any_goals omega
    rfl

theorem writeAny_misaligned {s : State} {r : Requester} {off : Nat} {st : Status} (ha : off % 4 ≠ 0) (h : regRefusal s r off = some st)
    (v : Word) : writeAny r off v s = answerWrite s r st := by
  simp only [writeAny, ha, decide_false, Bool.and_false, Bool.false_eq_true, if_false, hubReg_misaligned ha, dieReg_misaligned ha]
  by_cases hsh : shOffset off = true
  · simp [hsh, planeRegWrite_refused h]
  · simp [hsh, plainWrite, writeReg_refused h]

/-- The refusal of a misaligned access of a tenant that its module group carries. -/
theorem regRefusal_misaligned {s : State} {r : HostReq} (hr : reqAllowed s r = true) (ha : r.addr.toNat % 4 ≠ 0) :
    regRefusal s (hostRequester r) r.addr.toNat = some stAlign := by
  have hr' : reqAllowed s (rspFor r.module r.tenant r.tag) = true := hr
  simp [regRefusal, hostRequester, hr', ha]

/-! ### Misaligned requests to memory -/

theorem hostRead_misaligned {s : State} {r : HostReq} {n : Nat} (hr : reqAllowed s r = true) (ha : r.addr.toNat % n ≠ 0) (type : Nat) :
    hostRead s type r n = respond s r stAlign (List.replicate n 0) := by
  simp [hostRead, readRefusal, hr, ha]

theorem hostWrite_misaligned {s : State} {r : HostReq} {n : Nat} (hr : reqAllowed s r = true) (ha : r.addr.toNat % n ≠ 0) (type : Nat) :
    hostWrite s type r n = respond s r stAlign [] := by
  simp [hostWrite, hr, ha]

/-! ### Push writes have no alignment of their own -/

/-- A push write waits for room, or answers with a status other than ST_ALIGN. -/
theorem pushWrite_answers (s : State) (r : HostReq) :
    (pushWrite s r).fe.hostOut = s.fe.hostOut ∨ ∃ st : Status, st.setWidth 8 ≠ stAlign.setWidth 8 ∧
      (pushWrite s r).fe.hostOut = s.fe.hostOut ++ [.rsp r.module.val r.tenant r.tag (st.setWidth 8) []] := by
  unfold pushWrite
  split
  · exact .inr ⟨stBounds, by decide, rfl⟩
  · split
    · exact .inr ⟨stBadField, by decide, rfl⟩
    · split
      · exact .inr ⟨stBadField, by decide, rfl⟩
      · split
        · exact .inr ⟨stBounds, by decide, rfl⟩
        · unfold pushAccept
          split
          · exact .inr ⟨stOk, by decide, rfl⟩
          · split
            · exact .inr ⟨stOk, by decide, rfl⟩
            · split
              · exact .inr ⟨stOk, by decide, rfl⟩
              · exact .inl rfl

theorem pushWrite_ne_stAlign (s : State) (r : HostReq) (d : List Byte) : pushWrite s r ≠ respond s r stAlign d := by
  intro h
  have hout : (pushWrite s r).fe.hostOut = s.fe.hostOut ++ [.rsp r.module.val r.tenant r.tag (stAlign.setWidth 8) d] := by
    rw [h]; rfl
  rcases pushWrite_answers s r with hnone | ⟨st, hne, hone⟩
  · rw [hnone] at hout
    simp at hout
  · rw [hone] at hout
    have hrsp := List.head_eq_of_cons_eq (List.append_cancel_left hout)
    exact hne (HostOut.rsp.inj hrsp).2.2.2.1

/-- Settles O5: each type's alignment is checked right after its tenant, and a push write's is not. -/
theorem misalignedRequest : Obligations.MisalignedRequest := by
  unfold Obligations.MisalignedRequest
  refine ⟨fun s r hr => ⟨fun ha => ?_, fun ha => ?_, fun ha h0 => ?_, fun ha => ?_, fun ha => ?_, fun ha => ?_, fun ha => ?_⟩,
    fun s r h1 => ?_, fun s r d h => pushWrite_ne_stAlign s r d (Host.Outcome.next.inj h)⟩
  · exact congrArg Host.Outcome.next (hostRead_misaligned hr ha 0x01)
  · exact congrArg Host.Outcome.next (hostRead_misaligned hr ha 0x03)
  · exact congrArg Host.Outcome.next ((if_pos h0).trans (hostWrite_misaligned hr ha 0x02))
  · exact congrArg Host.Outcome.next (hostWrite_misaligned hr ha 0x04)
  · refine congrArg Host.Outcome.next ?_
    simp [dbRequest, hr, ha]
  · exact congrArg Host.Outcome.next (readReg_refused (regRefusal_misaligned hr ha) _)
  · exact congrArg Host.Outcome.next (writeAny_misaligned ha (regRefusal_misaligned hr ha) _)
  · refine congrArg Host.Outcome.next ?_
    rw [if_neg (by rw [h1]; decide), if_pos h1]

/-! ### A refused write of HUB_RECOVER_CTRL -/

/-- A write of HUB_RECOVER_CTRL by tenant 1, whom no module group carries in the boot configuration. -/
def foreignRecover : HostReq := ⟨0, 1, 0, 0, 1, 0x311C, []⟩

/-- Free values used up to the end of a step. -/
def freeAfter : Host.Outcome State Fault Refusal → Nat
  | .next t => t.free
  | _ => 0

/-- Refutes O4: the write is answered ST_BOUNDS, but `hubReg` has drawn the five free bits of a restart before the request is judged, so
the count of free values that the model has used grows by 5. Every other part of the package is as it was. -/
theorem not_foreignTenantBounds : ¬ Obligations.ForeignTenantBounds := by
  unfold Obligations.ForeignTenantBounds
  intro h
  obtain ⟨-, -, -, -, -, -, -, hwrite, -⟩ := h State.reset foreignRecover (by decide +kernel)
  have hfree := congrArg freeAfter hwrite
  have hused : freeAfter (exec (.regWr foreignRecover) State.reset) = 5 := by decide +kernel
  rw [hused] at hfree
  exact absurd hfree (by decide)

end Sys2Proof.Machine
end

section
/-! PROOFS. Doorbells, consumed counts and the totals of a tenant, and the fetch of a descriptor (SPEC.md, section 03). -/

namespace Sys2Proof.Machine

/-! ### Counts of a queue -/

@[simp] theorem qOf_updQ_self (s : State) (q : Nat) (f : QCounts → QCounts) : qOf (updQ s q f) q = f (qOf s q) := nmGet_nmSet_self ..

theorem qOf_updQ_ne (s : State) (f : QCounts → QCounts) {q k : Nat} (h : k ≠ q) : qOf (updQ s q f) k = qOf s k := nmGet_nmSet_ne _ _ _ h

/-! ### Doorbells (R81, R123, R124) -/

section
variable {s : State} {q : Nat} {t : BitVec 4} {v : Word}

theorem doorbell_foreign (h : t ≠ (planeQueue s.cfg.live q).tenant) : doorbell s q t v = (badDoorbell s q, stBounds) := by
  simp [doorbell, h]

theorem doorbell_repeated (h : t = (planeQueue s.cfg.live q).tenant) (hv : v = (qOf s q).p) : doorbell s q t v = (s, stOk) := by
  simp [doorbell, h, hv]

theorem doorbell_accepted (h : t = (planeQueue s.cfg.live q).tenant) (hv : v ≠ (qOf s q).p) (hn : (v - (qOf s q).h).toNat ≤ sqEntries s q) :
    doorbell s q t v =
      (updQ s q fun c => { c with p := v, l := lapAfter (sqEntries s q) c.l c.p (v - c.p).toNat }, stOk) := by
  unfold doorbell
  dsimp only
  rw [if_neg (not_not.2 h), if_neg hv, if_pos hn]

theorem doorbell_outOfRange (h : t = (planeQueue s.cfg.live q).tenant) (hv : v ≠ (qOf s q).p)
    (hn : sqEntries s q < (v - (qOf s q).h).toNat) : doorbell s q t v = (badDoorbell s q, stBadField) := by
  unfold doorbell
  dsimp only
  rw [if_neg (not_not.2 h), if_neg hv, if_neg (Nat.not_le.2 hn)]

end

/-- A doorbell of a tenant that its module group carries, at an SQ_TAIL: what it does, the note of R81 where it is good, and its answer. -/
theorem goes_db {s u : State} {r : HostReq} {q : Nat} {st : Status} (hr : reqAllowed s r = true) (ha : r.addr.toNat % 4 = 0)
    (hq : sqTailOf r.addr.toNat = some q) (hd : doorbell s q r.tenant (BitVec.ofNat 32 (leNat (r.data.take 4))) = (u, st)) :
    Goes (.db r) s (respond (if st = stOk then noteBell u q r.module else u) r st []) := by
  refine congrArg Host.Outcome.next ?_
  simp [dbRequest, hr, ha, hq, hd]

/-- A write of a module that its home holds is noted with the doorbell that comes after it. -/
theorem mem_bell_noteBell {s : State} {q : Nat} {m : Fin 64} {w : HostReq} (h : w ∈ heldWrites s m) : w ∈ (qOf (noteBell s q m) q).bell := by
  unfold noteBell
  dsimp only
  rw [if_neg (by simp [List.ne_nil_of_mem h]), qOf_updQ_self]
  exact List.mem_append_right _ h

theorem noteBell_held (s : State) (q : Nat) (m : Fin 64) : (noteBell s q m).fe.held = s.fe.held := by
  unfold noteBell
  dsimp only
  split <;> rfl

theorem requestHeld_of_heldWrites {s : State} {m : Fin 64} {w : HostReq} (h : w ∈ heldWrites s m) : requestHeld s w = true := by
  obtain ⟨x, hx, hw⟩ := List.mem_filterMap.1 h
  refine List.any_eq_true.2 ⟨x, hx, ?_⟩
  split at hw
  · split at hw
    · simp_all
    · cases hw
  · cases hw

/-- No fetch of a queue passes a write that its bell notes while the write is held (R81). -/
theorem canFetch_of_bell {s : State} {q : Nat} {w : HostReq} (hb : w ∈ (qOf s q).bell) (hw : requestHeld s w = true) : canFetch s q = false := by
  have hany : (qOf s q).bell.any (requestHeld s) = true := List.any_eq_true.2 ⟨w, hb, hw⟩
  simp [canFetch, hany]

/-- Settles O7: by the four cases of a doorbell, and the held writes that it notes. -/
theorem doorbellRule : Obligations.DoorbellRule := by
  unfold Obligations.DoorbellRule
  intro s r q hr ha hq
  refine ⟨fun ht => ?_, fun ht hv => ?_, fun ht hv hn => ?_, fun w hw => ?_, fun ht hv hn => ?_⟩
  · exact goes_db hr ha hq (doorbell_foreign ht)
  · exact goes_db hr ha hq (doorbell_repeated ht hv)
  · exact goes_db hr ha hq (doorbell_accepted ht hv hn)
  · have hheld : requestHeld (noteBell s q r.module) w = true := by
      rw [requestHeld, noteBell_held]
      exact requestHeld_of_heldWrites hw
    exact ⟨mem_bell_noteBell hw, canFetch_of_bell (mem_bell_noteBell hw) hheld⟩
  · exact goes_db hr ha hq (doorbell_outOfRange ht hv hn)

/-! ### Consumed counts and totals -/

theorem cqRoom_eq (s : State) (q : Nat) :
    cqRoom s q = decide (((qOf s q).t - (qOf s q).c).toNat < (planeQueue s.cfg.live q).cqEntries.toNat) := rfl

/-- A consumed count: it stands, a stall that it gives room ends, and the other counts of the queue stay (R128). -/
theorem setCqHead_counts (s : State) (q : Nat) (v : Word) :
    qOf (setCqHead s q v) q = { qOf s q with c := v, cqStall := (qOf s q).cqStall && !cqRoom (setCqHead s q v) q } := by
  have hroom : cqRoom (setCqHead s q v) q = cqRoom (updQ s q fun c => { c with c := v }) q := by
    unfold setCqHead
    dsimp only
    split
    · rw [cqRoom_eq, qOf_updQ_self]; rfl
    · rfl
  rw [hroom]
  unfold setCqHead
  dsimp only
  split
  · next h => simp [h]
  · next h => simp [h]

theorem setCqHead_ne (s : State) (v : Word) {q k : Nat} (h : k ≠ q) : qOf (setCqHead s q v) k = qOf s k := by
  unfold setCqHead
  dsimp only
  split
  · rw [qOf_updQ_ne _ _ h, qOf_updQ_ne _ _ h]
  · exact qOf_updQ_ne _ _ h

theorem setEvtHead_fits {s : State} {t : Nat} {v : Word} (h : ((ringOf s t).seq - v).toNat ≤ 256) :
    setEvtHead s t v = setRing s t { ringOf s t with head := v } := if_pos h

theorem setEvtHead_passed {s : State} {t : Nat} {v : Word} (h : 256 < ((ringOf s t).seq - v).toNat) : setEvtHead s t v = s :=
  if_neg (Nat.not_le.2 h)

theorem nmGet?_nmErase {α : Type} (m : NMap α) (i k : Nat) : nmGet? (nmErase m i) k = if k = i then none else nmGet? m k := by
  induction m with
  | nil => simp [nmErase, nmGet?]
  | cons e m ih =>
    have he : nmErase (e :: m) i = if e.1 = i then nmErase m i else e :: nmErase m i := by
      by_cases h : e.1 = i <;> simp [nmErase, h]
    rw [he]
    by_cases h : e.1 = i
    · rw [if_pos h, ih]
      by_cases hk : k = i
      · rw [if_pos hk, if_pos hk]
      · rw [if_neg hk, if_neg hk, nmGet?, if_neg (by omega)]
    · rw [if_neg h, nmGet?, nmGet?, ih]
      by_cases hk : e.1 = k
      · rw [if_pos hk.symm, if_neg (by omega), if_pos hk.symm]
      · rw [if_neg (Ne.symm hk), if_neg (Ne.symm hk)]

/-- A write of HUB_TEN_NUM_SEL by a tenant that may make it. -/
theorem numSelReg_ok {s : State} {req : Requester} {v : Word} (h : WriteOk s req 0x1050)
    (ht : reqTenant s req = s.cfg.live.control ∨ (reqTenant s req).toNat = v.toNat % 16) :
    numSelReg req v s = answerWrite (setNumSel v s) req stOk := by
  have hf : fld v 0 4 = v.toNat % 16 := by simp [fld]
  have hgo : (decide (reqTenant s req = s.cfg.live.control) || decide ((reqTenant s req).toNat = fld v 0 4)) = true := by
    rw [hf]; simpa using ht
  rw [numSelReg, writeReg_ok h]
  simp only [hgo, if_true]

/-- CLEAR of HUB_TEN_NUM_SEL: the selection stands, and the tenant's totals are gone (R610). -/
theorem setNumSel_clear (s : State) {v : Word} (h : v.getLsbD 8 = true) :
    setNumSel v s = { regSet s 0x1050 (v &&& 0x3F) with units := { s.units with totals := nmErase s.units.totals (v.toNat % 16) } } := by
  have hf : fld v 0 4 = v.toNat % 16 := by simp [fld]
  rw [setNumSel, if_pos h, hf]
  rfl

/-- Settles O17: each of the three writes takes effect, and is answered ST_OK. -/
theorem headsAndTotals : Obligations.HeadsAndTotals := by
  unfold Obligations.HeadsAndTotals
  refine ⟨fun s req q v h => ?_, fun s req t v h => ⟨fun hfits => ?_, fun hpassed => ?_⟩, fun s req v h ht hclear => ?_⟩
  · have hc := setCqHead_counts s q.val v
    exact ⟨setCqHead s q.val v, congrArg Host.Outcome.next (writeReg_ok h v _), by rw [hc], by rw [hc], by rw [hc], by rw [hc],
      congrArg QCounts.cqStall hc, fun k hk => setCqHead_ne s v hk⟩
  · refine congrArg Host.Outcome.next ((writeReg_ok h v _).trans ?_)
    rw [setEvtHead_fits hfits]
  · refine congrArg Host.Outcome.next ((writeReg_ok h v _).trans ?_)
    rw [setEvtHead_passed hpassed]
  · have hs := setNumSel_clear s hclear
    refine ⟨setNumSel v s, congrArg Host.Outcome.next (numSelReg_ok h ht), ?_, ?_, fun k hk => ?_⟩
    · rw [hs]
      exact (nmGet?_nmErase _ _ _).trans (if_pos rfl)
    · rw [hs]
      exact nmGet_nmSet_self ..
    · rw [hs]
      exact (nmGet?_nmErase _ _ _).trans (if_neg hk)

/-! ### The fetch of a descriptor (R127, R142) -/

section
variable (s : State) (q : Nat)

/-- The operation of descriptor H, before its checks. -/
def slotOp : Op := newOp s q (BitVec.ofNat 512 (leNat (dRead s (fetchAddr s q) 64)))

/-- Whether descriptor H takes its base draw from the queue's cursor. -/
def fetchDraws : Bool := usesCursor (slotOp s q).desc && (firstFailure s (slotOp s q)).isNone

/-- The operation of descriptor H as it joins those of the package: with its failed check and its push pieces. -/
def joinedOp : Op :=
  { slotOp s q with
    failed := firstFailure s (slotOp s q), cursor := if fetchDraws s q then (qOf s q).cursor.toNat else 0
    pieces := (s.fe.push.filter (claims (slotOp s q))).foldl (fun l x => addPiece l x.offset.toNat x.data) [] }

/-- The state in which it has joined them. -/
def joinedState : State :=
  let u := updQ s q fun c => { c with
    h := c.h + 1, cursor := if fetchDraws s q then c.cursor + BitVec.ofNat 64 (drawsUsed (slotOp s q).desc) else c.cursor }
  { u with fe := { u.fe with
    ops := (s.fe.ops.filter fun x => !(x.queue = q && x.number.toNat % (planeQueue s.cfg.live q).sqEntries.toNat =
      (qOf s q).h.toNat % (planeQueue s.cfg.live q).sqEntries.toNat)) ++ [joinedOp s q]
    fetched := s.fe.fetched + 1, push := s.fe.push.filter fun x => !claims (slotOp s q) x } }

/-- A fetch moves H on, and nothing else of the counts but the cursor. -/
theorem qOf_joinedState : qOf (joinedState s q) q = { qOf s q with
    h := (qOf s q).h + 1
    cursor := if fetchDraws s q then (qOf s q).cursor + BitVec.ofNat 64 (drawsUsed (slotOp s q).desc) else (qOf s q).cursor } :=
  nmGet_nmSet_self ..

end

/-- A fetch that the read of its slot does not hold: the operation joins, waiting pieces come in, and every operation goes as far as its
gates allow. -/
theorem fetchDescriptor_takes {s : State} {q : Nat} (h : canFetch s q = true)
    (hr : canFetch (reach s [(fetchAddr s q, 64)]) q = true) :
    fetchDescriptor q s = settle (admitPush (joinedState (reach s [(fetchAddr s q, 64)]) q)) := by
  unfold fetchDescriptor
  simp only [if_pos h, if_pos hr]
  rfl

/-- One whose slot's read finds an error that holds it leaves what the read has found. -/
theorem fetchDescriptor_held {s : State} {q : Nat} (h : canFetch s q = true)
    (hr : canFetch (reach s [(fetchAddr s q, 64)]) q = false) : fetchDescriptor q s = reach s [(fetchAddr s q, 64)] := by
  unfold fetchDescriptor
  simp only [if_pos h, if_neg (ne_true_of_eq_false hr)]

/-- Settles O9: the operation is `joinedOp`, and the state in which it joins is `joinedState`. -/
theorem fetchTakesDescriptor : Obligations.FetchTakesDescriptor := by
  unfold Obligations.FetchTakesDescriptor
  refine ⟨fun s q h hr => congrArg Host.Outcome.next (fetchDescriptor_held h hr), fun s0 q h0 => ?_⟩
  intro s h
  have hgo : Goes (.descriptorFetch q) s0 (settle (admitPush (joinedState s q.val))) :=
    congrArg Host.Outcome.next (fetchDescriptor_takes h0 h)
  clear_value s
  refine ⟨joinedOp s q.val, joinedState s q.val, hgo, rfl, rfl, rfl, rfl, rfl, rfl, rfl, rfl, rfl, by simp [joinedState], ?_, ?_,
    rfl, rfl, rfl, rfl, rfl⟩
  · rw [qOf_joinedState]
  · rw [qOf_joinedState]

end Sys2Proof.Machine
end

section
/-! PROOFS. How operations move on: what every change of the list of operations leaves, what an end makes of one, and that none is due an end
once a change has played out (SPEC.md, section 03; Table 13). -/

namespace Sys2Proof.Machine

/-! ### An operation later on -/

/-- A started WAIT whose condition has held. -/
def waitMet (o : Op) : Bool := o.phase = .running && o.started && dOpcode o.desc = opWait && o.met.isSome

/-- What has become of an operation: it is the same command, it does not return to Waiting, once it is Done or Retired nothing changes it, and
a WAIT whose condition has held stays so until it ends with ST_OK. -/
structure Later (x y : Op) : Prop where
  handle : y.handle = x.handle
  desc : y.desc = x.desc
  entered : x.phase ≠ .waiting → y.phase ≠ .waiting
  ended : opLive x = false → y = x
  met : waitMet x = true → waitMet y = true ∨ (opLive y = false ∧ y.status = stOk)

theorem Later.refl (x : Op) : Later x x := ⟨rfl, rfl, id, fun _ => rfl, .inl⟩

theorem Later.trans {x y z : Op} (h : Later x y) (k : Later y z) : Later x z where
  handle := k.handle.trans h.handle
  desc := k.desc.trans h.desc
  entered := k.entered ∘ h.entered
  ended hx := by
    obtain rfl := h.ended hx
    exact k.ended hx
  met hx := by
    rcases h.met hx with hy | ⟨hy, hst⟩
    · exact k.met hy
    · obtain rfl := k.ended hy
      exact .inr ⟨hy, hst⟩

/-- The operations of a state later on, each in its place. -/
def Advances (s t : State) : Prop := ∃ f : Op → Op, t.fe.ops = s.fe.ops.map f ∧ ∀ x ∈ s.fe.ops, Later x (f x)

/-- Each handle names one operation. -/
def NamesOne (s : State) : Prop := (s.fe.ops.map (·.handle)).Nodup

theorem Advances.of_ops {s t : State} (h : t.fe.ops = s.fe.ops) : Advances s t := ⟨id, by simpa using h, fun x _ => .refl x⟩

theorem Advances.refl (s : State) : Advances s s := .of_ops rfl

theorem Advances.trans {s t u : State} (h : Advances s t) (k : Advances t u) : Advances s u := by
  obtain ⟨f, hf, hl⟩ := h
  obtain ⟨g, hg, hk⟩ := k
  refine ⟨g ∘ f, by rw [hg, hf, List.map_map], fun x hx => (hl x hx).trans (hk (f x) ?_)⟩
  rw [hf]
  exact List.mem_map_of_mem hx

theorem Advances.namesOne {s t : State} (h : Advances s t) (hs : NamesOne s) : NamesOne t := by
  obtain ⟨f, hf, hl⟩ := h
  have he : t.fe.ops.map (·.handle) = s.fe.ops.map (·.handle) := by
    rw [hf, List.map_map]
    exact List.map_congr_left fun x hx => (hl x hx).handle
  rw [NamesOne, he]
  exact hs

theorem Advances.mem {s t : State} (h : Advances s t) {x : Op} (hx : x ∈ s.fe.ops) : ∃ y ∈ t.fe.ops, Later x y := by
  obtain ⟨f, hf, hl⟩ := h
  exact ⟨f x, hf ▸ List.mem_map_of_mem hx, hl x hx⟩

/-- Nothing changes an operation that is Done or Retired. -/
theorem Advances.mem_over {s t : State} (h : Advances s t) {x : Op} (hx : x ∈ s.fe.ops) (ho : opLive x = false) : x ∈ t.fe.ops := by
  obtain ⟨y, hy, hl⟩ := h.mem hx
  exact hl.ended ho ▸ hy

theorem Advances.onlyEvents {s t : State} (h : OnlyEvents s t) : Advances s t := .of_ops h.ops

/-! ### The changes that a command's end brings about -/

theorem eq_of_handle {s : State} (hs : NamesOne s) {x y : Op} (hx : x ∈ s.fe.ops) (hy : y ∈ s.fe.ops) (h : x.handle = y.handle) : x = y :=
  List.inj_on_of_nodup_map hs hx hy h

/-- What a change of the operation of a handle does to each operation of the list. -/
def changeAt (h : Word) (f : Op → Op) (x : Op) : Op := if x.handle = h && x.phase ≠ .retired then f x else x

theorem updOp_ops (s : State) (h : Word) (f : Op → Op) : (updOp s h f).fe.ops = s.fe.ops.map (changeAt h f) := rfl

theorem later_changeAt {s : State} (hs : NamesOne s) {o : Op} (ho : o ∈ s.fe.ops) {f : Op → Op} (hf : Later o (f o)) {x : Op}
    (hx : x ∈ s.fe.ops) : Later x (changeAt o.handle f x) := by
  unfold changeAt
  split
  · next h =>
    simp only [Bool.and_eq_true, decide_eq_true_eq] at h
    obtain rfl := eq_of_handle hs hx ho h.1
    exact hf
  · exact .refl x

/-- A change of one operation of the list. -/
theorem advances_updOp {s : State} (hs : NamesOne s) {o : Op} (ho : o ∈ s.fe.ops) {f : Op → Op} (hf : Later o (f o)) :
    Advances s (updOp s o.handle f) := ⟨_, updOp_ops s o.handle f, fun _ => later_changeAt hs ho hf⟩

theorem mem_updOp_self {s : State} {o : Op} (ho : o ∈ s.fe.ops) (hp : o.phase ≠ .retired) (f : Op → Op) : f o ∈ (updOp s o.handle f).fe.ops :=
  List.mem_map.2 ⟨o, ho, by simp [hp]⟩

theorem mem_updOp_ne {s : State} {o : Op} (ho : o ∈ s.fe.ops) {h : Word} (hh : o.handle ≠ h) (f : Op → Op) : o ∈ (updOp s h f).fe.ops :=
  List.mem_map.2 ⟨o, ho, by simp [hh]⟩

/-- What a promotion makes of the list: nothing, or its operation enters Running. -/
theorem promoteOne_ops (s : State) (o : Op) : (promoteOne s o).fe.ops = s.fe.ops ∨
    ∃ f : Op → Op, Later o (f o) ∧ (promoteOne s o).fe.ops = (updOp s o.handle f).fe.ops := by
  unfold promoteOne
  split
  · next h =>
    simp only [Bool.and_eq_true, decide_eq_true_eq] at h
    obtain ⟨⟨⟨⟨⟨hw, -⟩, -⟩, -⟩, -⟩, -⟩ := h
    refine .inr ⟨fun x => { x with
      phase := .running, seat := s.fe.seats, behind := drivenBefore s o s.fe.seats
      collNo := if isColl o then collCount s o.tenant (dCplan o.desc) else 0 },
      ⟨rfl, rfl, fun h => absurd hw h, fun h => by simp [opLive, hw] at h, fun h => by simp [waitMet, hw] at h⟩, ?_⟩
    dsimp only
    split <;> (unfold enterRunning; dsimp only; split <;> rfl)
  · exact .inl rfl

theorem advances_promoteOne {s : State} (hs : NamesOne s) {o : Op} (ho : o ∈ s.fe.ops) : Advances s (promoteOne s o) := by
  rcases promoteOne_ops s o with h | ⟨f, hf, h⟩
  · exact .of_ops h
  · exact (advances_updOp hs ho hf).trans (.of_ops h)

theorem mem_promoteOne_ne (s : State) {o x : Op} (hx : x ∈ s.fe.ops) (h : x.handle ≠ o.handle) : x ∈ (promoteOne s o).fe.ops := by
  rcases promoteOne_ops s o with he | ⟨f, -, he⟩
  · exact he ▸ hx
  · exact he ▸ mem_updOp_ne hx h f

theorem advances_foldl_promoteOne : ∀ (l : List Op) (s : State), NamesOne s → (l.map (·.handle)).Nodup → (∀ o ∈ l, o ∈ s.fe.ops) →
    Advances s (l.foldl promoteOne s)
  | [], s, _, _, _ => .refl s
  | o :: l, s, hs, hl, hm => by
    rw [List.map_cons, List.nodup_cons] at hl
    rw [List.forall_mem_cons] at hm
    have ho := advances_promoteOne hs hm.1
    refine ho.trans (advances_foldl_promoteOne l _ (ho.namesOne hs) hl.2 fun x hx => mem_promoteOne_ne s (hm.2 x hx) fun he => ?_)
    exact hl.1 (he ▸ List.mem_map_of_mem hx)

theorem advances_promote {s : State} (hs : NamesOne s) : Advances s (promote s) :=
  advances_foldl_promoteOne s.fe.ops s hs hs fun _ h => h

theorem advances_markWaits (s : State) (id : Nat) (v : DWord) : Advances s (markWaits s id v) := by
  refine ⟨_, rfl, fun x _ => ?_⟩
  split
  · next h =>
    simp only [Bool.and_eq_true, decide_eq_true_eq] at h
    obtain ⟨⟨⟨⟨⟨hrun, hstarted⟩, hop⟩, -⟩, -⟩, -⟩ := h
    exact ⟨rfl, rfl, fun h => h, fun h => by simp [opLive, hrun] at h, fun _ => .inl (by simp [waitMet, hrun, hstarted, hop])⟩
  · exact .refl x

theorem advances_syncSet {s : State} (hs : NamesOne s) (id : Nat) (v : DWord) : Advances s (syncSet s id v) := by
  have hm := advances_markWaits { s with syncs := nmSet s.syncs id v } id v
  exact hm.trans (advances_promote (hm.namesOne hs))

theorem addTotals_fe (s : State) (t : BitVec 4) (c : Counts) : (addTotals s t c).fe = s.fe := by
  unfold addTotals
  split <;> rfl

theorem noteCfg_fe (s : State) (o : Op) (st : Status) : (noteCfg s o st).fe = s.fe := by
  unfold noteCfg
  split <;> rfl

theorem stallCheck_ops (s : State) (o : Op) : (stallCheck s o).fe.ops = s.fe.ops := by
  unfold stallCheck
  split
  · exact (onlyEvents_raiseEventFree _ _ _ _ _).ops
  · rfl

/-! ### The end of an operation -/

/-- An operation that ends with a result: Done, or Retired at once under QUIET with ST_OK. -/
def endOp (s : State) (o : Op) (r : Res) (x : Op) : Op :=
  { x with
    phase := if dQuiet o.desc && r.status = stOk then .retired else .done, status := r.status, res0 := r.res0, res1 := r.res1
    counts := r.counts, empty := r.empty, signalled := signalsHere s o r || r.signalled }

theorem opLive_endOp (s : State) (o : Op) (r : Res) (x : Op) : opLive (endOp s o r x) = false := by
  by_cases h : (dQuiet o.desc && r.status = stOk) = true <;> simp [opLive, endOp, h]

theorem later_endOp {s : State} {o : Op} {r : Res} {x : Op} (hx : opLive x = true) (hmet : waitMet x = true → r.status = stOk) :
    Later x (endOp s o r x) where
  handle := rfl
  desc := rfl
  entered _ := by by_cases h : (dQuiet o.desc && r.status = stOk) = true <;> simp [endOp, h]
  ended h := absurd hx (by simp [h])
  met h := .inr ⟨opLive_endOp s o r x, hmet h⟩

/-- An operation has ended, its results stand, and its signal, or what its end alone lets go, follows (R145). -/
def endSignal (s : State) (o : Op) (r : Res) : State :=
  let u := noteCfg (addTotals (updOp s o.handle (endOp s o r)) o.tenant r.counts) o r.status
  if signalsHere s o r then syncAdd u (dSigSync o.desc) (BitVec.ofNat 64 (dSigAdd o.desc)) else promote u

theorem finishOp_eq (s : State) (o : Op) (r : Res) :
    finishOp s o r = if dQuiet o.desc && r.status = stOk then endSignal s o r else stallCheck (endSignal s o r) o := rfl

theorem advances_endSignal {s : State} {o : Op} (r : Res) (hs : NamesOne (updOp s o.handle (endOp s o r))) :
    Advances (updOp s o.handle (endOp s o r)) (endSignal s o r) := by
  have hnote : Advances (updOp s o.handle (endOp s o r)) (noteCfg (addTotals (updOp s o.handle (endOp s o r)) o.tenant r.counts) o r.status) :=
    .of_ops (by rw [noteCfg_fe, addTotals_fe])
  unfold endSignal
  dsimp only
  split
  · exact hnote.trans (advances_syncSet (hnote.namesOne hs) _ _)
  · exact hnote.trans (advances_promote (hnote.namesOne hs))

theorem advances_finishOp {s : State} {o : Op} (r : Res) (hs : NamesOne (updOp s o.handle (endOp s o r))) :
    Advances (updOp s o.handle (endOp s o r)) (finishOp s o r) := by
  rw [finishOp_eq]
  split
  · exact advances_endSignal r hs
  · exact (advances_endSignal r hs).trans (.of_ops (stallCheck_ops _ o))

/-! ### Ends that are due -/

/-- Whether an operation may still come to an end of its own: it is Waiting, or it is a WAIT or a FENCE at work. -/
def mayEnd (o : Op) : Bool := o.phase = .waiting || (o.phase = .running && (dOpcode o.desc = opWait || dOpcode o.desc = opFence))

theorem mayEnd_of_later {x y : Op} (h : Later x y) (hy : mayEnd y = true) : mayEnd x = true := by
  by_cases hx : opLive x = true
  · by_cases hw : x.phase = .waiting
    · simp [mayEnd, hw]
    · have hrun : x.phase = .running := by simpa [opLive, hw] using hx
      have hop : y.phase = .running ∧ (dOpcode x.desc = opWait ∨ dOpcode x.desc = opFence) := by
        simpa [mayEnd, h.entered hw, h.desc] using hy
      simpa [mayEnd, hrun] using hop.2
  · exact h.ended (by simpa using hx) ▸ hy

/-- The operations that may still come to an end of their own. -/
def mayEnds (s : State) : Nat := s.fe.ops.countP mayEnd

theorem countP_map_le {p : Op → Bool} {f : Op → Op} : ∀ {l : List Op}, (∀ x ∈ l, p (f x) = true → p x = true) →
    (l.map f).countP p ≤ l.countP p
  | [], _ => Nat.le_refl _
  | x :: l, h => by
    rw [List.forall_mem_cons] at h
    have hl := countP_map_le h.2
    rw [List.map_cons, List.countP_cons, List.countP_cons]
    by_cases hx : p (f x) = true
    · rw [if_pos hx, if_pos (h.1 hx)]; omega
    · rw [if_neg hx]; omega

/-- Fewer elements of a list meet a condition once one that met it does so no more, and no other has come to. -/
theorem countP_map_lt {p : Op → Bool} {f : Op → Op} {o : Op} (ho : p o = true) (hf : p (f o) = false) {l : List Op} (hm : o ∈ l)
    (h : ∀ x ∈ l, p (f x) = true → p x = true) : (l.map f).countP p < l.countP p := by
  obtain ⟨l₁, l₂, rfl⟩ := List.append_of_mem hm
  simp only [List.forall_mem_append, List.forall_mem_cons] at h
  have h₁ := countP_map_le h.1
  have h₂ := countP_map_le h.2.2
  simp only [List.map_append, List.map_cons, List.countP_append, List.countP_cons, ho, hf, if_true, Bool.false_eq_true, if_false]
  omega

theorem Advances.mayEnds_le {s t : State} (h : Advances s t) : mayEnds t ≤ mayEnds s := by
  obtain ⟨f, hf, hl⟩ := h
  rw [mayEnds, hf]
  exact countP_map_le fun x hx => mayEnd_of_later (hl x hx)

theorem mayEnds_updOp_lt {s : State} (hs : NamesOne s) {o : Op} (ho : o ∈ s.fe.ops) (hmay : mayEnd o = true) {f : Op → Op}
    (hf : mayEnd (f o) = false) (hl : Later o (f o)) : mayEnds (updOp s o.handle f) < mayEnds s := by
  have hphase : o.phase ≠ .retired := fun h => by simp [mayEnd, h] at hmay
  refine countP_map_lt hmay ?_ ho fun x hx => mayEnd_of_later (later_changeAt hs ho hl hx)
  simpa [hphase] using hf

/-- What an operation that is due becomes: it ends, or its signal on another package is on its way (R142, R776). -/
structure DueStep (s t : State) (o : Op) (f : Op → Op) : Prop where
  mem : o ∈ s.fe.ops
  may : mayEnd o = true
  after : mayEnd (f o) = false
  later : Later o (f o)
  rest : NamesOne (updOp s o.handle f) → Advances (updOp s o.handle f) t

theorem mayEnd_of_due {s : State} {o : Op} {r : Res} (h : dueEnd s o = some r) :
    mayEnd o = true ∧ opLive o = true ∧ (waitMet o = true → r.status = stOk) := by
  unfold dueEnd at h
  split at h
  · next hw => exact ⟨by simp [mayEnd, hw], by simp [opLive, hw], fun hm => by simp [waitMet, hw] at hm⟩
  · split at h
    · next hrun =>
      simp only [Bool.and_eq_true, decide_eq_true_eq] at hrun
      have hlive : opLive o = true := by simp [opLive, hrun.1]
      split at h
      · next hop =>
        obtain ⟨v, -, rfl⟩ := Option.map_eq_some_iff.1 h
        exact ⟨by simp [mayEnd, hrun.1, hop], hlive, fun _ => rfl⟩
      · next hop =>
        split at h
        · next hfence => exact ⟨by simp [mayEnd, hrun.1, hfence], hlive, fun hm => by simp [waitMet, hop] at hm⟩
        · cases h
    · cases h

theorem dueStep_of_endDue {s t : State} (h : endDue s = some t) : ∃ o f, DueStep s t o f := by
  unfold endDue at h
  split at h
  · cases h
  · next o ho =>
    have hm := List.mem_of_find?_eq_some ho
    split at h
    · cases h
    · next r hr =>
      obtain ⟨hmay, hlive, hmet⟩ := mayEnd_of_due hr
      split at h
      · next hfar =>
        simp only [Option.some.injEq] at h
        subst h
        simp only [failsFar, farDst, Bool.and_eq_true, decide_eq_true_eq] at hfar
        obtain ⟨⟨⟨hw, ⟨hop, -⟩, -⟩, -⟩, -⟩ := hfar
        have hplain : dOpcode o.desc ≠ opWait ∧ dOpcode o.desc ≠ opFence := by
          constructor <;> intro he <;> rw [he] at hop <;> exact absurd hop (by decide)
        refine ⟨o, _, hm, hmay, ?_, ?_, fun _ => .refl _⟩
        · simp [mayEnd, hplain]
        · exact ⟨rfl, rfl, fun h => absurd hw h, fun h => by simp [hlive] at h, fun h => by simp [waitMet, hw] at h⟩
      · simp only [Option.some.injEq] at h
        subst h
        have hops : ∀ u : State, u.fe = s.fe → u.cfg = s.cfg → DueStep s (finishOp u o r) o (endOp s o r) := fun u hu hc => by
          have hend : endOp u o r = endOp s o r := by unfold endOp signalsHere; rw [hc]
          have he : Advances (updOp s o.handle (endOp s o r)) (updOp u o.handle (endOp u o r)) := .of_ops (by
            rw [hend]; unfold updOp; rw [hu])
          refine ⟨hm, hmay, ?_, later_endOp hlive hmet, fun hs => he.trans (advances_finishOp r (he.namesOne hs))⟩
          have hover := opLive_endOp s o r o
          simp only [opLive, Bool.or_eq_false_iff] at hover
          simp [mayEnd, hover]
        split
        · exact ⟨o, _, hops _ rfl rfl⟩
        · exact ⟨o, _, hops _ rfl rfl⟩

/-- One end that is due: every operation moves on, and one operation fewer may still come to an end of its own. -/
theorem endDue_progress {s t : State} (hs : NamesOne s) (h : endDue s = some t) : Advances s t ∧ mayEnds t < mayEnds s := by
  obtain ⟨o, f, d⟩ := dueStep_of_endDue h
  have hu := advances_updOp hs d.mem d.later
  have ht := d.rest (hu.namesOne hs)
  exact ⟨hu.trans ht, Nat.lt_of_le_of_lt ht.mayEnds_le (mayEnds_updOp_lt hs d.mem d.may d.after d.later)⟩

/-! ### Every consequence of a change -/

theorem advances_settleGo : ∀ (n : Nat) {s : State}, NamesOne s → Advances s (settleGo n s)
  | 0, s, _ => .refl s
  | n + 1, s, hs => by
    simp only [settleGo]
    split
    · exact .refl s
    · next t ht =>
      have h := (endDue_progress hs ht).1
      exact h.trans (advances_settleGo n (h.namesOne hs))

theorem endDue_settleGo : ∀ (n : Nat) {s : State}, NamesOne s → mayEnds s < n → endDue (settleGo n s) = none
  | 0, _, _, hn => absurd hn (Nat.not_lt_zero _)
  | n + 1, s, hs, hn => by
    simp only [settleGo]
    split
    · assumption
    · next t ht =>
      obtain ⟨h, hlt⟩ := endDue_progress hs ht
      exact endDue_settleGo n (h.namesOne hs) (by omega)

theorem advances_settle {s : State} (hs : NamesOne s) : Advances s (settle s) :=
  (advances_promote hs).trans (advances_settleGo _ ((advances_promote hs).namesOne hs))

/-- Once every consequence of a change has played out, no operation is due an end. -/
theorem endDue_settle {s : State} (hs : NamesOne s) : endDue (settle s) = none := by
  have hp := advances_promote hs
  refine endDue_settleGo _ (hp.namesOne hs) (Nat.lt_succ_of_le (hp.mayEnds_le.trans ?_))
  exact List.countP_le_length

/-- No WAIT whose condition has held is left where no operation is due an end. -/
theorem waitMet_of_endDue_none {s : State} (h : endDue s = none) {x : Op} (hx : x ∈ s.fe.ops) : waitMet x = false := by
  by_contra hm
  simp only [Bool.not_eq_false, waitMet, Bool.and_eq_true, decide_eq_true_eq] at hm
  obtain ⟨⟨⟨hrun, hstarted⟩, hop⟩, hmet⟩ := hm
  have hdue : (dueEnd s x).isSome = true := by simp [dueEnd, hrun, hstarted, hop, hmet]
  unfold endDue at h
  split at h
  · next hf => exact List.find?_eq_none.1 hf x hx hdue
  · next o ho =>
    have hsome := List.find?_some ho
    split at h
    · next hnone => simp [hnone] at hsome
    · split at h <;> cases h

/-! ### What a completion and a timeout leave of an operation -/

theorem namesOne_updOp {s : State} (hs : NamesOne s) (h : Word) {f : Op → Op} (hf : ∀ x, (f x).handle = x.handle) : NamesOne (updOp s h f) := by
  have he : (updOp s h f).fe.ops.map (·.handle) = s.fe.ops.map (·.handle) := by
    rw [updOp_ops, List.map_map]
    refine List.map_congr_left fun x _ => ?_
    simp only [Function.comp, changeAt]
    split
    · exact hf x
    · rfl
  rw [NamesOne, he]
  exact hs

/-- The operation that a command completes is among those of the package, ended as its result says. -/
theorem endOp_mem_complete {s : State} {o : Op} (r : Res) (hs : NamesOne s) (ho : o ∈ s.fe.ops) (hp : o.phase ≠ .retired) :
    endOp s o r o ∈ (complete s o r).fe.ops := by
  have hu : NamesOne (updOp s o.handle (endOp s o r)) := namesOne_updOp hs _ fun _ => rfl
  have hfin := advances_finishOp r hu
  exact (hfin.trans (advances_settle (hfin.namesOne hu))).mem_over (mem_updOp_self ho hp _) (opLive_endOp s o r o)

/-- Settles O11: nothing that follows an operation's end changes it. -/
theorem completeMakesDone : Obligations.CompleteMakesDone := by
  unfold Obligations.CompleteMakesDone
  intro s o r ho hrun hs
  exact ⟨endOp s o r o, endOp_mem_complete r hs ho (by simp [hrun]), rfl, rfl, rfl, rfl, rfl, rfl⟩

theorem findOp_some {s : State} {h : Word} {o : Op} (hf : findOp s h = some o) : o ∈ s.fe.ops ∧ o.handle = h ∧ o.phase ≠ .retired := by
  have hp := List.find?_some hf
  simp only [Bool.and_eq_true, decide_eq_true_eq] at hp
  exact ⟨List.mem_of_find?_eq_some hf, hp.1, hp.2⟩

/-- A started WAIT that is marked with a value ends with ST_OK as the mark's consequences play out. -/
theorem settle_ends_waitMet {s : State} (hs : NamesOne s) {o : Op} (ho : o ∈ s.fe.ops) (hm : waitMet o = true) :
    ∃ y ∈ (settle s).fe.ops, y.handle = o.handle ∧ (y.phase = .done ∨ y.phase = .retired) ∧ y.status = stOk := by
  obtain ⟨y, hy, hl⟩ := (advances_settle hs).mem ho
  rcases hl.met hm with hwait | ⟨hover, hst⟩
  · rw [waitMet_of_endDue_none (endDue_settle hs) hy] at hwait
    cases hwait
  · refine ⟨y, hy, hl.handle, ?_, hst⟩
    cases hp : y.phase <;> simp [opLive, hp] at hover ⊢

/-- Settles O13: the condition is evaluated once more, and a mark ends the WAIT as soon as its consequences play out. -/
theorem waitTimeoutRule : Obligations.WaitTimeoutRule := by
  unfold Obligations.WaitTimeoutRule
  intro s h o hfind hop hrun hstarted htime
  refine ⟨fun hno => congrArg Host.Outcome.next ?_, fun hholds hs => ?_⟩
  · simp [waitTimeout, hfind, hop, hrun, hstarted, htime, hno]
  · obtain ⟨ho, rfl, hp⟩ := findOp_some hfind
    have hu : NamesOne (updOp s o.handle fun x => { x with met := some (syncGet s (dField o.desc 24 2)) }) :=
      namesOne_updOp hs _ fun _ => rfl
    obtain ⟨y, hy, hh, hphase, hst⟩ := settle_ends_waitMet hu (mem_updOp_self ho hp _) (by simp [waitMet, hop, hrun, hstarted])
    refine ⟨_, congrArg Host.Outcome.next ?_, y, hy, hh, hphase, hst⟩
    simp [waitTimeout, hfind, hop, hrun, hstarted, htime, hholds]

end Sys2Proof.Machine
end

section
/-! PROOFS. The synchronization commands, and the commands whose operands lie on another package (SPEC.md, section 03). -/

namespace Sys2Proof.Machine

/-! ### What a signal leaves -/

theorem promoteOne_rest (s : State) (o : Op) : (promoteOne s o).syncs = s.syncs ∧ (promoteOne s o).regs = s.regs := by
  unfold promoteOne enterRunning
  dsimp only
  repeat' split
  all_goals exact ⟨rfl, rfl⟩

theorem promote_rest (s : State) : (promote s).syncs = s.syncs ∧ (promote s).regs = s.regs := by
  have hfold : ∀ (l : List Op) (t : State), (l.foldl promoteOne t).syncs = t.syncs ∧ (l.foldl promoteOne t).regs = t.regs := by
    intro l
    induction l with
    | nil => exact fun t => ⟨rfl, rfl⟩
    | cons o l ih =>
      intro t
      have ho := promoteOne_rest t o
      exact ⟨(ih _).1.trans ho.1, (ih _).2.trans ho.2⟩
  exact hfold s.fe.ops s

theorem syncSet_syncs (s : State) (id : Nat) (v : DWord) : (syncSet s id v).syncs = nmSet s.syncs id v := (promote_rest _).1

theorem syncSet_regs (s : State) (id : Nat) (v : DWord) : (syncSet s id v).regs = s.regs := (promote_rest _).2

/-- A change of a sync object sets that object and no other. -/
theorem syncGet_syncSet (s : State) (id : Nat) (v : DWord) (k : Nat) : syncGet (syncSet s id v) k = if k = id then v else syncGet s k := by
  rw [syncGet, syncSet_syncs]
  split
  · next h => rw [h, nmGet_nmSet_self]
  · next h => exact nmGet_nmSet_ne _ _ _ h

/-- A signal adds modulo 2^64 (R151). -/
theorem syncGet_syncAdd (s : State) (id : Nat) (v : DWord) (k : Nat) :
    syncGet (syncAdd s id v) k = if k = id then BitVec.ofNat 64 ((syncGet s id).toNat + v.toNat) else syncGet s k := by
  rw [syncAdd, syncGet_syncSet]
  split
  · exact BitVec.eq_of_toNat_eq (by simp [BitVec.toNat_add])
  · rfl

/-! ### SIGNAL -/

/-- A SIGNAL to an object of another package sends one zero-length FINAL frame, which no value above 32 bits leaves open (R137). -/
theorem trySignal_far {s : State} {o : Op} (hfar : signalFar s.cfg.live o.desc = true) (hv : dField o.desc 32 8 < 2 ^ 32) :
    trySignal s o = .go (awaitLanding (sendRouted
      (updOp (takeStream s true).1 o.handle fun x => { x with stream := (takeStream s true).2.toNat })
      { frameBlank s 0x01 (BitVec.ofNat 13 (dField o.desc 26 2)) with
        flags := 1, tenant := o.tenant, stream := (takeStream s true).2, group := BitVec.ofNat 14 (dField o.desc 24 2)
        sigAdd := BitVec.ofNat 32 (dField o.desc 32 8) } none) o.handle 1 resOk) := by
  simp only [trySignal, hfar, if_true, hv]
  rfl

theorem trySignal_adds {s : State} {o : Op} (hfar : signalFar s.cfg.live o.desc = false) (hset : dField o.desc 28 1 = 0) :
    trySignal s o = .done (syncAdd s (dField o.desc 24 2) (BitVec.ofNat 64 (dField o.desc 32 8))) resOk := by
  simp [trySignal, hfar, hset]

theorem trySignal_sets {s : State} {o : Op} (hfar : signalFar s.cfg.live o.desc = false) (hset : dField o.desc 28 1 = 1) :
    trySignal s o = .done (syncSet s (dField o.desc 24 2) (BitVec.ofNat 64 (dField o.desc 32 8))) resOk := by
  simp [trySignal, hfar, hset]

/-- A command that ends with ST_OK as it begins to act. -/
theorem runCommand_ok {s t : State} {h : Word} {o : Op} {c : Nat} {f : State → Op → Outcome} (ho : Ready s h c o)
    (hf : f (begun s h) (begunOp o) = .done t resOk) : runCommand c f h s = complete t o resOk :=
  runCommand_done ho hf (finalOwed_false _ _ _ (.inr rfl))

/-- Settles O12: each command by what its try comes to, and the sync objects by what a change sets. -/
theorem syncCommandsAct : Obligations.SyncCommandsAct := by
  unfold Obligations.SyncCommandsAct
  refine ⟨fun s h o => ⟨fun ho => ?_, fun ho => ?_, fun ho hv => ?_, fun ho hv => ?_, fun ho hfar hset => ?_, fun ho hfar hset => ?_⟩,
    fun s id v => ⟨?_, ?_, fun k hk => ⟨?_, ?_⟩, ?_, ?_, (onlyOps_syncAdd s id v).step⟩⟩
  · exact congrArg Host.Outcome.next (runCommand_ok ho rfl)
  · exact congrArg Host.Outcome.next (runCommand_go ho rfl)
  · exact congrArg Host.Outcome.next (runCommand_go ho (if_pos hv))
  · exact congrArg Host.Outcome.next (runCommand_go ho (if_neg (ne_true_of_eq_false hv)))
  · exact congrArg (fun t => Host.Outcome.next (settle (slotGathers t))) (runCommand_ok ho (trySignal_adds hfar hset))
  · exact congrArg (fun t => Host.Outcome.next (settle (slotGathers t))) (runCommand_ok ho (trySignal_sets hfar hset))
  · rw [syncGet_syncAdd, if_pos rfl]
  · rw [syncGet_syncSet, if_pos rfl]
  · rw [syncGet_syncAdd, if_neg hk]
  · rw [syncGet_syncSet, if_neg hk]
  · rw [(onlyOps_syncAdd s id v).mem]
  · exact syncSet_regs s id _

/-! ### Data commands that begin to act -/

theorem groupless_begun {s : State} (hg : Groupless s) (h : Word) : Groupless (begun s h) := by
  refine ⟨hg.1, fun x hx => ?_⟩
  obtain ⟨y, hy, rfl⟩ := List.mem_map.1 hx
  have hop := hg.2 y hy
  split
  · exact hop
  · exact hop

theorem beginPending_groupless {s : State} (hg : Groupless s) (o : Op) : beginPending s o = false := by
  refine List.any_eq_false.2 fun x hx => ?_
  simp [hg.2 x hx]

theorem groupOf_groupless {s : State} (hg : Groupless s) (o : Op) : groupOf s o = none := by simp [groupOf, hg.1]

/-- Without a transaction group a data command goes on at once. -/
theorem withGroup_groupless {s : State} (hg : Groupless s) (o : Op) (space addr : Nat) (k : Outcome) : withGroup s o space addr k = k := by
  simp [withGroup, joinGroup, groupBadSpace, groupConflict, beginPending_groupless hg, groupOf_groupless hg]

section
variable {s t : State} {h : Word} {o : Op} {c : Nat} {f : State → Op → Outcome}

theorem pulledOn_ready (ho : Ready s h c o) : pulledOn s c h = none := by
  obtain ⟨hfind, -, -, hstarted⟩ := ho
  simp [pulledOn, hfind, hstarted]

/-- A data command in turn is tried at once (R74). -/
theorem runData_inTurn (ho : Ready s h c o) (ht : InTurn s h o) : runData c f h s = runCommand c (sensing dataReads f) h s := by
  obtain ⟨hfind, hop, hrun, hstarted⟩ := ho
  obtain ⟨hown, horder⟩ := ht
  have hall : (s.fe.held.takeWhile fun x => !ownPlace h x) = s.fe.held :=
    List.takeWhile_eq_self_iff.2 fun x hx => by simpa using List.any_eq_false.1 hown x hx
  unfold runData
  rw [hfind]
  simp [hop, hrun, hstarted, hall, horder, hown]

theorem runData_go (ho : Ready s h c o) (ht : InTurn s h o) (hf : f (begun s h) (begunOp o) = .go t) : runData c f h s = settle t := by
  rw [runData_inTurn ho ht]
  exact runCommand_go ho (sensing_go _ _ _ _ _ hf)

end

/-! ### Operands on another package -/

/-- The SERVE frame that asks another package for a command's source, which the command then waits for (R354). -/
def asksServe (s : State) (o : Op) (pkg : BitVec 13) : State :=
  sendServe (updOp (takeStream s false).1 o.handle fun x =>
    { x with pull := true, remote := 1, stream := (takeStream s false).2.toNat, status := stOk, pieces := [], spoiled := [] })
    pkg o.tenant (takeStream s false).2 (leBytes 64 o.desc.toNat)

theorem askServe_there {s : State} {o : Op} {pkg : BitVec 13} {a : Nat} (h : sysAddr s.cfg.live (dSrc o.desc) = .there pkg a) :
    askServe s o = .go (asksServe s o pkg) := by
  simp only [askServe, h]
  rfl

theorem farAddr_there {p : Plane} {x : Nat} {pkg : BitVec 13} {a : Nat} (h : sysAddr p x = .there pkg a) : farAddr p x = true := by
  simp [farAddr, h]

theorem tryCopy_farSource {s : State} {o : Op} {pkg : BitVec 13} {a : Nat} (hg : Groupless s) (he : dEmpty o.desc = false)
    (hs : dSrcSpace o.desc = 0) (h : sysAddr s.cfg.live (dSrc o.desc) = .there pkg a) : tryCopy s o = .go (asksServe s o pkg) := by
  rw [tryCopy, withGroup_groupless hg, ← askServe_there h]
  simp [he, hs, farAddr_there h]

theorem tryConvert_farSource {s : State} {o : Op} {pkg : BitVec 13} {a : Nat} (hg : Groupless s) (he : dEmpty o.desc = false)
    (hs : dSrcSpace o.desc = 0) (h : sysAddr s.cfg.live (dSrc o.desc) = .there pkg a) : tryConvert s o = .go (asksServe s o pkg) := by
  rw [tryConvert, withGroup_groupless hg, ← askServe_there h]
  simp [he, hs, farAddr_there h]

/-- A COPY from S-space to another package sends its data there as one stream, and waits until it has landed (R776). -/
theorem tryCopy_farDestination {s : State} {o : Op} {pkg : BitVec 13} {a : Nat} (hg : Groupless s) (he : dEmpty o.desc = false)
    (hs : dSrcSpace o.desc = 1) (hd : dDstSpace o.desc = 0) (h : sysAddr s.cfg.live (dDst o.desc) = .there pkg a)
    (hsent : (sendData s o pkg a (sRead s (dSrc o.desc) (dCount o.desc)) stOk).2 ≠ 0) :
    tryCopy s o = .go (awaitLanding (sendData s o pkg a (sRead s (dSrc o.desc) (dCount o.desc)) stOk).1 o.handle
      (sendData s o pkg a (sRead s (dSrc o.desc) (dCount o.desc)) stOk).2
      { status := stOk, res1 := BitVec.ofNat 64 (sRead s (dSrc o.desc) (dCount o.desc)).length }) := by
  rw [tryCopy, withGroup_groupless hg]
  simp [he, hs, readOperand, copyResult, cleanBytes, readStatus, writeResult, hd, h, hsent]

/-- Settles O23: each command's try, by where its operand lies. -/
theorem remoteOperands : Obligations.RemoteOperands := by
  unfold Obligations.RemoteOperands
  refine ⟨fun s h o pkg a c hc hg ht he hs hsrc => ?_, fun s h o pkg a ho hg ht he hs hd hdst => ?_, fun s h o ho hfar hv => ?_⟩
  · have hg' := groupless_begun hg h
    rcases hc with ⟨rfl, ho⟩ | ⟨rfl, ho⟩
    · have hf : tryCopy (begun s h) (begunOp o) = .go (asksServe (begun s h) (begunOp o) pkg) := tryCopy_farSource hg' he hs hsrc
      show execCopy h s = _
      simp only [execCopy, pulledOn_ready ho]
      exact congrArg Host.Outcome.next (runData_go ho ht hf)
    · have hf : tryConvert (begun s h) (begunOp o) = .go (asksServe (begun s h) (begunOp o) pkg) := tryConvert_farSource hg' he hs hsrc
      show execConvert h s = _
      simp only [execConvert, pulledOn_ready ho]
      exact congrArg Host.Outcome.next (runData_go ho ht hf)
  · intro x hsent
    show execCopy h s = _
    simp only [execCopy, pulledOn_ready ho]
    exact congrArg Host.Outcome.next (runData_go ho ht (tryCopy_farDestination (groupless_begun hg h) he hs hd hdst hsent))
  · exact congrArg (fun t => Host.Outcome.next (settle (slotGathers t))) (runCommand_go ho (trySignal_far hfar hv))

end Sys2Proof.Machine
end

section
/-! PROOFS. Host writes that land at their homes, and a host read of a memory that is not in canonical form (SPEC.md, sections 02 and 03). -/

namespace Sys2Proof.Machine

/-! ### Home caches over arrays that serve -/

theorem OnlyCache.noFailed {s t : State} (h : OnlyCache s t) (hs : NoFailed s) : NoFailed t := by
  rw [h]; exact hs

/-- Accesses that each change the caches alone, over arrays that serve, change the caches alone together. -/
theorem OnlyCache.foldl {α : Type} {f : State → α → State} (hf : ∀ s x, NoFailed s → OnlyCache s (f s x)) :
    ∀ (l : List α) {s : State}, NoFailed s → OnlyCache s (l.foldl f s)
  | [], s, _ => .refl s
  | x :: l, s, hs => (hf s x hs).trans (OnlyCache.foldl hf l ((hf s x hs).noFailed hs))

/-- A sector's write at its home needs no more than an array that serves. -/
theorem onlyCache_homeWriteSector_serving {s : State} (h : NoFailed s) (hint a : Nat) (small : Bool) :
    OnlyCache s (homeWriteSector hint small s a) := by
  unfold homeWriteSector
  dsimp only
  split
  · exact .refl s
  · split
    · exact .refl s
    · have hkeep := onlyCache_keepsLine s (homeDie s a) (a / 128) hint
      exact hkeep.trans (onlyCache_putLine (hkeep.noFailed h) _)

/-- The lines that hold the sectors of a write, with these sectors dirty or dropped. -/
def writeSectors (s : State) (hint a n : Nat) : State :=
  ((blocksOf 64 a n).map (· * 64)).foldl (fun s b => homeWriteSector hint (smallPart a n b) s b) s

theorem writeThrough_eq (s : State) (hint a : Nat) (bs : List Byte) :
    writeThrough s hint a bs = dWrite (writeSectors s hint a bs.length) a bs := rfl

theorem onlyCache_writeSectors {s : State} (h : NoFailed s) (hint a n : Nat) : OnlyCache s (writeSectors s hint a n) :=
  .foldl (fun _ b hs => onlyCache_homeWriteSector_serving hs hint b (smallPart a n b)) _ h

/-! ### Host writes -/

/-- A write drops copies that its module must not read again, and nothing else (R78). -/
theorem dropOwnCopies_only (s : State) (r : HostReq) (n : Nat) : ∃ copies cache, dropOwnCopies s r n =
    { s with mem := { s.mem with copies := copies }, units := { s.units with cache := cache } } := by
  have hfold : ∀ (l : List Nat) (t : State), ∃ cache, (l.foldl (fun s l => dropLine s (dieOf r) l true) t) =
      { t with units := { t.units with cache := cache } } := by
    intro l
    induction l with
    | nil => exact fun t => ⟨t.units.cache, rfl⟩
    | cons x l ih =>
      intro t
      obtain ⟨cache, h⟩ := ih (dropLine t (dieOf r) x true)
      exact ⟨cache, h⟩
  obtain ⟨cache, h⟩ := hfold (blocksOf 128 r.addr.toNat n) s
  refine ⟨s.mem.copies.filter fun c => !(c.module = r.module.val && meets c.addr c.data.length r.addr.toNat n), cache, ?_⟩
  unfold dropOwnCopies
  dsimp only
  rw [h]

theorem releaseHold_integ (s : State) (a n : Nat) : (releaseHold s a n).units.integ = s.units.integ := by
  unfold releaseHold
  split
  · rfl
  · exact catchUps_integ _ _

theorem dirtyLines_integ (s : State) (a n : Nat) : (dirtyLines s a n).units.integ = s.units.integ := by
  unfold dirtyLines
  split <;> rfl

theorem dWrite_integ (s : State) (a : Nat) (bs : List Byte) : (dWrite s a bs).units.integ = s.units.integ := by
  unfold dWrite
  split
  · rfl
  · exact (dirtyLines_integ _ _ _).trans (releaseHold_integ s a bs.length)

/-- What a host write that lands leaves of a state: the bytes of its range, and all of what a write does not concern. -/
structure HostLanded (s t : State) (a : Nat) (bs : List Byte) : Prop where
  cells : Laid s.mem.cells t.mem.cells a bs
  scells : t.mem.scells = s.mem.scells
  prows : t.mem.prows = s.mem.prows
  fe : t.fe = s.fe
  syncs : t.syncs = s.syncs
  cfg : t.cfg = s.cfg
  step : t.step = s.step
  integ : t.units.integ = s.units.integ

theorem hostLanded_writeThrough {s : State} (r : HostReq) {bs : List Byte} (hs : NoFailed s)
    (hcut : poisonCut s r.addr.toNat bs.length = false) :
    HostLanded s (writeThrough (dropOwnCopies s r bs.length) r.hint.toNat r.addr.toNat bs) r.addr.toNat bs := by
  obtain ⟨copies, cache, hd⟩ := dropOwnCopies_only s r bs.length
  rw [writeThrough_eq, hd]
  have hc := onlyCache_writeSectors (s := { s with mem := { s.mem with copies := copies }, units := { s.units with cache := cache } })
    hs r.hint.toNat r.addr.toNat bs.length
  generalize writeSectors _ r.hint.toNat r.addr.toNat bs.length = u at hc ⊢
  have hu : NoFailed u := hc.noFailed hs
  have hmem : u.mem = { s.mem with copies := copies } := hc.mem
  have hcut' : poisonCut u r.addr.toNat bs.length = false := by
    rw [← hcut]; unfold poisonCut poisonPart; rw [hmem]
  have hlaid := dWrite_laid u r.addr.toNat bs hu hcut'
  obtain ⟨-, -, -, hfe, hsyncs, hcfg, hstep, -, hscells, hprows⟩ := dWrite_rest u r.addr.toNat bs
  have hinteg := dWrite_integ u r.addr.toNat bs
  rw [hmem] at hlaid hscells hprows
  unfold OnlyCache at hc
  rw [hc] at hfe hsyncs hcfg hstep hinteg ⊢
  rw [hc] at hlaid hscells hprows
  exact ⟨hlaid, hscells, hprows, hfe, hsyncs, hcfg, hstep, hinteg⟩

section
variable {s : State} {r : HostReq} {n : Nat}

/-- A write that nothing holds and that cuts no poisoned granule lands, and is answered ST_OK. -/
theorem serveWrite_lands (hmeets : heldMeets s.fe.held r n = false) (hheld : writeHeld s none r.addr.toNat n = false)
    (horder : orderChans s [(r.addr.toNat, n)] = []) (hcut : poisonCut s r.addr.toNat n = false) (hlen : r.data.length = n) (type : Nat) :
    serveWrite s type r n = respond (writeThrough (dropOwnCopies s r n) r.hint.toNat r.addr.toNat r.data) r stOk [] := by
  have hdata : padTo n 0 (r.data.take n) = r.data := by
    rw [List.take_of_length_le (by omega), padTo_eq_self _ _ _ (by omega)]
  unfold serveWrite
  dsimp only
  rw [hdata, if_neg (by simp [hmeets, hheld, horder]), if_neg (by simp [hcut])]

/-- A host write that no check turns away comes to its home. -/
theorem hostWrite_home (hr : reqAllowed s r = true) (ha : r.addr.toNat % n = 0) (hp : protectedOwner s r.addr.toNat n = none)
    (hown : dOwned s r.tenant r.addr.toNat n = true) (hmap : dMapped s r.addr.toNat n = true) (type : Nat) :
    hostWrite s type r n = refetchLanded (serveWrite s type r n) r.addr.toNat n := by
  simp [hostWrite, hr, ha, hp, hown, hmap]

end

theorem refetchLanded_none {s : State} (h : s.units.integ.refetch = []) (a n : Nat) : refetchLanded s a n = s := by
  simp [refetchLanded, h]

/-- Settles O3: the write passes every check, and its bytes are laid at its address. -/
theorem hostWriteLands : Obligations.HostWriteLands := by
  unfold Obligations.HostWriteLands
  intro s r n c hc hr ha hp hown hmap hmeets hheld horder hcut hs hrefetch hlen
  have hl := hostLanded_writeThrough (bs := r.data) r hs (hlen ▸ hcut)
  rw [hlen] at hl
  have hrun : ∀ type, hostWrite s type r n = respond (writeThrough (dropOwnCopies s r n) r.hint.toNat r.addr.toNat r.data) r stOk [] :=
    fun type => by
      rw [hostWrite_home hr ha hp hown hmap, serveWrite_lands hmeets hheld horder hcut hlen, refetchLanded_none]
      rw [respond_units, hl.integ, hrefetch]
  have hgo : Goes c s (respond (writeThrough (dropOwnCopies s r n) r.hint.toNat r.addr.toNat r.data) r stOk []) := by
    rcases hc with ⟨rfl, hattr, rfl⟩ | ⟨rfl, rfl⟩
    · exact congrArg Host.Outcome.next ((if_pos hattr).trans (hrun 0x02))
    · exact congrArg Host.Outcome.next (hrun 0x04)
  refine ⟨_, hgo, fun b => ?_, hl.scells, hl.prows, hl.syncs, hl.cfg, hl.step, ?_⟩
  · exact hlen ▸ hl.cells b
  · rw [respond_fe, hl.fe]
    rfl

/-! ### A read of a memory that is not in canonical form -/

/-- A written granule whose cells do not stand in rising order: a byte at 0 between those at 0x1000 and at 0x1020. -/
def unsortedMemory : State :=
  { State.reset with mem := { memReset with cells := [(0x1000, 1), (0, 1), (0x1020, 0x5A)], written := [1] } }

/-- A read of the upper half of the 64 bytes at 0x1000, past the caches. -/
def upperHalfRead : HostReq := ⟨0, 0, 3, 0, 1, 0x1020, []⟩

/-- The responses after a command. -/
def answered : Host.Outcome State Fault Refusal → List HostOut
  | .next t => t.fe.hostOut
  | .fault _ => []
  | .refused _ => []

/-- The home reads the whole 64 bytes, and the walk along the cells stops at the one out of order. -/
theorem answered_upperHalfRead : answered (exec (.srd32 upperHalfRead) unsortedMemory) = [.rsp 0 0 1 0 (List.replicate 32 0)] := by
  decide +kernel

/-- Refutes O2: the statement does not ask that the memory be in canonical form (`Memory.wf`). On a list of cells out of order a read
of 32 bytes is cut from the 64 bytes of its granule, and these differ from the bytes that `dRead` finds from 0x1020 on. -/
theorem not_hostReadsMemory : ¬ Obligations.HostReadsMemory := by
  unfold Obligations.HostReadsMemory
  rintro ⟨-, hsector, -⟩
  obtain ⟨t, ht, -, hout⟩ := hsector unsortedMemory upperHalfRead (by decide +kernel) (by decide +kernel) (by decide +kernel)
    (by decide +kernel) (by decide +kernel) (by decide +kernel) (by decide +kernel) (by decide +kernel)
  have hzero : t.fe.hostOut = [.rsp 0 0 1 0 (List.replicate 32 0)] :=
    (congrArg answered ht).symm.trans answered_upperHalfRead
  rw [hzero] at hout
  exact absurd hout (by decide +kernel)

end Sys2Proof.Machine
end

section
/-! PROOFS. HUB_PACE_LIMITS, which takes only a value that obeys its rules (R191). -/

namespace Sys2Proof.Machine

/-- FLOOR, CEIL and CAP_W by their places in the word. -/
theorem paceGood_iff (v : Word) : paceGood v = true ↔
    v.toNat % 256 ≤ v.toNat / 256 % 256 ∧ 100 ≤ v.toNat / 65536 % 1024 ∧ v.toNat / 65536 % 1024 ≤ 560 := by
  simp only [paceGood, Bool.and_eq_true, decide_eq_true_eq, and_assoc]
  simp [fld]

theorem setPace_good (s : State) {v : Word} (h : paceGood v = true) : setPace s v = endEpisodes (regSet s 0x3000 (v &&& 0x03FFFFFF)) := if_pos h

theorem setPace_bad (s : State) {v : Word} (h : ¬ paceGood v = true) : setPace s v = { s with cfg := { s.cfg with pairBad := true } } := if_neg h

/-- Settles O18: the register takes the value whole, or its write leaves but PAIR_BAD behind. -/
theorem paceLimitsRule : Obligations.PaceLimitsRule := by
  unfold Obligations.PaceLimitsRule
  intro s req v hw
  have hgo : Goes (.paceLimitsWrite req v) s (answerWrite (setPace s v) req stOk) := congrArg Host.Outcome.next (writeReg_ok hw v _)
  rw [← paceGood_iff]
  refine ⟨fun hgood => ⟨setPace s v, hgo, ?_⟩, fun hbad => ⟨setPace s v, hgo, ?_⟩⟩
  · rw [setPace_good s hgood]
    exact ⟨nmGet_nmSet_self .., rfl, rfl⟩
  · rw [setPace_bad s hbad]
    exact ⟨rfl, rfl⟩

end Sys2Proof.Machine
end

section
/-! PROOFS. WRITE frames at their target: the checks of a frame, and what a payload that lands changes (SPEC.md, section 08). -/

namespace Sys2Proof.Machine

/-! ### Arrival -/

theorem portsOnly_creditReturn (s : State) (port vc n : Nat) : PortsOnly s (creditReturn s port vc n) := by
  unfold creditReturn
  split
  · exact .refl s
  · exact (portsOnly_updPort s port _).trans (portsOnly_drainGo port _ _)

/-- The arrival of a frame changes its port, and sends what its credits let go (R344, R347). -/
theorem portsOnly_arrive (s : State) (port : Nat) (f : Frame) : PortsOnly s (arrive s port f) :=
  (portsOnly_updPort s port _).trans (portsOnly_creditReturn _ port _ _)

section
variable {s t : State}

theorem PortsOnly.pullOf_eq (h : PortsOnly s t) (f : Frame) : pullOf t f = pullOf s f := by rw [h]; rfl
theorem PortsOnly.spidOk_eq (h : PortsOnly s t) (f : Frame) : spidOk t f = spidOk s f := by rw [h]; rfl
theorem PortsOnly.countsFull_eq (h : PortsOnly s t) (f : Frame) : countsFull t f = countsFull s f := by rw [h]; rfl
theorem PortsOnly.countOf_eq (h : PortsOnly s t) (f : Frame) : countOf t f = countOf s f := by rw [h]; rfl
theorem PortsOnly.dataRefusal_eq (h : PortsOnly s t) (f : Frame) : dataRefusal t f = dataRefusal s f := by rw [h]; rfl
theorem PortsOnly.writeHeld_eq (h : PortsOnly s t) (g : Option Nat) (a n : Nat) : writeHeld t g a n = writeHeld s g a n := by rw [h]; rfl
theorem PortsOnly.intact (h : PortsOnly s t) (hs : Intact s) : Intact t := by rw [h]; exact hs

end

/-! ### The checks of a WRITE frame -/

section
variable {s : State} {port : Fin 18} {f : Frame}

theorem execWrite_eq (hty : f.type = 0x01) : execWrite port f s = .next (routed s port f (takeWrite port f)) := by
  have hf : { f with type := 0x01 } = f := by rw [← hty]
  rw [execWrite, hf]

theorem goes_write_bad (hty : f.type = 0x01) (hgood : frameGood f = false) : Goes (.write port f) s (frameReplay port.val false s) := by
  refine (execWrite_eq hty).trans (congrArg Host.Outcome.next ?_)
  rw [routed, received, if_neg (ne_true_of_eq_false hgood)]

/-- A good frame for this package comes to its target as it has arrived. -/
theorem goes_write_here (hty : f.type = 0x01) (hgood : frameGood f = true) (hdst : f.dst = s.cfg.live.package) :
    Goes (.write port f) s (takeWrite port f (arrive s port f)) := by
  refine (execWrite_eq hty).trans (congrArg Host.Outcome.next ?_)
  have hpkg : (arrive s port f).cfg = s.cfg := by rw [portsOnly_arrive s port f]
  rw [routed, received, if_pos hgood, hpkg, if_neg (not_not_intro hdst)]

end

section
variable {s : State} {port : Nat} {f : Frame} (hpull : pullOf s f = none)
include hpull

theorem takeWrite_notLive (h : spidOk s f = false ∨ countsFull s f = true) : takeWrite port f s = holdFrame s port f := by
  have hwait : (!spidOk s f || countsFull s f) = true := by simpa using h
  simp [takeWrite, hpull, hwait]

variable (hspid : spidOk s f = true) (hfull : countsFull s f = false)
include hspid hfull

theorem takeWrite_refused {st : Status} (h : dataRefusal s f = some st) : takeWrite port f s = refuseFrame s port f st := by
  simp [takeWrite, hpull, hspid, hfull, h]

theorem takeWrite_held (h : dataRefusal s f = none) (hheld : writeHeld s none f.addr.toNat f.payload.length = true) :
    takeWrite port f s = holdFrame s port f := by
  simp [takeWrite, hpull, hspid, hfull, h, hheld]

theorem takeWrite_lands (h : dataRefusal s f = none) (hheld : writeHeld s none f.addr.toNat f.payload.length = false) :
    takeWrite port f s = settle (creditBack (landWrite s port f) port f) := by
  simp [takeWrite, hpull, hspid, hfull, h, hheld]

end

/-! ### What a payload that lands leaves -/

/-- Outside the bytes of D-space, the counts and the sync objects a landing frame leaves S-space, the P-space rows, the configuration,
the records of the integrity units and the directory's entries. -/
structure FrameKeeps (s t : State) : Prop where
  scells : t.mem.scells = s.mem.scells
  prows : t.mem.prows = s.mem.prows
  cfg : t.cfg = s.cfg
  integ : t.units.integ = s.units.integ
  shards : t.step.shards = s.step.shards

theorem FrameKeeps.trans {s t u : State} (h : FrameKeeps s t) (k : FrameKeeps t u) : FrameKeeps s u :=
  ⟨k.scells.trans h.scells, k.prows.trans h.prows, k.cfg.trans h.cfg, k.integ.trans h.integ, k.shards.trans h.shards⟩

theorem PortsOnly.frameKeeps {s t : State} (h : PortsOnly s t) : FrameKeeps s t := by
  rw [h]; exact ⟨rfl, rfl, rfl, rfl, rfl⟩

theorem frameKeeps_dWrite (s : State) (a : Nat) (bs : List Byte) : FrameKeeps s (dWrite s a bs) := by
  obtain ⟨-, -, -, -, -, hcfg, hstep, -, hscells, hprows⟩ := dWrite_rest s a bs
  exact ⟨hscells, hprows, hcfg, dWrite_integ s a bs, congrArg StepEngine.shards hstep⟩

theorem promoteOne_cfg (s : State) (o : Op) : (promoteOne s o).cfg = s.cfg := by
  unfold promoteOne enterRunning
  dsimp only
  repeat' split
  all_goals rfl

theorem promote_cfg (s : State) : (promote s).cfg = s.cfg :=
  List.foldlRecOn s.fe.ops promoteOne (motive := fun t => t.cfg = s.cfg) rfl fun t ht o _ => (promoteOne_cfg t o).trans ht

theorem frameKeeps_syncAdd (s : State) (id : Nat) (v : DWord) : FrameKeeps s (syncAdd s id v) := by
  have h := onlyOps_syncAdd s id v
  refine ⟨?_, ?_, promote_cfg _, ?_, ?_⟩
  · rw [h.mem]
  · rw [h.mem]
  · rw [h.units]
  · rw [h.step]

theorem frameKeeps_putCount (s : State) (f : Frame) (c : Option StreamCount) : FrameKeeps s (putCount s f c) := ⟨rfl, rfl, rfl, rfl, rfl⟩

theorem touchedTiles_of_shards {s t : State} (h : t.step.shards = s.step.shards) (n : Nat) (c : ShardCfg) (a len : Nat) :
    touchedTiles t n c a len = touchedTiles s n c a len := by
  unfold touchedTiles committedSlot shardDyn
  rw [h]

/-- Where a write touches no shard's tiles no digest is recomputed. -/
theorem recomputeTouched_none {s : State} {a len : Nat} (h : ∀ e ∈ s.cfg.live.shards, touchedTiles s e.1 e.2 a len = []) :
    recomputeTouched s a len = s := by
  refine List.foldlRecOn s.cfg.live.shards _ (motive := fun t => t = s) rfl fun t ht e he => ?_
  rw [ht, h e he]
  rfl

/-! ### The landing of a WRITE frame -/

/-- A WRITE frame's payload and group: the write, the count of its group, and the signal of a FINAL frame (R351). -/
def frameLanded (s : State) (port : Nat) (f : Frame) : State :=
  if noGroup f.stream then dWrite s f.addr.toNat f.payload
  else if fFinal f then finalArrives s port f
  else countLanded (dWrite s f.addr.toNat f.payload) port f

section
variable {s : State} {port : Nat} {f : Frame}

theorem frameLanded_plain (h : noGroup f.stream = true) : frameLanded s port f = dWrite s f.addr.toNat f.payload := if_pos h

theorem frameLanded_counted (h : noGroup f.stream = false) (hfin : fFinal f = false) :
    frameLanded s port f = countLanded (dWrite s f.addr.toNat f.payload) port f := by
  simp [frameLanded, h, hfin]

theorem frameLanded_final (h : noGroup f.stream = false) (hfin : fFinal f = true) : frameLanded s port f = finalArrives s port f := by
  simp [frameLanded, h, hfin]

/-- A FINAL frame with the frames before it landed. -/
theorem finalArrives_due (h : f.prior.toNat ≤ (countOf s f).elim 0 (·.landed)) : finalArrives s port f = landFinal s f := by
  unfold finalArrives
  cases hc : countOf s f <;> simp_all

/-- A FINAL frame before one of its group's has landed waits in the group's count. -/
theorem finalArrives_early (h : (countOf s f).elim 0 (·.landed) < f.prior.toNat) : ∃ c, finalArrives s port f = putCount s f c := by
  unfold finalArrives
  cases hc : countOf s f with
  | none => exact ⟨_, if_neg (Nat.not_le.2 (by rw [hc] at h; exact h))⟩
  | some c => exact ⟨_, if_neg (Nat.not_le.2 (by rw [hc] at h; exact h))⟩

/-- A frame of a group for which no FINAL frame waits is counted, and lets none land. -/
theorem countLanded_noFinal (hg : noGroup f.stream = false) (h : ∀ c, countOf s f = some c → c.final = none) :
    ∃ c, countLanded s port f = putCount s f c := by
  unfold countLanded
  cases hc : countOf s f with
  | none => simp [hg]
  | some c => simp [hg, h c hc]

theorem frameKeeps_landFinal (s : State) (f : Frame) : FrameKeeps s (landFinal s f) :=
  (frameKeeps_dWrite s _ _).trans ((frameKeeps_syncAdd _ _ _).trans (frameKeeps_putCount _ f none))

theorem landFinal_cells (s : State) (f : Frame) : (landFinal s f).mem.cells = (dWrite s f.addr.toNat f.payload).mem.cells :=
  (onlyOps_syncAdd (dWrite s f.addr.toNat f.payload) f.group.toNat (f.sigAdd.setWidth 64)).cells

/-- The signal of a FINAL frame that lands. -/
theorem syncGet_landFinal (s : State) (f : Frame) (k : Nat) :
    syncGet (landFinal s f) k = if k = f.group.toNat then syncGet s f.group.toNat + f.sigAdd.setWidth 64 else syncGet s k := by
  obtain ⟨-, -, -, -, hsyncs, -⟩ := dWrite_rest s f.addr.toNat f.payload
  have hget : ∀ k, syncGet (dWrite s f.addr.toNat f.payload) k = syncGet s k := fun k => congrArg (nmGet 0 · k) hsyncs
  refine (syncGet_syncSet (dWrite s f.addr.toNat f.payload) f.group.toNat _ k).trans ?_
  rw [hget, hget]

theorem frameKeeps_countLanded (s : State) (port : Nat) (f : Frame) : FrameKeeps s (countLanded s port f) := by
  unfold countLanded
  dsimp only
  split
  · exact ⟨rfl, rfl, rfl, rfl, rfl⟩
  · split
    · split
      · split
        · exact frameKeeps_putCount s f _
        · split
          · exact ⟨rfl, rfl, rfl, rfl, rfl⟩
          · exact frameKeeps_landFinal s _
      · exact frameKeeps_putCount s f _
    · exact frameKeeps_putCount s f _

theorem frameKeeps_finalArrives (s : State) (port : Nat) (f : Frame) : FrameKeeps s (finalArrives s port f) := by
  unfold finalArrives
  dsimp only
  split
  · exact frameKeeps_landFinal s f
  · exact frameKeeps_putCount s f _

theorem frameKeeps_frameLanded (s : State) (port : Nat) (f : Frame) : FrameKeeps s (frameLanded s port f) := by
  unfold frameLanded
  split
  · exact frameKeeps_dWrite s _ _
  · split
    · exact frameKeeps_finalArrives s port f
    · exact (frameKeeps_dWrite s _ _).trans (frameKeeps_countLanded _ port f)

/-- What a frame that signals nothing does to memory: its payload is laid, and the sync objects are as they were. -/
theorem frameLanded_lays (hs : Intact s) (h : noGroup f.stream = true ∨
      fFinal f = false ∧ ∀ c, countOf s f = some c → c.final = none) :
    Laid s.mem.cells (frameLanded s port f).mem.cells f.addr.toNat f.payload ∧ (frameLanded s port f).syncs = s.syncs := by
  obtain ⟨-, -, -, -, hsyncs, -, -, hhz, -⟩ := dWrite_rest s f.addr.toNat f.payload
  have hlaid := dWrite_laid s f.addr.toNat f.payload hs.1 (poisonCut_intact hs _ _)
  cases hg : noGroup f.stream with
  | true => rw [frameLanded_plain hg]; exact ⟨hlaid, hsyncs⟩
  | false =>
    obtain ⟨hfin, hnone⟩ := h.resolve_left (ne_true_of_eq_false hg)
    have hcount : countOf (dWrite s f.addr.toNat f.payload) f = countOf s f := by unfold countOf; rw [hhz]
    obtain ⟨c, hc⟩ := countLanded_noFinal (port := port) hg (hcount ▸ hnone)
    rw [frameLanded_counted hg hfin, hc]
    exact ⟨hlaid, hsyncs⟩

/-- A FINAL frame with the frames before it landed lands and signals its group's object. -/
theorem frameLanded_signals (hs : Intact s) (hg : noGroup f.stream = false) (hfin : fFinal f = true)
    (h : f.prior.toNat ≤ (countOf s f).elim 0 (·.landed)) :
    Laid s.mem.cells (frameLanded s port f).mem.cells f.addr.toNat f.payload ∧
    syncGet (frameLanded s port f) f.group.toNat = syncGet s f.group.toNat + f.sigAdd.setWidth 64 ∧
    ∀ k, k ≠ f.group.toNat → syncGet (frameLanded s port f) k = syncGet s k := by
  rw [frameLanded_final hg hfin, finalArrives_due h]
  refine ⟨?_, ?_, fun k hk => ?_⟩
  · rw [landFinal_cells]
    exact dWrite_laid s _ _ hs.1 (poisonCut_intact hs _ _)
  · rw [syncGet_landFinal, if_pos rfl]
  · rw [syncGet_landFinal, if_neg hk]

/-- One that came before them changes neither memory nor sync objects. -/
theorem frameLanded_waits (hg : noGroup f.stream = false) (hfin : fFinal f = true)
    (h : (countOf s f).elim 0 (·.landed) < f.prior.toNat) :
    (frameLanded s port f).mem.cells = s.mem.cells ∧ (frameLanded s port f).syncs = s.syncs := by
  obtain ⟨c, hc⟩ := finalArrives_early (port := port) h
  rw [frameLanded_final hg hfin, hc]
  exact ⟨rfl, rfl⟩

/-- Where nothing is fetched again and no shard's tiles lie under the payload, the landing is the frame's own. -/
theorem landWrite_eq (hrefetch : s.units.integ.refetch = [])
    (htiles : ∀ e ∈ s.cfg.live.shards, touchedTiles s e.1 e.2 f.addr.toNat f.payload.length = []) :
    landWrite s port f = frameLanded s port f := by
  have hk := frameKeeps_frameLanded s port f
  have htouch : recomputeTouched (frameLanded s port f) f.addr.toNat f.payload.length = frameLanded s port f := by
    refine recomputeTouched_none fun e he => ?_
    rw [touchedTiles_of_shards hk.shards]
    exact htiles e (hk.cfg ▸ he)
  show refetchLanded (recomputeTouched (frameLanded s port f) _ _) _ _ = _
  rw [htouch, refetchLanded_none]
  rw [hk.integ, hrefetch]

end

/-- Settles O45: the checks of a frame in their order, and what its landing leaves, by what the frame is to its group. -/
theorem writesLand : Obligations.WritesLand := by
  unfold Obligations.WritesLand
  intro s port f hty
  refine ⟨goes_write_bad hty, fun hgood hdst hpull => ?_⟩
  intro t
  have hp : PortsOnly s t := portsOnly_arrive s port f
  have hgo : Goes (.write port f) s (takeWrite port f t) := goes_write_here hty hgood hdst
  clear_value t
  rw [← hp.pullOf_eq] at hpull
  simp only [← hp.spidOk_eq, ← hp.countsFull_eq, ← hp.dataRefusal_eq, ← hp.writeHeld_eq]
  refine ⟨fun h => ?_, fun hspid hfull st h => ?_, fun hspid hfull h hheld => ?_,
    fun hspid hfull h hheld hserve hpoison hrefetch htiles => ?_⟩
  · rwa [takeWrite_notLive hpull h] at hgo
  · rwa [takeWrite_refused hpull hspid hfull h] at hgo
  · rwa [takeWrite_held hpull hspid hfull h hheld] at hgo
  · rw [takeWrite_lands hpull hspid hfull h hheld] at hgo
    have hi : Intact t := hp.intact ⟨hserve, hpoison, hrefetch⟩
    have hkt := hp.frameKeeps
    have htiles' : ∀ e ∈ t.cfg.live.shards, touchedTiles t e.1 e.2 f.addr.toNat f.payload.length = [] := fun e he => by
      rw [touchedTiles_of_shards hkt.shards]
      exact htiles e (hkt.cfg ▸ he)
    rw [landWrite_eq hi.2.2 htiles'] at hgo
    have hk := hkt.trans (frameKeeps_frameLanded t port f)
    refine ⟨frameLanded t port f, hgo, hk.scells, hk.prows, hk.cfg, ?_⟩
    have hcells : t.mem.cells = s.mem.cells := by rw [hp.mem]
    have hsyncs : t.syncs = s.syncs := by rw [hp]
    have hget : ∀ k, syncGet t k = syncGet s k := fun k => congrArg (nmGet 0 · k) hsyncs
    rw [← hp.countOf_eq, ← hcells, ← hsyncs]
    simp only [← hget]
    exact ⟨fun hg => frameLanded_lays hi (.inl hg), fun hg hfin hnone => frameLanded_lays hi (.inr ⟨hfin, hnone⟩),
      frameLanded_signals hi, frameLanded_waits⟩

end Sys2Proof.Machine
end

section
/-! PROOFS. A CTX_RESTORE whose context begins within a 64 B sector that a gather range cuts: why the statement on contexts and configuration
fails (SPEC.md, section 16). -/

namespace Sys2Proof.Machine

/-- A Running CTX_RESTORE of tenant 1, of the 8,192 bytes from 0x1020 on. -/
def restoreOp : Op :=
  { copyOp with tenant := 1, desc := BitVec.ofNat 512 (opCtxRestore + 2 ^ 16 + 0x1020 * 2 ^ 192 + 8192 * 2 ^ 320) }

/-- The first 32 bytes of the header of a context of tenant 1 that holds one step plan and nothing else (R602); the other bytes of such a
header are 0. -/
def headerStart : List Byte :=
  leBytes 4 0x54585443 ++ leBytes 2 1 ++ leBytes 2 1 ++ leBytes 8 0 ++ leBytes 8 8192 ++ leBytes 2 0 ++ leBytes 2 1 ++ leBytes 4 0

/-- The live plane has one step plan, of tenant 1, and one gather range, 0x1000 to 0x101F, whose copies lie at 0x500000 and 0x600000. From
0x1020 on lies a context of tenant 1 but for the first 32 bytes of its header, which lie from 0x500020 on; its step plan's record, at
0x2020, holds a count of 5. -/
def cutContext : State :=
  { State.reset with
    mem := { memReset with cells := (0x2024, 5) :: cellsOf 0x500020 headerStart, written := [1, 2, 3] }
    fe := { feReset with ops := [restoreOp] }
    cfg := { cfgReset with live := { bootPlane with
      stepplans := [(0, ⟨1, [], [], [], none, 0, 0, 0, 0, none, [], [], []⟩)]
      dmap := { bootPlane.dmap with gathers := [⟨0x1000, 32, 0x500000, some 0x600000, 0, 0, []⟩] } } } }

/-- The count of step plan 0 after a step. -/
def planCount : Host.Outcome State Fault Refusal → Nat
  | .next t => nmGet 0 t.step.noSkip 0
  | .fault _ => 0
  | .refused _ => 0

/-- The end of an operation leaves the counts of step plans. -/
theorem planCount_complete (u : State) (o : Op) (r : Res) : planCount (.next (complete u o r)) = nmGet 0 u.step.noSkip 0 := by
  rw [planCount, (onlyOps_complete u o r).step]

theorem restoreOp_fields : dSrc restoreOp.desc = 0x1020 ∧ dCount restoreOp.desc = 8192 := by decide +kernel

/-- The read of the sector at 0x1000 goes where the gather range maps 0x1000, and finds the start of the header there: the context is good,
and its step plan's record is restored. -/
theorem planCount_cutContext : planCount (exec (.ctxRestore 7) cutContext) = 5 := by decide +kernel

/-- The source meets every condition of the statement. -/
theorem cutContext_source :
    SourceIs cutContext 0 (dSrc restoreOp.desc) (dCount restoreOp.desc) (dRead cutContext 0x1020 8192) := by
  obtain ⟨hsrc, hcount⟩ := restoreOp_fields
  rw [hsrc, hcount]
  have hplain : PlainSrc cutContext 0x1020 8192 := by decide +kernel
  exact .inr ⟨rfl, 0x1020, by decide +kernel, hplain, rfl⟩

/-- The bytes from 0x1020 on begin with no context's header. -/
theorem cutContext_bad : ctxGood cutContext restoreOp.tenant (dCount restoreOp.desc) (dRead cutContext 0x1020 8192) = false := by
  decide +kernel

/-- Refutes O44: the source of a CTX_RESTORE need only lie outside every gather range, but the model reads whole 64 B sectors, each at the
place to which `gatherMap` takes its first byte. In `cutContext` the bytes of the source are no good context, so the statement has nothing
restored; the sector that holds their start is read from a gather copy, which completes the context, and the step plan's record is restored. -/
theorem not_contextsAndConfiguration : ¬ Obligations.ContextsAndConfiguration := by
  unfold Obligations.ContextsAndConfiguration
  rintro ⟨-, hrestore, -⟩
  obtain ⟨-, hbad⟩ := hrestore cutContext 7 restoreOp _ (by decide +kernel) (by decide +kernel) (by decide +kernel) (by decide +kernel)
    (by decide +kernel) cutContext_source
  obtain ⟨u, hu, -, -, -, hstep, -⟩ := hbad cutContext_bad
  have hcount : planCount (exec (.ctxRestore 7) cutContext) = nmGet 0 u.step.noSkip 0 :=
    (congrArg planCount hu).trans (planCount_complete _ _ _)
  rw [planCount_cutContext, hstep] at hcount
  exact absurd hcount (by decide)

end Sys2Proof.Machine
end

section
/-! PROOFS. A DRAW whose scores begin within a 64 B sector that a gather range cuts: why the statement on random commands fails
(SPEC.md, section 14). -/

namespace Sys2Proof.Machine

/-! ### How many operations a change leaves -/

theorem length_ops_updOp (s : State) (h : Word) (f : Op → Op) : (updOp s h f).fe.ops.length = s.fe.ops.length :=
  List.length_map _

theorem length_ops_promoteOne (s : State) (o : Op) : (promoteOne s o).fe.ops.length = s.fe.ops.length := by
  rcases promoteOne_ops s o with h | ⟨f, -, h⟩
  · rw [h]
  · rw [h, length_ops_updOp]

theorem length_ops_promote (s : State) : (promote s).fe.ops.length = s.fe.ops.length := by
  have hfold : ∀ (l : List Op) (t : State), (l.foldl promoteOne t).fe.ops.length = t.fe.ops.length := by
    intro l
    induction l with
    | nil => exact fun t => rfl
    | cons o l ih => exact fun t => (ih _).trans (length_ops_promoteOne t o)
  exact hfold s.fe.ops s

theorem length_ops_syncSet (s : State) (id : Nat) (v : DWord) : (syncSet s id v).fe.ops.length = s.fe.ops.length :=
  (length_ops_promote _).trans (List.length_map _)

theorem length_ops_endSignal (s : State) (o : Op) (r : Res) : (endSignal s o r).fe.ops.length = s.fe.ops.length := by
  have hnote : (noteCfg (addTotals (updOp s o.handle (endOp s o r)) o.tenant r.counts) o r.status).fe.ops.length = s.fe.ops.length := by
    rw [noteCfg_fe, addTotals_fe, length_ops_updOp]
  unfold endSignal
  dsimp only
  split
  · exact (length_ops_syncSet _ _ _).trans hnote
  · exact (length_ops_promote _).trans hnote

theorem length_ops_finishOp (s : State) (o : Op) (r : Res) : (finishOp s o r).fe.ops.length = s.fe.ops.length := by
  rw [finishOp_eq]
  split
  · exact length_ops_endSignal s o r
  · rw [stallCheck_ops, length_ops_endSignal]

theorem length_ops_endDue {s t : State} (h : endDue s = some t) : t.fe.ops.length = s.fe.ops.length := by
  unfold endDue at h
  split at h
  · cases h
  · split at h
    · cases h
    · split at h <;> obtain rfl := Option.some.inj h
      · exact length_ops_updOp _ _ _
      · rw [length_ops_finishOp]
        split <;> rfl

theorem length_ops_settleGo : ∀ (n : Nat) (s : State), (settleGo n s).fe.ops.length = s.fe.ops.length
  | 0, _ => rfl
  | n + 1, s => by
    simp only [settleGo]
    split
    · rfl
    · next h => exact (length_ops_settleGo n _).trans (length_ops_endDue h)

theorem length_ops_complete (s : State) (o : Op) (r : Res) : (complete s o r).fe.ops.length = s.fe.ops.length :=
  (length_ops_settleGo _ _).trans ((length_ops_promote _).trans (length_ops_finishOp s o r))

/-- Where the operation that a command completes is the only one of the package, it holds the first result of its end, whatever the state in
which it ends. -/
theorem res0_of_complete_alone {s : State} {o y : Op} {r : Res} (h : (complete s o r).fe.ops = [y]) (hh : y.handle = o.handle)
    (hp : y.phase ≠ .retired) : y.res0 = r.res0 := by
  obtain ⟨x, hx⟩ := List.length_eq_one_iff.1 ((length_ops_complete s o r).symm.trans (congrArg List.length h))
  have hs : NamesOne s := by simp [NamesOne, hx]
  have hu : NamesOne (updOp s o.handle (endOp s o r)) := namesOne_updOp hs _ fun _ => rfl
  have hfin := advances_finishOp r hu
  have hend : Advances (updOp s o.handle (endOp s o r)) (complete s o r) := hfin.trans (advances_settle (hfin.namesOne hu))
  obtain ⟨z, hz, hl⟩ := hend.mem (x := changeAt o.handle (endOp s o r) x) (by simp [updOp_ops, hx])
  obtain rfl : z = y := by simpa [h] using hz
  by_cases hret : x.phase = .retired
  · have hsame : changeAt o.handle (endOp s o r) x = x := by simp [changeAt, hret]
    rw [hsame] at hl
    exact absurd (hl.ended (by simp [opLive, hret]) ▸ hret) hp
  · have hhandle : x.handle = o.handle := by
      rw [← hh, hl.handle]
      unfold changeAt
      split <;> rfl
    have hchange : changeAt o.handle (endOp s o r) x = endOp s o r x := by simp [changeAt, hhandle, hret]
    rw [hchange] at hl
    rw [hl.ended (opLive_endOp s o r x)]
    rfl

/-! ### Scores beside a gather range -/

/-- A Running DRAW of tenant 0, of the two scores from 0x1020 on. -/
def drawOp : Op := { copyOp with desc := BitVec.ofNat 512 (opDraw + 2 ^ 16 + 0x1020 * 2 ^ 256 + 2 * 2 ^ 320) }

/-- The live plane has one gather range, 0x1000 to 0x101F, whose copies lie at 0x500000 and 0x600000. At 0x1020 lie the scores +0 and NaN, and
at 0x500020 the scores NaN and +0. -/
def cutScores : State :=
  { State.reset with
    mem := { memReset with cells := [(0x1026, 0xC0), (0x1027, 0x7F), (0x500022, 0xC0), (0x500023, 0x7F)], written := [1, 0x500] }
    fe := { feReset with ops := [drawOp] }
    cfg := { cfgReset with live := { bootPlane with dmap := { bootPlane.dmap with
      gathers := [⟨0x1000, 32, 0x500000, some 0x600000, 0, 0, []⟩] } } } }

/-- The operations after a step. -/
def opsAfter : Host.Outcome State Fault Refusal → List Op
  | .next t => t.fe.ops
  | .fault _ => []
  | .refused _ => []

theorem drawOp_fields : dSrcSpace drawOp.desc = 0 ∧ dSrc drawOp.desc = 0x1020 ∧ dCount drawOp.desc = 2 := by decide +kernel

/-- The two scores that lie at the source. -/
def plainScores : List Byte := [0, 0, 0, 0, 0, 0, 0xC0, 0x7F]

/-- The source meets every condition of the statement. -/
theorem cutScores_source : SourceIs cutScores (dSrcSpace drawOp.desc) (dSrc drawOp.desc) (4 * dCount drawOp.desc) plainScores := by
  obtain ⟨hspace, hsrc, hcount⟩ := drawOp_fields
  rw [hspace, hsrc, hcount]
  have hplain : PlainSrc cutScores 0x1020 8 := by decide +kernel
  have hbytes : plainScores = dRead cutScores 0x1020 8 := by decide +kernel
  exact .inr ⟨rfl, 0x1020, by decide +kernel, hplain, hbytes⟩

/-- Of the scores at the source the first has the best key: the key of a NaN is below every other (R543). -/
theorem bestKey_plainScores :
    bestKey ((List.zipIdx (drawKeys cutScores drawOp (drawScores drawOp ⟨cutScores, plainScores, [], 0⟩))).map fun k => (k.2, k.1.w)) none = 0 := by
  decide +kernel

/-- The read of the sector at 0x1000 goes where the gather range maps 0x1000, and takes the scores from there: the second has the best key. -/
theorem opsAfter_cutScores :
    (opsAfter (exec (.draw 7) cutScores)).map (fun y => (y.handle, y.phase, y.res0)) = [(drawOp.handle, .done, 1)] := by
  decide +kernel

/-- Refutes O27: the source of a DRAW need only lie outside every gather range, but the model reads whole 64 B sectors, each at the place to
which `gatherMap` takes its first byte. In `cutScores` the first of the scores at the source has the best key; the sector that holds them is read
from a gather copy, of whose scores the second has it, and DRAW answers 1. -/
theorem not_randomCommands : ¬ Obligations.RandomCommands := by
  unfold Obligations.RandomCommands
  rintro ⟨-, hdraw, -⟩
  obtain ⟨u, hu, -⟩ := hdraw cutScores 7 drawOp plainScores (by decide +kernel) (by decide +kernel) (by decide +kernel) (by decide +kernel)
    cutScores_source
  rw [bestKey_plainScores] at hu
  have hops := congrArg opsAfter hu
  obtain ⟨y, hy, hfields⟩ := List.map_eq_singleton_iff.1 opsAfter_cutScores
  simp only [Prod.mk.injEq] at hfields
  obtain ⟨hhandle, hphase, hres⟩ := hfields
  have hzero : y.res0 = 0 := res0_of_complete_alone (hops.symm.trans hy) hhandle (by simp [hphase])
  rw [hzero] at hres
  exact absurd hres (by decide)

end Sys2Proof.Machine
end

section
/-! PROOFS. Sweeps, commits and aborts by command, and the life of a PLAN_RUN (SPEC.md, section 06). -/

namespace Sys2Proof.Machine

/-! ### Commands whose destination lies here, or that have none -/

/-- A command of an opcode that has no destination on another package ends as it begins to act (R776). -/
theorem runCommand_doneHere {s t : State} {h : Word} {o : Op} {c : Nat} {f : State → Op → Outcome} {r : Res} (ho : Ready s h c o)
    (hf : f (begun s h) (begunOp o) = .done t r)
    (hhere : [opCopy, opConvert, opTransposeOut, opZero, opRngFill, opActStore, opActLoad, opSnapshot].contains c = false) :
    runCommand c f h s = complete t o r := by
  refine runCommand_done ho hf (finalOwed_false _ _ _ (.inl ?_))
  obtain ⟨-, hop, -, -⟩ := ho
  rw [farDst, hop, hhere]
  rfl

/-! ### The shards that a command names -/

theorem drivenByRun_begun (s : State) (h : Word) (n : Nat) : drivenByRun (begun s h) n = drivenByRun s n := by
  refine congrArg₂ (· || ·) rfl ?_
  rw [begun, updOp_ops, List.any_map]
  refine congrArg s.fe.ops.any (funext fun x => ?_)
  simp only [Function.comp, changeAt]
  split <;> rfl

section
variable {s : State} {o : Op} {n : Nat} {c : ShardCfg} {l : List ShardState} (hl : commandShards s o = [(n, c)])
include hl

/-- A command of one shard acts on it where no run drives it, no sweep of it runs and its state is one that the command takes. -/
theorem inStates_taken (hrun : drivenByRun s n = false) (hsw : sweepOf s n = none) (hst : (shardDyn s n).st ∈ l) :
    inStates s o l = [(n, c)] := by
  simp [inStates, hl, hrun, hsw, hst]

theorem inStates_refused (hst : (shardDyn s n).st ∉ l) : inStates s o l = [] := by
  simp [inStates, hl, hst]

end

/-! ### SWEEP_SPEC and SWEEP_REDO (R272) -/

/-- A sweep command of one shard in a state that it does not take ends with ST_BUSY. -/
theorem sweepCommand_busy {s : State} {o : Op} {redo : Bool} {n : Nat} {c : ShardCfg} (hl : commandShards s o = [(n, c)])
    (hone : dShard o.desc ≠ allShards) (hst : (shardDyn s n).st ∉ (if redo then [.clean, .written] else [.clean] : List ShardState)) :
    sweepCommand redo s o = .done s (resSt stBusy) := by
  simp [sweepCommand, inStates_refused hl hst, namesAll, hone]

/-- The sweep that a command starts of a shard with two slots: S0 is 1.0, or the c of a SWEEP_REDO. -/
def commandRec (o : Op) (redo : Bool) (n : Nat) : SweepRec :=
  ⟨n, redo, if redo then BitVec.ofNat 32 (dField o.desc 40 4) else fpOne, none, BitVec.ofNat 64 (dStepNo o.desc), .command o.handle,
    false, false, false, [], none, false, false⟩

theorem commandSweep_dual {s : State} {o : Op} {redo : Bool} {n : Nat} {c : ShardCfg} (hfresh : masterFresh s n c = false)
    (hcap : capMode c = false) :
    commandSweep o redo s (n, c) = startSweep s (commandRec o redo n) (if redo then .redoing else .sweeping) := by
  simp [commandSweep, hfresh, hcap, commandRec]

/-- A sweep that has started is among those at work. -/
theorem mem_sweeps_startSweep (s : State) (w : SweepRec) (st : ShardState) : w ∈ (startSweep s w st).step.sweeps := by
  simp [startSweep]

/-- A sweep command of one CLEAN shard with two slots starts its sweep, and waits for it. -/
theorem sweepCommand_starts {s : State} {o : Op} {redo : Bool} {n : Nat} {c : ShardCfg} (hl : commandShards s o = [(n, c)])
    (hrun : drivenByRun s n = false) (hst : (shardDyn s n).st = .clean) (hsw : sweepOf s n = none) (hfresh : masterFresh s n c = false)
    (hcap : capMode c = false) :
    sweepCommand redo s o = .go (startSweep s (commandRec o redo n) (if redo then .redoing else .sweeping)) := by
  have htaken : inStates s o (if redo then [.clean, .written] else [.clean]) = [(n, c)] :=
    inStates_taken hl hrun hsw (by cases redo <;> simp [hst])
  have hwaits : ((startSweep s (commandRec o redo n) (if redo then .redoing else .sweeping)).step.sweeps.any fun w =>
      w.by_ = .command o.handle) = true :=
    List.any_eq_true.2 ⟨_, mem_sweeps_startSweep .., decide_eq_true rfl⟩
  simp [sweepCommand, htaken, commandSweep_dual hfresh hcap, hwaits]

/-- Settles O32: each command by what its try comes to on the one shard that it names. -/
theorem sweepCommandsStart : Obligations.SweepCommandsStart := by
  unfold Obligations.SweepCommandsStart
  intro s h o n c hl hone hrun
  have hrun' := (drivenByRun_begun s h n).trans hrun
  have hstarts (redo : Bool) (hst : (shardDyn s n).st = .clean) (hsw : sweepOf s n = none) (hfresh : masterFresh (begun s h) n c = false)
      (hcap : capMode c = false) : sweepCommand redo (begun s h) (begunOp o) =
        .go (startSweep (begun s h) (commandRec o redo n) (if redo then .redoing else .sweeping)) :=
    sweepCommand_starts hl hrun' hst hsw hfresh hcap
  have hbusy (redo : Bool) (hst : (shardDyn s n).st ∉ (if redo then [.clean, .written] else [.clean] : List ShardState)) :
      sweepCommand redo (begun s h) (begunOp o) = .done (begun s h) (resSt stBusy) :=
    sweepCommand_busy (s := begun s h) (o := begunOp o) hl hone hst
  refine ⟨fun ho hst hsw hfresh hcap => ?_, fun ho hst hsw hfresh hcap => ?_, fun ho hst => ?_, fun ho hst hwr => ?_⟩
  · exact congrArg Host.Outcome.next (runCommand_go ho (hstarts false hst hsw hfresh hcap))
  · exact congrArg Host.Outcome.next (runCommand_go ho (hstarts true hst hsw hfresh hcap))
  · exact congrArg Host.Outcome.next (runCommand_doneHere ho (hbusy false (mt List.mem_singleton.1 hst)) rfl)
  · exact congrArg Host.Outcome.next (runCommand_doneHere ho (hbusy true (mt List.mem_pair.1 (not_or.2 ⟨hst, hwr⟩))) rfl)

/-! ### COMMIT and ABORT (R252, R272, R273) -/

theorem shardDyn_updShard_self (s : State) (n : Nat) (f : ShardDyn → ShardDyn) : shardDyn (updShard s n f) n = f (shardDyn s n) :=
  nmGet_nmSet_self _ _ _ _

theorem shardDyn_updShard_ne (s : State) (f : ShardDyn → ShardDyn) {n k : Nat} (h : k ≠ n) : shardDyn (updShard s n f) k = shardDyn s k :=
  nmGet_nmSet_ne _ _ _ h

section
variable {s : State} {o : Op} {n : Nat} {c : ShardCfg}

/-- The commit of a shard with two slots flips its epoch bit and does nothing else. -/
theorem flipShard_dual (hc : nmGet? s.cfg.live.shards n = some c) (hcap : capMode c = false) :
    flipShard s n = updShard s n fun d => { d with epoch := !d.epoch, st := .clean } := by
  simp [flipShard, hc, hcap]

theorem shardClean_dual (hc : nmGet? s.cfg.live.shards n = some c) (hcap : capMode c = false) : shardClean s n = setShardState s n .clean := by
  simp [shardClean, hc, hcap]

theorem tryCommit_flips (htaken : inStates s o [.written, .ready] = [(n, c)]) (hstep : inactiveStep s (n, c) = dStepNo o.desc)
    (hgo : commitsStopped s = false) : tryCommit s o = .done (serveHeld (flipShard s n)) resOk := by
  simp [tryCommit, htaken, hstep, hgo]

theorem tryCommit_otherStep (htaken : inStates s o [.written, .ready] = [(n, c)]) (hstep : inactiveStep s (n, c) ≠ dStepNo o.desc) :
    tryCommit s o = .done s (resSt stBadField) := by
  simp [tryCommit, htaken, hstep]

theorem inactiveStep_dual (hcap : capMode c = false) : inactiveStep s (n, c) = headerStep s c (inactiveSlot s n c) := by
  simp [inactiveStep, hcap]

/-- An ABORT of a shard that no sweep runs on is Done at once. -/
theorem tryAbort_clean (hl : commandShards s o = [(n, c)]) (hrun : drivenByRun s n = false) (hsw : sweepOf s n = none)
    (hc : nmGet? s.cfg.live.shards n = some c) (hcap : capMode c = false) : tryAbort s o = .done (setShardState s n .clean) resOk := by
  have hsw' : sweepOf (setShardState s n .clean) n = none := hsw
  simp [tryAbort, hl, hrun, abortShard, hsw, shardClean_dual hc hcap, hsw']

end

/-- Settles O33: a COMMIT by the step that the inactive header holds, an ABORT by the shard's own state. -/
theorem commitAndAbort : Obligations.CommitAndAbort := by
  unfold Obligations.CommitAndAbort
  intro s h o n c hl hc hrun hsw hcap
  have hrun' := (drivenByRun_begun s h n).trans hrun
  refine ⟨fun ho hgo hst => ?_, fun ho => ?_⟩
  · have htaken : inStates (begun s h) (begunOp o) [.written, .ready] = [(n, c)] :=
      inStates_taken hl hrun' hsw (List.mem_pair.2 hst)
    have hinactive : inactiveStep (begun s h) (n, c) = headerStep s c (inactiveSlot s n c) := inactiveStep_dual hcap
    refine ⟨fun hstep => ?_, fun hstep => ?_⟩
    · refine ⟨flipShard (begun s h) n, ?_, ?_⟩
      · exact congrArg Host.Outcome.next (runCommand_ok ho (tryCommit_flips htaken (hinactive.trans hstep) hgo))
      · rw [flipShard_dual (s := begun s h) hc hcap, shardDyn_updShard_self]
        exact ⟨rfl, rfl, fun k hk => shardDyn_updShard_ne _ _ hk, rfl⟩
    · have hbad := tryCommit_otherStep htaken (hinactive.trans_ne hstep)
      exact congrArg Host.Outcome.next (runCommand_doneHere ho hbad rfl)
  · refine ⟨setShardState (begun s h) n .clean, ?_, ?_⟩
    · exact congrArg Host.Outcome.next (runCommand_ok ho (tryAbort_clean hl hrun' hsw hc hcap))
    · rw [setShardState, shardDyn_updShard_self]
      exact ⟨rfl, rfl⟩

/-! ### PLAN_RUN (R196, R271, R775) -/

/-- The run that a PLAN_RUN adds to those of the package. -/
def joinedRun (o : Op) : StepRun :=
  { handle := o.handle, tenant := o.tenant, plan := dField o.desc 24 4, stepNo := BitVec.ofNat 64 (dStepNo o.desc)
    arg0 := BitVec.ofNat 64 (dField o.desc 40 8), started := false, replays := 0, entered := false, verdict := none, flipped := false
    redos := [], held := [], narrow := [], gathered := [], dropped := false, zeroed := false, signalled := false
    slots := 0, slotGot := [], closed := [] }

theorem tryPlanRun_joins {s : State} {o : Op} (h : s.hz.drop.dropped = false) :
    tryPlanRun s o = .go { s with step := { s.step with runs := s.step.runs ++ [joinedRun o] } } := by
  simp [tryPlanRun, h, joinedRun]

section
variable {s : State} {h : Word} {r : StepRun} {g : StepPlan}

theorem planRunStart_begins (hr : runBy s h = some r) (hg : runPlan s r = some g) (hnew : r.started = false) (hearlier : earlierRuns s r = false)
    (houtlived : outlivedBy s r = false) (hfatal : s.units.acorns.fatal = false) (hhalt : haltedPackage s = false)
    (hfree : ∀ n ∈ g.shards, (shardDyn s n).st = .clean ∨ (shardDyn s n).st = .held) : planRunStart h s = settle (beginStep s r g) := by
  have hbusy : (g.shards.any fun n => [ShardState.sweeping, .written, .redoing, .ready].contains (shardDyn s n).st) = false := by
    refine List.any_eq_false.2 fun n hn => ?_
    rcases hfree n hn with hst | hst <;> rw [hst] <;> decide
  simp only [planRunStart, hr, hg, hnew, hearlier, houtlived, hfatal, hhalt, hbusy, Bool.or_self, Bool.false_eq_true, if_false]

theorem planRunDone_ends (hr : runBy s h = some r) (hzeroed : r.zeroed = true) (hsignalled : r.signalled = true) :
    planRunDone h s = settle (endRun s r stOk (runOutcome r)) := by
  simp [planRunDone, hr, hzeroed, hsignalled]

end

/-- Settles O35: the record that a PLAN_RUN leaves among the runs, and the guards of its start and its end. -/
theorem planRunLife : Obligations.PlanRunLife := by
  unfold Obligations.PlanRunLife
  refine ⟨fun s h o ho hdrop => ?_, fun s h r g hr hg hnew hearlier houtlived hfatal hhalt hfree => ?_, fun s h r hr hz hs => ?_⟩
  · have hjoins : tryPlanRun (begun s h) (begunOp o) = _ := tryPlanRun_joins hdrop
    exact ⟨joinedRun o, _, congrArg Host.Outcome.next (runCommand_go ho hjoins), rfl, rfl, rfl, rfl, rfl, rfl, rfl, rfl, rfl⟩
  · exact congrArg Host.Outcome.next (planRunStart_begins hr hg hnew hearlier houtlived hfatal hhalt hfree)
  · exact congrArg Host.Outcome.next (planRunDone_ends hr hz hs)

end Sys2Proof.Machine
end

section
/-! PROOFS. ACCUM, and the tickets of accumulator tiles (SPEC.md, section 06). -/

namespace Sys2Proof.Machine

/-! ### ACCUM -/

/-- A data command in turn that is complete as it begins to act. -/
theorem runData_doneHere {s t : State} {h : Word} {o : Op} {c : Nat} {f : State → Op → Outcome} {r : Res} (ho : Ready s h c o)
    (ht : InTurn s h o) (hf : f (begun s h) (begunOp o) = .done t r)
    (hhere : [opCopy, opConvert, opTransposeOut, opZero, opRngFill, opActStore, opActLoad, opSnapshot].contains c = false) :
    runData c f h s = complete t o r := by
  rw [runData_inTurn ho ht]
  exact runCommand_doneHere ho (sensing_done _ _ _ _ _ _ hf) hhere

section
variable (s : State) (o : Op)

/-- The run of accumulator tiles in which the destination of an ACCUM lies, with its first element there. -/
def accumPlace : Option (TileRun × Nat) :=
  (localAddr s.cfg.live (dDst o.desc)).bind fun a => (tileRunAt s.cfg.live a).bind fun r => (accumFirst r a).map fun e => (r, e)

/-- What the tiles of an ACCUM that begins at element `e` of a run answer to its ticket. -/
def accumAnswer (r : TileRun) (e : Nat) : TicketCheck :=
  ticketChecks s ((tileSplit r e (List.replicate (dCount o.desc) 0)).map (·.1)) (dTicket o.desc) (dBits o.desc 38 0 1 = 1)

/-- The source of an ACCUM in S-space, as it is read. -/
def scratchSource : Operand := ⟨s, sRead s (dSrc o.desc) (operandBytes (dSfmt o.desc) (dCount o.desc)), [], 0⟩

end

section
variable {s : State} {o : Op} {r : TileRun} {e : Nat} (hg : Groupless s) (hr : accumPlace s o = some (r, e))
include hg hr

/-- An ACCUM that a tile refuses ends with that tile's status. -/
theorem tryAccum_refused {st : Status} (hanswer : accumAnswer s o r e = .bad st) : tryAccum s o = .done s (resSt st) := by
  rw [accumPlace] at hr
  rw [accumAnswer] at hanswer
  rw [tryAccum, withGroup_groupless hg, hr]
  simp only [hanswer]

/-- An ACCUM from S-space that every tile takes, and that the reorder stores have room for, enters the adders. -/
theorem tryAccum_taken {els : List Nat × Nat} (hanswer : accumAnswer s o r e = .fine) (hfull : dEmpty o.desc = false)
    (hspace : dSrcSpace o.desc = 1) (hels : accumElems r.fmt o (r.elems - e) (scratchSource s o) = els)
    (hroom : accumRoom s (dTicket o.desc) (tileSplit r e els.1) = true) :
    tryAccum s o = .go (acceptAccum o (dBits o.desc 38 0 1 = 1) (dBits o.desc 38 1 1 = 1) (tileSplit r e els.1)
      (updOp s o.handle fun y => { y with status := stOk, counts := countsAdd y.counts ⟨0, els.2, 0, 0⟩ })) := by
  have hread : accumOperand s o = some (scratchSource s o) := by simp [accumOperand, readOperand, hspace, scratchSource]
  subst hels
  rw [accumPlace] at hr
  rw [accumAnswer] at hanswer
  rw [tryAccum, withGroup_groupless hg, hr]
  simp only [hanswer, hfull, hread]
  exact if_pos hroom

end

/-! ### The elements of a sum (R331, R332) -/

theorem toSigned_emod {v w : Nat} (h : w ≤ v) (n : Nat) : toSigned v n % ((2 ^ w : Nat) : Int) = ((n % 2 ^ w : Nat) : Int) := by
  rw [Int.natCast_emod]
  unfold toSigned
  split
  · rfl
  · have hdvd : ((2 ^ w : Nat) : Int) ∣ ((2 ^ v : Nat) : Int) := Int.natCast_dvd_natCast.2 (pow_dvd_pow 2 h)
    rw [Int.sub_emod, Int.emod_eq_zero_of_dvd hdvd, sub_zero, Int.emod_emod_of_dvd _ dvd_rfl]

/-- An integer sum that does not saturate wraps. -/
theorem addElem_wraps {fmt : Nat} (hfmt : fmt ≠ 0) (a x : Nat) (hw : 8 * accElemBytes fmt ≤ 64) :
    (addElem fmt false false a x).1 = (a + x) % 2 ^ (8 * accElemBytes fmt) := by
  simp only [addElem, hfmt, if_false, intAccum, Bool.false_eq_true]
  generalize 8 * accElemBytes fmt = w at hw
  rw [toSigned_emod le_rfl, Int.add_emod, toSigned_emod le_rfl, toSigned_emod hw, ← Int.natCast_add, ← Int.natCast_emod]
  simp only [Int.toNat_natCast, Nat.mod_mod, Nat.add_mod]

theorem toSigned_small {w n : Nat} (h : n < 2 ^ (w - 1)) : toSigned w n = n := if_pos h

/-- An INT32 sum of two nonnegative terms above the largest value saturates there. -/
theorem addElem_saturates {a x : Nat} (ha : a < 2 ^ 31) (hx : x < 2 ^ 31) (hover : 2 ^ 31 ≤ a + x) :
    (addElem 0x20 false true a x).1 = 2 ^ 31 - 1 := by
  have hterms : toSigned (8 * accElemBytes 0x20) a = a ∧ toSigned 64 x = x :=
    ⟨toSigned_small ha, toSigned_small (hx.trans (by decide))⟩
  have habove : ((2 ^ (8 * accElemBytes 0x20 - 1) : Nat) : Int) - 1 < a + x := by
    have he : 2 ^ (8 * accElemBytes 0x20 - 1) = 2 ^ 31 := rfl
    rw [he]
    omega
  simp only [addElem, intAccum, hterms, if_pos habove, if_true]
  rfl

/-! ### TICKET_APPLY (R241, R284, R548) -/

/-- The adders' reads of one contribution that no group's write set holds. -/
theorem readParts_single {s : State} {tile fmt : Nat} {c : Contribution} (hg : contribGroup s tile c = none) :
    readParts s tile fmt [c] = readChunks s (contribRange tile fmt c).1 (contribRange tile fmt c).2 := by
  simp [readParts, hg]

/-- A tile's sequence once its next ticket has been taken from it. -/
def ticketTaken (c : Contribution) (d : TileDyn) : TileDyn :=
  { d with next := d.next + 1, held := d.held.filter fun x => !([c].contains x), plan := d.plan.filter fun x => !([c].contains x) }

/-- The state in which a tile's next ticket has been applied and the tile has moved on. -/
def ticketApplied (s : State) (tile fmt : Nat) (c : Contribution) : State :=
  advanceTile (applyOne tile fmt (updTile (readParts s tile fmt [c]) tile (ticketTaken c)) c) tile

/-- The contribution with the lowest unapplied ticket of a tile, held by nothing, is applied once its chunks have been read. -/
theorem applyTicket_lowest {s : State} {tile : Nat} {r : TileRun} {c : Contribution} (hr : tileRunAt s.cfg.live tile = some r)
    (hstart : (tile - r.base) % accTileBytes r.fmt = 0) (hg : contribGroup s tile c = none)
    (hheld : writeHeld s none (contribRange tile r.fmt c).1 (contribRange tile r.fmt c).2 = false)
    (hdone : hostDone (tileDyn s tile) = false) (hc : (tileDyn s tile).held.find? (fun c => c.ticket = (tileDyn s tile).next) = some c) :
    applyTicket tile s = settle (if tileReduced (ticketApplied s tile r.fmt c) tile then
      freeAdder (ticketApplied s tile r.fmt c) tile (accTileBytes r.fmt) else ticketApplied s tile r.fmt c) := by
  have hnext (cmd : Bool) : nextContribution cmd (tileDyn s tile) = some [c] := by simp [nextContribution, hdone, hc]
  have hgates : ticketGates s tile r.fmt [c] = .open_ := by simp [ticketGates, ticketGate, hg, hheld]
  simp only [applyTicket, hr, hstart, hdone, hnext, hgates]
  rfl

theorem countTicket_mem (s : State) (tile : Nat) (c : Contribution) (k : Counts) : (countTicket s tile c k).mem = s.mem := by
  unfold countTicket addOpCounts
  repeat' split
  all_goals rfl

theorem planAccepted_mem (s : State) (c : Contribution) : (planAccepted s c).mem = s.mem := by
  unfold planAccepted creditBack
  split
  · split
    · rfl
    · exact (portsOnly_sendOn _ _ _).mem
  · rfl

theorem accumApplied_cells (s : State) (c : Contribution) : (accumApplied s c).mem.cells = s.mem.cells := by
  unfold accumApplied
  split
  · rfl
  · split
    · rfl
    · split
      · split
        · exact (onlyOps_finishOp _ _ _).cells
        · rfl
      · rfl

/-- A contribution that no group's write set takes lays the bytes of its sums over its chunks. -/
theorem applyOne_laid {s : State} {tile fmt : Nat} {c : Contribution} (hg : contribGroup s tile c = none) (hn : NoFailed s)
    (hp : s.mem.poison = []) :
    Laid s.mem.cells (applyOne tile fmt s c).mem.cells (contribRange tile fmt c).1 (contribBytes s none tile fmt c).1 := by
  have hcells : (applyOne tile fmt s c).mem.cells =
      (dWrite s (contribRange tile fmt c).1 (contribBytes s none tile fmt c).1).mem.cells := by
    rw [applyOne, accumApplied_cells, planAccepted_mem, countTicket_mem, hg]
    rfl
  rw [hcells]
  exact dWrite_laid s _ _ hn (by simp [poisonCut, poisonPart, hp])

/-- The group of a contribution depends neither on the units nor on the tiles' sequences. -/
theorem contribGroup_units_tiles (s : State) (u : Units) (l : NMap TileDyn) (tile : Nat) (c : Contribution) :
    contribGroup { s with units := u, step := { s.step with tiles := l } } tile c = contribGroup s tile c := rfl

/-- What the adders' reads find in clean memory, and the tile's sequence, change nothing of what a contribution lays. -/
theorem applyOne_laid_afterReads {s : State} {tile fmt : Nat} {c : Contribution} (f : TileDyn → TileDyn) (hg : contribGroup s tile c = none)
    (hn : NoFailed s) (hp : s.mem.poison = []) :
    Laid s.mem.cells (applyOne tile fmt (updTile (readParts s tile fmt [c]) tile f) c).mem.cells (contribRange tile fmt c).1
      (contribBytes s none tile fmt c).1 := by
  obtain ⟨hreads, hn'⟩ : readParts s tile fmt [c] = { s with units := (readParts s tile fmt [c]).units } ∧
      NoFailed (readParts s tile fmt [c]) := by
    rw [readParts_single hg]
    exact reach_noFailed _ s hn
  generalize readParts s tile fmt [c] = t at hreads hn' ⊢
  have hgroup : contribGroup (updTile t tile f) tile c = none := by
    rw [hreads]
    exact (contribGroup_units_tiles s _ _ tile c).trans hg
  have hmem : (updTile t tile f).mem = s.mem := by rw [updTile_mem, hreads]
  have hsum : contribBytes (updTile t tile f) none tile fmt c = contribBytes s none tile fmt c := by rw [hreads]; rfl
  have hlaid := applyOne_laid (s := updTile t tile f) (fmt := fmt) hgroup hn' (by rw [hmem, hp])
  rwa [hmem, hsum] at hlaid

/-- Settles O29: an ACCUM by what its tiles answer, a ticket by the write of its sums, and the sums by their formats. -/
theorem accumAndApply : Obligations.AccumAndApply := by
  unfold Obligations.AccumAndApply
  refine ⟨fun s h o r e ho hg ht hr => ?_, fun s tile r c hr hstart hg hheld hdone hc => ?_, fun a x => rfl, fun a x _ _ => ?_,
    fun a x _ _ => ?_, fun a x ha hx hover => addElem_saturates ha hx hover⟩
  · have hg' := groupless_begun hg h
    refine ⟨fun st hcheck => ?_, fun hcheck hfull hspace => ?_⟩
    · have hf : tryAccum (begun s h) (begunOp o) = .done (begun s h) (resSt st) :=
        tryAccum_refused (s := begun s h) (o := begunOp o) hg' hr hcheck
      exact congrArg Host.Outcome.next (runData_doneHere ho ht hf rfl)
    · intro bs els parts hroom
      have hf := tryAccum_taken (s := begun s h) (o := begunOp o) (els := els) hg' hr hcheck hfull hspace rfl hroom
      exact congrArg Host.Outcome.next (runData_go ho ht hf)
  · intro u v
    exact ⟨congrArg Host.Outcome.next (applyTicket_lowest hr hstart hg hheld hdone hc), applyOne_laid_afterReads _ hg⟩
  · exact addElem_wraps (by decide) a x (by decide)
  · exact addElem_wraps (by decide) a x (by decide)

end Sys2Proof.Machine
end

section
/-! PROOFS. A NORM whose source begins within a 64 B sector that a gather range cuts: why the statement on local NORMs fails (SPEC.md,
section 06). -/

namespace Sys2Proof.Machine

/-- A Running NORM of tenant 0 without a plan, of the two FP32 elements from 0x1020 on. -/
def normOp : Op :=
  { copyOp with desc := BitVec.ofNat 512 (opNorm + 2 ^ 16 + 0x1020 * 2 ^ 192 + 2 * 2 ^ 320 + allShards * 2 ^ 416) }

/-- The live plane has one gather range, 0x1000 to 0x101F, whose copies lie at 0x500000 and 0x600000. At 0x1020 lie two elements +0, and at
0x500020 an element NaN. -/
def cutElements : State :=
  { State.reset with
    mem := { memReset with cells := [(0x500022, 0xC0), (0x500023, 0x7F)], written := [1, 0x500] }
    fe := { feReset with ops := [normOp] }
    cfg := { cfgReset with live := { bootPlane with dmap := { bootPlane.dmap with
      gathers := [⟨0x1000, 32, 0x500000, some 0x600000, 0, 0, []⟩] } } } }

theorem normOp_fields : dSrcSpace normOp.desc = 0 ∧ dSrc normOp.desc = 0x1020 ∧ operandBytes (dSfmt normOp.desc) (dCount normOp.desc) = 8 := by
  decide +kernel

/-- The source meets every condition of the statement. -/
theorem cutElements_source : SourceIs cutElements (dSrcSpace normOp.desc) (dSrc normOp.desc)
    (operandBytes (dSfmt normOp.desc) (dCount normOp.desc)) (List.replicate 8 0) := by
  obtain ⟨hspace, hsrc, hbytes⟩ := normOp_fields
  rw [hspace, hsrc, hbytes]
  have hplain : PlainSrc cutElements 0x1020 8 := by decide +kernel
  have hzeros : List.replicate 8 0 = dRead cutElements 0x1020 8 := by decide +kernel
  exact .inr ⟨rfl, 0x1020, by decide +kernel, hplain, hzeros⟩

/-- No element of the source is an infinity or a NaN. -/
theorem normTriple_zeros : (normTriple normOp ⟨cutElements, List.replicate 8 0, [], 0⟩).1.nf = false := by decide +kernel

/-- The read of the sector at 0x1000 goes where the gather range maps 0x1000, and takes the elements from there: one of them is a NaN, and the
first result tells so. -/
theorem opsAfter_cutElements :
    (opsAfter (exec (.norm 7) cutElements)).map (fun y => (y.handle, y.phase, y.res0)) = [(normOp.handle, .done, 1)] := by
  decide +kernel

/-- Refutes O31: the source of a NORM need only lie outside every gather range, but the model reads whole 64 B sectors, each at the place to
which `gatherMap` takes its first byte. In `cutElements` both elements of the source are +0; the sector that holds them is read from a gather
copy, where an element is a NaN, and NORM answers that one is not finite. -/
theorem not_normIsLocal : ¬ Obligations.NormIsLocal := by
  unfold Obligations.NormIsLocal
  intro h
  obtain ⟨u, hu, -⟩ := h cutElements 7 normOp (List.replicate 8 0) (by decide +kernel) (by decide +kernel) (by decide +kernel)
    (by decide +kernel) (by decide +kernel) rfl cutElements_source
  have hops := congrArg opsAfter hu
  obtain ⟨y, hy, hfields⟩ := List.map_eq_singleton_iff.1 opsAfter_cutElements
  simp only [Prod.mk.injEq] at hfields
  obtain ⟨hhandle, hphase, hres⟩ := hfields
  have hzero : y.res0 = 0 :=
    (res0_of_complete_alone (hops.symm.trans hy) hhandle (by simp [hphase])).trans (by rw [normRes, normTriple_zeros]; rfl)
  rw [hzero] at hres
  exact absurd hres (by decide)

end Sys2Proof.Machine
end

section
/-! PROOFS. A CONVERT whose source begins within a 64 B sector that a gather range cuts: why the statement on CONVERT fails (R325). -/

namespace Sys2Proof.Machine

/-- A Running CONVERT of tenant 0: the 8 FP32 elements from 0x1020 on to BF16, from byte 0x40 of S-space on. -/
def convertOp : Op :=
  { copyOp with
    desc := BitVec.ofNat 512 (opConvert + 2 ^ 16 + 4 * 2 ^ 24 + 0x1020 * 2 ^ 192 + (0x40 + 8 * 2 ^ 64) * 2 ^ 256 + 2 * 2 ^ 392) }

/-- `cutSector` with the CONVERT in the COPY's place: the gather range 0x1000 to 0x101F cuts the sector of the source, and each byte of the
source holds 0x5A. -/
def cutConvert : State := { cutSector with fe := { feReset with ops := [convertOp] } }

theorem convertOp_fields : dSrcSpace convertOp.desc = 0 ∧ dSrc convertOp.desc = 0x1020 ∧
    operandBytes (dSfmt convertOp.desc) (dCount convertOp.desc) = 32 ∧ dDstSpace convertOp.desc = 1 ∧ dDst convertOp.desc = 0x40 := by
  decide +kernel

/-- The source meets every condition of the statement. -/
theorem cutConvert_source : SourceIs cutConvert (dSrcSpace convertOp.desc) (dSrc convertOp.desc)
    (operandBytes (dSfmt convertOp.desc) (dCount convertOp.desc)) (List.replicate 32 0x5A) := by
  obtain ⟨hspace, hsrc, hbytes, -, -⟩ := convertOp_fields
  rw [hspace, hsrc, hbytes]
  have hplain : PlainSrc cutConvert 0x1020 32 := by decide +kernel
  have hread : List.replicate 32 0x5A = dRead cutConvert 0x1020 32 := by decide +kernel
  exact .inr ⟨rfl, 0x1020, by decide +kernel, hplain, hread⟩

/-- Each element of the source is 0x5A5A_5A5A, whose nearest BF16 value is 0x5A5A. -/
theorem convertBytes_source :
    (convertBytes cutConvert convertOp ⟨cutConvert, List.replicate 32 0x5A, [], 0⟩).1 = List.replicate 16 0x5A := by
  decide +kernel

/-- The read of the sector at 0x1000 goes where the gather range maps 0x1000, and takes the elements from 0x1020 on from there too: the
CONVERT delivers +0. -/
theorem copied_cutConvert : copied (exec (.convert 7) cutConvert) = 0 := by decide +kernel

/-- Refutes O22: the source need only lie outside every gather range, but the model reads whole 64 B sectors, each at the place to which
`gatherMap` takes its first byte. In `cutConvert` the elements of the source encode to 0x5A5A; the sector that holds them is read from a
gather copy that nothing has written, and CONVERT writes zeros. -/
theorem not_convertEncodes : ¬ Obligations.ConvertEncodes := by
  unfold Obligations.ConvertEncodes
  intro h
  obtain ⟨-, -, -, hspace, hdst⟩ := convertOp_fields
  obtain ⟨u, hu, hs, -⟩ := h cutConvert 7 convertOp (List.replicate 32 0x5A) (by decide +kernel) (by decide +kernel) (by decide +kernel)
    (by decide +kernel) cutConvert_source (.inl hspace)
  obtain ⟨hlaid, -⟩ := hs hspace
  rw [hdst, convertBytes_source] at hlaid
  have hbyte : memGet u.mem.scells 0x40 = 0x5A := hlaid 0x40
  have hcopied : copied (exec (.convert 7) cutConvert) = memGet u.mem.scells 0x40 :=
    (congrArg copied hu).trans (copied_complete _ _ _)
  rw [copied_cutConvert, hbyte] at hcopied
  exact absurd hcopied (by decide)

end Sys2Proof.Machine
end

section
/-! PROOFS. Collective commands: their numbers, and how they join and enter work (SPEC.md, section 08). -/

namespace Sys2Proof.Machine

/-! ### Numbers -/

/-- An operation as it enters Running: it has its place in the order, and a collective command its number. -/
def enteredOp (s : State) (o x : Op) : Op :=
  { x with
    phase := .running, seat := s.fe.seats, behind := drivenBefore s o s.fe.seats
    collNo := if isColl o then collCount s o.tenant (dCplan o.desc) else 0 }

/-- A collective command that enters Running advances the count of its tenant and plan, and nothing else outside the front end. -/
theorem enterRunning_coll {s : State} {o : Op} (hc : isColl o = true) :
    enterRunning s o = countColl
      { updOp s o.handle (enteredOp s o) with fe := { (updOp s o.handle (enteredOp s o)).fe with seats := s.fe.seats + 1 } }
      o.tenant (dCplan o.desc) := if_pos hc

theorem collCount_countColl (s : State) (t : BitVec 4) (plan : Nat) :
    collCount (countColl s t plan) t plan = (collCount s t plan + 1) % 2 ^ 32 := nmGet_nmSet_self _ _ _ _

/-! ### Joining and entering work -/

/-- The record with which a collective command joins those of its tenant and plan. -/
def joiningColl (s : State) (o : Op) : CollRun :=
  { handle := o.handle, tenant := o.tenant, plan := dCplan o.desc, number := o.collNo
    src := (localAddr s.cfg.live (dSrc o.desc)).getD 0, dst := (localAddr s.cfg.live (dDst o.desc)).getD 0, fmt := dSfmt o.desc
    begun := false, got := [] }

/-- The state in which a collective command has joined, and has not entered work. -/
def joinedColl (s : State) (o : Op) : State := { s with step := { s.step with colls := s.step.colls ++ [joiningColl s o] } }

theorem tryColl_go {s : State} {o : Op} (hg : Groupless s) (hfull : dEmpty o.desc = false ∨ dOpcode o.desc = opNorm) :
    tryColl s o = .go (beginColl (joinedColl s o) o.handle) := by
  have hwork : dEmpty o.desc = true → dOpcode o.desc = opNorm := fun he => hfull.resolve_left (ne_false_of_eq_true he)
  simpa [tryColl, joinGroup, groupConflict, beginPending_groupless hg, groupOf_groupless hg, joinedColl, joiningColl] using hwork

section
variable {s : State} {h : Word} {x : CollRun} (hx : s.step.colls.find? (fun c => c.handle = h) = some x)
include hx

/-- A collective command behind an earlier one of its tenant and plan waits. -/
theorem beginColl_waits (hw : collWaits s x = true) : beginColl s h = s := by
  unfold beginColl
  rw [hx]
  simp [hw]

/-- A REDUCE behind none enters work, with the next stream number. -/
theorem beginColl_reduce {cp : CPlan} {o : Op} (hb : x.begun = false) (hw : collWaits s x = false) (hd : s.hz.drop.dropped = false)
    (hcp : nmGet? s.cfg.live.cplans x.plan = some cp) (ho : findOp s h = some o) (hop : dOpcode o.desc = opReduce) :
    beginColl s h =
      beginReduce (updOp (takeStream s false).1 h fun z => { z with stream := (takeStream s false).2.toNat }) x cp := by
  unfold beginColl
  rw [hx]
  simp [hb, hw, hd, hcp, ho, hop]

end

/-- Settles O30: a number by the count that it advances, and the rest by what the try of a collective command comes to. -/
theorem collectiveNumbers : Obligations.CollectiveNumbers := by
  unfold Obligations.CollectiveNumbers
  refine ⟨fun s o ho hw hc => ?_, fun s h o c hcase hg => ?_, fun s h x cp o hx hb hw hd hcp ho hop => ?_, fun s h x hx hw => ?_⟩
  · rw [enterRunning_coll hc]
    refine ⟨collCount_countColl _ _ _, ⟨enteredOp s o o, mem_updOp_self ho (by simp [hw]) _, rfl, rfl, if_pos hc⟩, rfl, rfl⟩
  · have hjoin : ∀ {code : Nat}, Ready s h code o → dEmpty o.desc = false ∨ dOpcode o.desc = opNorm →
        tryColl (begun s h) (begunOp o) = .go (beginColl (joinedColl (begun s h) (begunOp o)) o.handle) :=
      fun _ hfull => tryColl_go (groupless_begun hg h) hfull
    refine ⟨joinedColl (begun s h) (begunOp o), joiningColl (begun s h) (begunOp o), ?_, rfl, rfl, rfl, rfl, rfl, rfl, rfl, rfl⟩
    rcases hcase with ⟨rfl, hr, he⟩ | ⟨rfl, hr, he, ht⟩ | ⟨rfl, hr, hplan, ht⟩
    · exact congrArg Host.Outcome.next (runCommand_go hr (hjoin hr (.inl he)))
    · exact congrArg Host.Outcome.next (runData_go hr ht (hjoin hr (.inl he)))
    · have hnorm : tryNorm (begun s h) (begunOp o) = tryColl (begun s h) (begunOp o) := if_pos hplan
      have ⟨_, hop, _⟩ := hr
      exact congrArg Host.Outcome.next (runData_go hr ht (hnorm.trans (hjoin hr (.inr hop))))
  · exact congrArg (fun t => Host.Outcome.next (settle t)) (beginColl_reduce hx hb hw hd hcp ho hop)
  · exact congrArg (fun t => Host.Outcome.next (settle t)) (beginColl_waits hx hw)

end Sys2Proof.Machine
end

section
/-! PROOFS. What the ports' part in a frame's arrival and departure leaves: all but the ports and what was sent (SPEC.md, section 08). -/

namespace Sys2Proof.Machine

theorem portsOnly_creditBack (s : State) (port : Nat) (f : Frame) : PortsOnly s (creditBack s port f) := by
  unfold creditBack
  split
  · exact .refl s
  · exact portsOnly_sendOn s port _

theorem portsOnly_sendRouted (s : State) (f : Frame) (q : Option Nat) : PortsOnly s (sendRouted s f q) := by
  unfold sendRouted
  split
  · exact portsOnly_sendOn s _ _
  · exact .refl s

theorem PortsOnly.ite {c : Prop} [Decidable c] {s t u : State} (ht : PortsOnly s t) (hu : PortsOnly s u) :
    PortsOnly s (if c then t else u) := by
  split <;> assumption

theorem portsOnly_sendPhase (s : State) (ph : CPhase) (plus : Bool) (tile vc : Nat) (f : Frame) :
    PortsOnly s (sendPhase s ph plus tile vc f) := by
  unfold sendPhase
  refine .ite (.refl s) (.ite (portsOnly_sendRouted s _ _) ?_)
  dsimp only
  split
  · exact portsOnly_sendOn s _ _
  · exact .refl s

theorem PortsOnly.held {s t : State} (h : PortsOnly s t) : t.hz.held = s.hz.held := by rw [h]

end Sys2Proof.Machine
end

section
/-! PROOFS. The frames in the receiving buffers, which a frame at its target takes none of (SPEC.md, section 08). A function of the model that
yields a state has one lemma, with its name and `_held`: the frames that are held are as they were. -/

namespace Sys2Proof.Machine

/-! ### Branches and repetitions -/

@[simp] theorem ite_held (c : Prop) [Decidable c] (s t : State) :
    (if c then s else t).hz.held = if c then s.hz.held else t.hz.held := apply_ite (fun u : State => u.hz.held) c s t

@[simp] theorem ite_fst_held {α : Type} (c : Prop) [Decidable c] (x y : State × α) :
    (if c then x else y).1.hz.held = if c then x.1.hz.held else y.1.hz.held := apply_ite (fun u : State × α => u.1.hz.held) c x y

@[simp] theorem foldl_held {α : Type} {f : State → α → State} (hf : ∀ s x, (f s x).hz.held = s.hz.held) (l : List α) (s : State) :
    (l.foldl f s).hz.held = s.hz.held :=
  List.foldlRecOn l f (motive := fun t => t.hz.held = s.hz.held) rfl fun t ht x _ => (hf t x).trans ht

@[simp] theorem foldl_fst_held {α β : Type} {f : State × β → α → State × β} (hf : ∀ p x, (f p x).1.hz.held = p.1.hz.held) (l : List α)
    (p : State × β) : (l.foldl f p).1.hz.held = p.1.hz.held :=
  List.foldlRecOn l f (motive := fun t => t.1.hz.held = p.1.hz.held) rfl fun t ht x _ => (hf t x).trans ht

/-! ### Events, operations and sync objects -/

section
variable (s : State) (t : Nat) (code : BitVec 16) (place detail v : DWord) (handle : Word) (id : Nat) (o : Op) (r : Res) (c : Counts)

@[simp] theorem raiseEvent_held : (raiseEvent s t code place detail handle).hz.held = s.hz.held :=
  congrArg Fabric.held (onlyEvents_raiseEvent s t code place detail handle).hz

@[simp] theorem raiseEventFree_held : (raiseEventFree s t code place handle).hz.held = s.hz.held :=
  congrArg Fabric.held (onlyEvents_raiseEventFree s t code place handle).hz

@[simp] theorem raiseEventOpen_held : (raiseEventOpen s t code handle).hz.held = s.hz.held :=
  congrArg Fabric.held (onlyEvents_raiseEventOpen s t code handle).hz

@[simp] theorem raiseAll_held : (raiseAll s code place detail).hz.held = s.hz.held :=
  congrArg Fabric.held (onlyEvents_raiseAll s code place detail).hz

@[simp] theorem raiseAllOpen_held : (raiseAllOpen s code).hz.held = s.hz.held := congrArg Fabric.held (onlyEvents_raiseAllOpen s code).hz

@[simp] theorem logRecordFree_held (kind die unit place tenant : Nat) :
    (logRecordFree s kind die unit place tenant).hz.held = s.hz.held := rfl

@[simp] theorem syncAdd_held : (syncAdd s id v).hz.held = s.hz.held := congrArg Fabric.held (onlyOps_syncAdd s id v).hz

@[simp] theorem addTotals_held (t : BitVec 4) : (addTotals s t c).hz.held = s.hz.held := congrArg Fabric.held (onlyOps_addTotals s t c).hz

@[simp] theorem finishOp_held : (finishOp s o r).hz.held = s.hz.held := congrArg Fabric.held (onlyOps_finishOp s o r).hz

@[simp] theorem settle_held : (settle s).hz.held = s.hz.held := congrArg Fabric.held (onlyOps_settle s).hz

end

/-! ### Ports -/

section
variable (s : State) (port tile vc : Nat) (f : Frame) (st : Status) (gone : Frame → Bool) (ph : CPhase) (plus : Bool) (c : StreamCount)

@[simp] theorem updPort_held (g : HzPort → HzPort) : (updPort s port g).hz.held = s.hz.held := rfl

@[simp] theorem sendOn_held : (sendOn s port f).hz.held = s.hz.held := (portsOnly_sendOn s port f).held

@[simp] theorem creditBack_held : (creditBack s port f).hz.held = s.hz.held := (portsOnly_creditBack s port f).held

@[simp] theorem sendRouted_held (q : Option Nat) : (sendRouted s f q).hz.held = s.hz.held := (portsOnly_sendRouted s f q).held

@[simp] theorem sendStatus_held : (sendStatus s f st).hz.held = s.hz.held := sendRouted_held s _ none

@[simp] theorem closeCount_held : (closeCount s c).hz.held = s.hz.held := by simp [closeCount]

@[simp] theorem putCount_held (c : Option StreamCount) : (putCount s f c).hz.held = s.hz.held := rfl

@[simp] theorem sendPhase_held : (sendPhase s ph plus tile vc f).hz.held = s.hz.held := (portsOnly_sendPhase s ph plus tile vc f).held

end

/-! ### Reads and writes at the homes -/

section
variable (s : State) (a n k g : Nat) (bs : List Byte) (c : ShardCfg) (die line hint : Nat) (visitor small : Bool) (l : CacheLine)

@[simp] theorem dWrite_held : (dWrite s a bs).hz.held = s.hz.held := by
  obtain ⟨-, -, -, -, -, -, -, hhz, -⟩ := dWrite_rest s a bs
  rw [hhz]

@[simp] theorem catchUp_held : (catchUp s g).hz.held = s.hz.held := by rw [catchUp_only]

@[simp] theorem releaseHold_held : (releaseHold s a n).hz.held = s.hz.held := by rw [releaseHold_only]

@[simp] theorem foldUp_held (f i j : Nat) : (foldUp c k f i j s).hz.held = s.hz.held := by
  induction f generalizing i j s with
  | zero => rfl
  | succ f ih => simp [foldUp, ih]

@[simp] theorem recomputeTouched_held : (recomputeTouched s a n).hz.held = s.hz.held := by simp [recomputeTouched, recomputeTile]

@[simp] theorem undoRestoreAll_held (logged : Bool) : (undoRestoreAll s c logged).hz.held = s.hz.held := by
  simp [undoRestoreAll, undoRestore]

@[simp] theorem shardClean_held : (shardClean s n).hz.held = s.hz.held := by
  unfold shardClean
  split <;> simp [setShardState]

@[simp] theorem holdInRun_held : (holdInRun s n).hz.held = s.hz.held := by
  unfold holdInRun
  split <;> simp [setShardState]

@[simp] theorem abortShard_held : (abortShard s n).hz.held = s.hz.held := by simp [abortShard, orderStop]

@[simp] theorem haltShard_held : (haltShard s n).hz.held = s.hz.held := by simp [haltShard]

@[simp] theorem startRefetch_held (shared : Bool) (src : Option Nat) (t : BitVec 4) :
    (startRefetch s g shared src t).hz.held = s.hz.held := by
  unfold startRefetch
  repeat' split
  all_goals simp [sendServe, takeStream]

@[simp] theorem raiseUe_held (t : Option (BitVec 4)) : (raiseUe s t a).hz.held = s.hz.held := by
  unfold raiseUe
  split <;> simp

@[simp] theorem actOnPoison_held (r : Region) : (actOnPoison s a r).hz.held = s.hz.held := by
  unfold actOnPoison
  dsimp only
  repeat' split
  all_goals simp [dueRepair, recomputeSlot, writeDigests]

@[simp] theorem detectUe_held : (detectUe s a).hz.held = s.hz.held := by
  unfold detectUe poisonGranule
  repeat' split
  all_goals simp [markArray, setArray, setUnlisted]

@[simp] theorem countCorrected_held : (countCorrected s g n).hz.held = s.hz.held := by simp [countCorrected]

@[simp] theorem readStored_held : (readStored s a).hz.held = s.hz.held := by
  unfold readStored
  dsimp only
  repeat' split
  all_goals simp [countSector, mendPlace, setArray]

@[simp] theorem readBurst_held : (readBurst s a).hz.held = s.hz.held := by
  unfold readBurst
  split <;> simp [updLecc]

@[simp] theorem detectRead_held : (detectRead s a n).hz.held = s.hz.held := by
  simp [detectRead, forgetUnlisted, setUnlisted, readPlace]

@[simp] theorem mergeRead_held : (mergeRead s a n).hz.held = s.hz.held := by simp [mergeRead, forgetUnlisted, setUnlisted, readPlace]

@[simp] theorem dropLine_held : (dropLine s die line visitor).hz.held = s.hz.held := by simp [dropLine]

@[simp] theorem writeBackSector_held : (writeBackSector l s k).hz.held = s.hz.held := by simp [writeBackSector]

@[simp] theorem evictLine_held : (evictLine s die line visitor).hz.held = s.hz.held := by
  unfold evictLine
  split <;> simp [writeBack]

@[simp] theorem putLine_held : (putLine s l).hz.held = s.hz.held := by
  unfold putLine
  repeat' split
  all_goals simp

@[simp] theorem hcCount_held : (hcCount s die a).hz.held = s.hz.held := by simp [hcCount]

@[simp] theorem keepsLine_held : (keepsLine s die line hint).1.hz.held = s.hz.held := by simp [keepsLine]

@[simp] theorem homeReadSector_held : (homeReadSector hint small s a).hz.held = s.hz.held := by simp [homeReadSector]

@[simp] theorem keepVisitor_held (t : BitVec 4) : (keepVisitor s die t a).hz.held = s.hz.held := by
  unfold keepVisitor
  dsimp only
  repeat' split
  all_goals simp

@[simp] theorem readSector_held (t : BitVec 4) (at_ : Nat → Nat) (x : State × List Byte × Nat) :
    (readSector die t hint g n at_ x a).1.hz.held = x.1.hz.held := by
  unfold readSector
  dsimp only
  repeat' split
  all_goals simp

@[simp] theorem writeThrough_held : (writeThrough s hint a bs).hz.held = s.hz.held := by simp [writeThrough, homeWriteSector]

end

/-! ### Held requests, which a landing write may let go on -/

section
variable (s : State) (a n : Nat)

@[simp] theorem serveRead_held (type : Nat) (r : HostReq) : (serveRead s type r n a).hz.held = s.hz.held := by
  unfold serveRead
  dsimp only
  repeat' split
  all_goals simp [holdRequest, readHome, countUninit, readBy, takeAhead]

@[simp] theorem serveOne_held (h : HeldReq) : (serveOne s h).hz.held = s.hz.held := by
  unfold serveOne
  split <;> simp [serveWrite, holdRequest, dropOwnCopies]

@[simp] theorem endRefetches_held (gone : List Refetch) : (endRefetches s gone).hz.held = s.hz.held := by
  refine foldl_held (fun s r => ?_) _ _
  unfold reportRefetch
  split <;> simp

@[simp] theorem refetchLanded_held : (refetchLanded s a n).hz.held = s.hz.held := by simp [refetchLanded, serveHeld, serveAll]

end

/-! ### Operations that stop, and tiles that are zeroed -/

section
variable (s : State) (o : Op) (st : Status) (handle : Word) (tile c : Nat)

@[simp] theorem stopOp_held : (stopOp s o st).hz.held = s.hz.held := by
  unfold stopOp signalPlan
  split <;> simp [dropWork]

@[simp] theorem endAccum_held : (endAccum s handle st).hz.held = s.hz.held := by
  unfold endAccum
  split <;> simp

@[simp] theorem boundaryRefs_held (times : Nat) : (boundaryRefs s c times).hz.held = s.hz.held := by simp [boundaryRefs, refreshRound]

@[simp] theorem zeroTile_held : (zeroTile s tile).hz.held = s.hz.held := by simp [zeroTile]

@[simp] theorem dropRange_held (a n : Nat) : (dropRange s a n).hz.held = s.hz.held := by simp [dropRange]

@[simp] theorem cloneAtoms_held (x : Nat × Nat) : (cloneAtoms s x).hz.held = s.hz.held := by
  simp [cloneAtoms, setProc]

@[simp] theorem zeroTiles_held (l : List (Nat × Nat)) : (zeroTiles s l).hz.held = s.hz.held := by
  simp [zeroTiles, countClones]

end

/-! ### Steps, their sweeps and verdicts -/

section
variable (s : State) (handle : Word) (r : StepRun) (w : SweepRec) (c : ShardCfg) (n i k : Nat) (v : Verdict) (g : StepPlan) (st : Status)

@[simp] theorem narrowSend_held (l : StepLayer) (x : Nat × CPlan) : (narrowSend s r l x i).hz.held = s.hz.held := by
  unfold narrowSend
  split <;> simp

@[simp] theorem narrowPresent_held (l : StepLayer) (x : Nat × CPlan) : (narrowPresent s handle k l x i).hz.held = s.hz.held := by
  unfold narrowPresent
  split <;> simp

@[simp] theorem slotSend_held (q : SlotGather) (cp : CPlan) : (slotSend s r q cp i).hz.held = s.hz.held := by
  unfold slotSend
  split <;> simp

@[simp] theorem slotPresent_held (q : SlotGather) (cp : CPlan) : (slotPresent s handle k q cp i).hz.held = s.hz.held := by
  unfold slotPresent
  split <;> simp

@[simp] theorem addSweepCounts_held (x : Counts) : (addSweepCounts s w c x).hz.held = s.hz.held := by
  unfold addSweepCounts
  split <;> simp [addOpCounts]

@[simp] theorem deliverBetween_held (x : List Word) : (deliverBetween s n x).hz.held = s.hz.held := by
  unfold deliverBetween
  split
  · rfl
  · refine foldl_held (fun s e => ?_) _ _
    split <;> simp [writeCols]

@[simp] theorem setMark_held : (setMark s r).hz.held = s.hz.held := by simp [setMark, closePlanned]

@[simp] theorem holdShard_held : (holdShard s n).hz.held = s.hz.held := by
  unfold holdShard
  dsimp only
  split <;> simp [noteHeld]

@[simp] theorem signalRun_held : (signalRun s handle).hz.held = s.hz.held := by
  unfold signalRun
  repeat' split
  all_goals simp

@[simp] theorem gathersOver_held : (gathersOver s handle).hz.held = s.hz.held := by
  unfold gathersOver
  repeat' split
  all_goals simp

@[simp] theorem runSweep_held (x : ShardState) : (runSweep s handle w x).hz.held = s.hz.held := by
  unfold runSweep startSweep closeWindows
  dsimp only
  repeat' split
  all_goals simp

@[simp] theorem startOutcomeSweep_held (redo : Bool) (clip : Word) : (startOutcomeSweep s r n redo clip).hz.held = s.hz.held := by
  unfold startOutcomeSweep
  split <;> simp

@[simp] theorem verdictShard_held : (verdictShard s r v n).hz.held = s.hz.held := by
  unfold verdictShard redoShard
  repeat' split
  all_goals simp [orderStop]

@[simp] theorem skipSettled_held : (skipSettled s handle).hz.held = s.hz.held := by
  unfold skipSettled
  repeat' split
  all_goals simp

@[simp] theorem deliverVerdict_held : (deliverVerdict s handle v).hz.held = s.hz.held := by
  unfold deliverVerdict
  repeat' split
  all_goals simp [recordVerdict]

@[simp] theorem endRun_held (outcome : Nat) : (endRun s r st outcome).hz.held = s.hz.held := by
  unfold endRun
  dsimp only
  split <;> simp

end

/-! ### Dropouts -/

section
variable (s : State) (r : StepRun) (g : StepPlan) (st : Status) (y : BitVec 13) (cut : Bool)

@[simp] theorem cleanShards_held : (cleanShards s g).hz.held = s.hz.held := by simp [cleanShards]

@[simp] theorem furtherDropout_held : (furtherDropout s).hz.held = s.hz.held := by
  refine (foldl_held (fun s r => ?_) _ _).trans (by simp [endRound])
  unfold abandonRun
  split <;> simp [dropTrees]

@[simp] theorem resendSlots_held : (resendSlots s r g).hz.held = s.hz.held := by
  refine foldl_held (fun s e => ?_) _ _
  repeat' split
  all_goals simp

@[simp] theorem resendNarrow_held (handle : Word) : (resendNarrow s handle).hz.held = s.hz.held := by
  unfold resendNarrow
  repeat' split
  · rfl
  · rfl
  · refine (foldl_held (fun s e => ?_) _ _).trans (resendSlots_held _ _ _)
    repeat' split
    all_goals simp

@[simp] theorem replayRun_held : (replayRun s r).hz.held = s.hz.held := by
  unfold replayRun
  split <;> simp [dropAccums, dropTrees]

@[simp] theorem roundResult_held (flag : Bool) (vs : List (BitVec 4 × Verdict)) : (roundResult s flag vs).hz.held = s.hz.held := by
  have hresume : ∀ s r, (resumeRun vs s r).hz.held = s.hz.held := fun s r => by
    unfold resumeRun
    repeat' split
    all_goals simp
  unfold roundResult
  repeat' split
  all_goals simp [hresume, endRound, makeFallback]

@[simp] theorem learnDrop_held (q : Option Nat) : (learnDrop s y cut q).hz.held = s.hz.held := by
  have hout : ∀ s delay, (dropOut s delay).hz.held = s.hz.held := fun s delay => (portsOnly_dropOut s delay).held
  have hnotice : ∀ s, (sendDrop s y cut q).hz.held = s.hz.held := fun s => (portsOnly_sendDrop s y cut q).held
  simp [learnDrop, hout, hnotice, forgetFrames, dropQueued, closeFrom, abandonCompares]

end

/-! ### Trees -/

section
variable (s : State) (t : TreeRun) (u : TreeUse) (cp : CPlan) (f : Frame) (v : TreeVal)

@[simp] theorem sendTree_held (p : CPhase) (plus : Bool) (fs : List Frame) : (sendTree p plus fs s).hz.held = s.hz.held := by
  simp [sendTree]

@[simp] theorem sendDown_held (fs : List Frame) : (sendDown s cp fs).hz.held = s.hz.held := foldl_held (fun s p => by simp) _ _

@[simp] theorem treeDone_held (verdict : Option Verdict) : (treeDone s t cp v verdict).hz.held = s.hz.held := by
  unfold treeDone
  dsimp only
  repeat' split
  all_goals simp [endTree, endColl, planComplete]

@[simp] theorem countTree_held (n : Nat) : (countTree s u n).hz.held = s.hz.held := by
  unfold countTree
  repeat' split
  all_goals simp [addOpCounts]

@[simp] theorem advanceTree_held (n : Nat) : (advanceTree n u s).hz.held = s.hz.held := by
  induction n generalizing s with
  | zero => rfl
  | succ n ih =>
    unfold advanceTree
    repeat' split
    all_goals simp [ih, rootResult]

@[simp] theorem treeUp_held : (treeUp s t cp f).hz.held = s.hz.held := by
  unfold treeUp
  split <;> simp

@[simp] theorem treeDown_held : (treeDown s t cp f).hz.held = s.hz.held := by
  unfold treeDown
  split <;> simp

@[simp] theorem joinRound_held : (joinRound s).hz.held = s.hz.held := by
  unfold joinRound
  repeat' split
  all_goals simp [startTree]

end

/-! ### Gathers -/

section
variable (s : State) (handle : Word) (i : Nat) (f : Frame)

@[simp] theorem gatherCheck_held : (gatherCheck s handle).hz.held = s.hz.held := by
  unfold gatherCheck
  dsimp only
  repeat' split
  all_goals simp [endColl, planComplete]

@[simp] theorem gatherPresent_held : (gatherPresent s handle i).hz.held = s.hz.held := by
  unfold gatherPresent
  repeat' split
  all_goals simp [gatherSend]

@[simp] theorem endGather_held : (endGather s handle).hz.held = s.hz.held := by
  unfold endGather
  split <;> simp

@[simp] theorem narrowTileDone_held : (narrowTileDone s f i).hz.held = s.hz.held := by
  unfold narrowTileDone
  repeat' split
  all_goals simp

theorem writeNarrow_held (grp : Option Nat) (a : Nat) : (writeNarrow s grp f a).state.hz.held = s.hz.held := by
  unfold writeNarrow
  dsimp only
  repeat' split
  · rfl
  · rw [(onlyTxg_groupWrite s _ _ _).eq]
  · rfl
  · simp [GroupWrite.state]

end

/-! ### Pulls and counts -/

theorem landPiece_held {s t : State} {o : Op} {off : Nat} {bs : List Byte} (h : landPiece s o off bs = some t) : t.hz.held = s.hz.held := by
  unfold landPiece at h
  dsimp only at h
  repeat' split at h
  all_goals cases h
  all_goals simp [opWrite]

@[simp] theorem pullOver_held (s : State) (handle : Word) : (pullOver s handle).hz.held = s.hz.held := by
  unfold pullOver
  split <;> simp

@[simp] theorem landFinal_held (s : State) (f : Frame) : (landFinal s f).hz.held = s.hz.held := by simp [landFinal]

@[simp] theorem joinTile_held (s : State) (port : Nat) (f : Frame) (a : Nat) : (joinTile s port f a).hz.held = s.hz.held := by
  unfold joinTile
  dsimp only
  repeat' split
  · rfl
  · cases planUse s _ <;> simp
  · simp
  · simp

end Sys2Proof.Machine
end

section
/-! PROOFS. A held frame that is looked at again: frames are held behind those that are held already (SPEC.md, section 08; R347, R352). -/

namespace Sys2Proof.Machine

/-! ### What a frame at its target leaves of the frames that are held -/

section
variable {kept : List (Nat × Frame)} {s : State} {port : Nat} {f : Frame} (h : kept <+: s.hz.held)
include h

@[simp] theorem holdFrame_keeps : kept <+: (holdFrame s port f).hz.held := List.prefix_append_of_prefix h

@[simp] theorem staleFrame_keeps : kept <+: (staleFrame s port f).hz.held := by simpa [staleFrame] using h

@[simp] theorem countLanded_keeps : kept <+: (countLanded s port f).hz.held := by
  unfold countLanded
  dsimp only
  repeat' split
  all_goals simp [h, List.prefix_append_of_prefix]

@[simp] theorem refuseFrame_keeps (st : Status) : kept <+: (refuseFrame s port f st).hz.held := by
  unfold refuseFrame
  repeat' split
  all_goals simp [h, finalDiscarded]

theorem forward_keeps : kept <+: (forward s port f).hz.held := by
  unfold forward
  repeat' split
  all_goals simp [h]

theorem takePull_keeps (o : Op) : kept <+: (takePull s port f o).hz.held := by
  unfold takePull
  dsimp only
  split
  · exact holdFrame_keeps h
  · split
    · next st _ =>
      have hrefuse : ∀ u : State, u.hz = s.hz → kept <+: (refuseFrame u port f st).hz.held := fun u hu => refuseFrame_keeps (hu ▸ h) st
      simp only [settle_held, pullOver_held, updOp_hz]
      exact hrefuse _ rfl
    · split
      · exact holdFrame_keeps h
      · next t ht =>
        have hland : t.hz.held = s.hz.held := by
          split at ht
          · exact landPiece_held ht
          · rw [← Option.some.inj ht]
        simp [h, hland]

@[simp] theorem landWrite_keeps : kept <+: (landWrite s port f).hz.held := by
  unfold landWrite
  dsimp only
  repeat' split
  all_goals simp [h, finalArrives]

theorem takeWrite_keeps : kept <+: (takeWrite port f s).hz.held := by
  unfold takeWrite
  split
  · exact takePull_keeps h _
  · repeat' split
    all_goals simp [h]

theorem takeAcc_keeps : kept <+: (takeAcc port f s).hz.held := by
  unfold takeAcc
  repeat' split
  all_goals simp [h]

omit h in
theorem writeNarrow_ok {t : State} {grp : Option Nat} {a : Nat} (hw : writeNarrow s grp f a = .ok t) : t.hz.held = s.hz.held := by
  have hstate := writeNarrow_held s f grp a
  rwa [hw] at hstate

theorem takeGather_keeps (c : CollRun) : kept <+: (takeGather s port f c).hz.held := by
  unfold takeGather
  dsimp only
  split
  · simp [h]
  · split
    · exact holdFrame_keeps h
    · simp [h]
    · next ht => simp [h, writeNarrow_ok ht]

theorem takeSlot_keeps (x : StepRun × Nat × SlotGather × CPlan × Nat) : kept <+: (takeSlot s port f x).hz.held := by
  unfold takeSlot
  split
  · exact holdFrame_keeps h
  · split
    · exact holdFrame_keeps h
    · exact holdFrame_keeps h
    · next ht => simp [h, writeNarrow_ok ht]

theorem takeNarrow_keeps : kept <+: (takeNarrow port f s).hz.held := by
  unfold takeNarrow
  split
  · simp [h]
  split
  · exact holdFrame_keeps h
  split
  · split
    · exact takeGather_keeps h _
    · exact staleFrame_keeps h
    · exact holdFrame_keeps h
  split
  · exact refuseFrame_keeps h _
  split
  · exact holdFrame_keeps h
  · exact staleFrame_keeps h
  · split
    · exact takeSlot_keeps h _
    · split
      · exact holdFrame_keeps h
      · exact holdFrame_keeps h
      · next ht => simp [h, writeNarrow_ok ht]

theorem takeTree_keeps : kept <+: (takeTree port f s).hz.held := by
  unfold takeTree
  repeat' split
  all_goals simp [h]

theorem takeServe_keeps : kept <+: (takeServe port f s).hz.held := by
  unfold takeServe
  dsimp only
  repeat' split
  all_goals simp [h, countUninit]

theorem takeStatus_keeps : kept <+: (takeStatus port f s).hz.held := by
  unfold takeStatus
  dsimp only
  split <;> simp [h]

theorem takeDrop_keeps : kept <+: (takeDrop port f s).hz.held := by simpa [takeDrop] using h

theorem takeRecover_keeps : kept <+: (takeRecover port f s).hz.held := by
  unfold takeRecover
  repeat' split
  all_goals simp [h]

/-- A frame at its target may come to be held, behind those that are held already, and takes none of these away. -/
theorem takeFrame_keeps : kept <+: (takeFrame port f s).hz.held := by
  unfold takeFrame
  split
  · exact takeWrite_keeps h
  · exact takeAcc_keeps h
  · exact takeAcc_keeps h
  · exact takeNarrow_keeps h
  · exact takeTree_keeps h
  · exact takeTree_keeps h
  · exact takeServe_keeps h
  · exact takeStatus_keeps h
  · exact takeDrop_keeps h
  · exact takeRecover_keeps h
  · exact h

theorem takeHeld_keeps : kept <+: (takeHeld port f s).hz.held := by
  unfold takeHeld
  split
  · exact forward_keeps h
  · exact takeFrame_keeps h

end

end Sys2Proof.Machine
end

section
/-! PROOFS. The other frames at their target: ACC, SET, NARROW, TRIPLE, VERDICT, SERVE and STATUS (SPEC.md, section 08). -/

namespace Sys2Proof.Machine

/-! ### Frames that have arrived -/

section
variable {s t : State}

theorem PortsOnly.accRefusal_eq (h : PortsOnly s t) (a : Nat) (f : Frame) : accRefusal t a f = accRefusal s a f := by rw [h]; rfl
theorem PortsOnly.stepOf_eq (h : PortsOnly s t) (f : Frame) (exact_ : Bool) : stepOf t f exact_ = stepOf s f exact_ := by rw [h]; rfl
theorem PortsOnly.narrowRefusal_eq (h : PortsOnly s t) (a : Nat) (f : Frame) : narrowRefusal t a f = narrowRefusal s a f := by rw [h]; rfl
theorem PortsOnly.gatherAt_eq (h : PortsOnly s t) (c : BitVec 4) (a n : Nat) : gatherAt t c a n = gatherAt s c a n := by rw [h]; rfl
theorem PortsOnly.slotOf_eq (h : PortsOnly s t) (c : BitVec 4) (plan a n : Nat) : slotOf t c plan a n = slotOf s c plan a n := by rw [h]; rfl
theorem PortsOnly.treeOf_eq (h : PortsOnly s t) (f : Frame) : treeOf t f = treeOf s f := by rw [h]; rfl
theorem PortsOnly.treePlan_eq (h : PortsOnly s t) (x : TreeRun) : treePlan t x = treePlan s x := by rw [h]; rfl
theorem PortsOnly.groupBad_eq (h : PortsOnly s t) (f : Frame) : groupBad t f = groupBad s f := by rw [h]; rfl
theorem PortsOnly.plainSrc (h : PortsOnly s t) {a n : Nat} (hs : PlainSrc s a n) : PlainSrc t a n := by rw [h]; exact hs

end

section
variable {s : State} {port : Nat} {f : Frame} {k : State → State}

/-- A good frame for this package comes to its target as it has arrived. -/
theorem routed_here (hgood : frameGood f = true) (hdst : f.dst = s.cfg.live.package) : routed s port f k = k (arrive s port f) := by
  have hpkg : (arrive s port f).cfg = s.cfg := by rw [portsOnly_arrive s port f]
  rw [routed, received, if_pos hgood, hpkg, if_neg (not_not_intro hdst)]

/-- One for another package travels on. -/
theorem routed_away (hgood : frameGood f = true) (hdst : f.dst ≠ s.cfg.live.package) :
    routed s port f k = forward (arrive s port f) port f := by
  have hpkg : (arrive s port f).cfg = s.cfg := by rw [portsOnly_arrive s port f]
  rw [routed, received, if_pos hgood, hpkg, if_pos hdst]

/-- A frame with none of its flow before it is taken at once (R359). -/
theorem inOrder_first (h : s.hz.held.any (fun x => sameFlow f x.2) = false) : inOrder port f k s = k s :=
  if_neg (ne_true_of_eq_false h)

end

/-- A command of one of the frames that travel by their destination. -/
abbrev RoutedFrame (c : Instr) (port : Fin 18) (f : Frame) : Prop :=
  (c = .write port f ∧ f.type = 1) ∨ (c = .acc port f ∧ f.type = 2) ∨ (c = .set port f ∧ f.type = 3) ∨ (c = .narrow port f ∧ f.type = 4) ∨
    (c = .triple port f ∧ f.type = 8) ∨ (c = .verdict port f ∧ f.type = 9) ∨ (c = .serve port f ∧ f.type = 10) ∨
    (c = .status port f ∧ f.type = 11)

section
variable {s : State} {port : Fin 18} {f : Frame} {c : Instr}

theorem retyped {ty : BitVec 8} (h : f.type = ty) : { f with type := ty } = f := by rw [← h]

theorem execAcc_eq (h : f.type = 0x02) : exec (.acc port f) s = .next (routed s port f (takeAcc port f)) := by
  show execAcc port f s = _
  rw [execAcc, retyped h]

theorem execSet_eq (h : f.type = 0x03) : exec (.set port f) s = .next (routed s port f (takeAcc port f)) := by
  show execSet port f s = _
  rw [execSet, retyped h]

theorem execNarrow_eq (h : f.type = 0x04) : exec (.narrow port f) s = .next (routed s port f (inOrder port f (takeNarrow port f))) := by
  show execNarrow port f s = _
  rw [execNarrow, retyped h]

theorem execTriple_eq (h : f.type = 0x08) : exec (.triple port f) s = .next (routed s port f (inOrder port f (takeTree port f))) := by
  show execTriple port f s = _
  rw [execTriple, retyped h]

theorem execVerdict_eq (h : f.type = 0x09) : exec (.verdict port f) s = .next (routed s port f (inOrder port f (takeTree port f))) := by
  show execVerdict port f s = _
  rw [execVerdict, retyped h]

theorem execServe_eq (h : f.type = 0x0A) : exec (.serve port f) s = .next (routed s port f (takeServe port f)) := by
  show execServe port f s = _
  rw [execServe, retyped h]

theorem execStatus_eq (h : f.type = 0x0B) : exec (.status port f) s = .next (routed s port f (takeStatus port f)) := by
  show execStatus port f s = _
  rw [execStatus, retyped h]

theorem exec_routedFrame (h : RoutedFrame c port f) : ∃ k, exec c s = .next (routed s port f k) := by
  rcases h with ⟨rfl, h⟩ | ⟨rfl, h⟩ | ⟨rfl, h⟩ | ⟨rfl, h⟩ | ⟨rfl, h⟩ | ⟨rfl, h⟩ | ⟨rfl, h⟩ | ⟨rfl, h⟩
  · exact ⟨_, execWrite_eq h⟩
  · exact ⟨_, execAcc_eq h⟩
  · exact ⟨_, execSet_eq h⟩
  · exact ⟨_, execNarrow_eq h⟩
  · exact ⟨_, execTriple_eq h⟩
  · exact ⟨_, execVerdict_eq h⟩
  · exact ⟨_, execServe_eq h⟩
  · exact ⟨_, execStatus_eq h⟩

/-- A frame for another package (R347, R349, R379). -/
theorem goes_away (h : RoutedFrame c port f) (hgood : frameGood f = true) (hdst : f.dst ≠ s.cfg.live.package) :
    Goes c s (forward (arrive s port f) port f) := by
  obtain ⟨k, hk⟩ := exec_routedFrame (s := s) h
  exact hk.trans (congrArg Host.Outcome.next (routed_away hgood hdst))

end

section
variable {s : State} {port : Nat} {f : Frame}

theorem forward_dropped (hd : s.hz.drop.dropped = true) (hp : planFrame f = true) : forward s port f = creditBack s port f := by
  simp [forward, hd, hp]

theorem forward_sent (hd : s.hz.drop.dropped = false ∨ planFrame f = false) (hc : canForward s f (some port) = true) :
    forward s port f = creditBack (sendRouted s f (some port)) port f := by
  rcases hd with h | h <;> simp [forward, h, hc]

theorem forward_waits (hd : s.hz.drop.dropped = false ∨ planFrame f = false) (hc : canForward s f (some port) = false) :
    forward s port f = holdFrame s port f := by
  rcases hd with h | h <;> simp [forward, h, hc]

end

/-! ### ACC and SET frames -/

section
variable {s : State} {port : Nat} {f : Frame} (hdrop : s.hz.drop.dropped = false) (hcmd : fCmd f = false) (hspid : spidOk s f = true)
include hdrop hcmd hspid

theorem takeAcc_refused {st : Status} (h : accRefusal s f.addr.toNat f = some st) : takeAcc port f s = refuseFrame s port f st := by
  simp [takeAcc, noPlans, hdrop, hcmd, hspid, h]

variable (hok : accRefusal s f.addr.toNat f = none)
include hok

theorem takeAcc_current (h : stepOf s f false = .current) : takeAcc port f s = joinTile s port f f.addr.toNat := by
  simp [takeAcc, noPlans, hdrop, hcmd, hspid, hok, h]

theorem takeAcc_ahead (h : stepOf s f false = .ahead) : takeAcc port f s = holdFrame s port f := by
  simp [takeAcc, noPlans, hdrop, hcmd, hspid, hok, h]

theorem takeAcc_stale (h : stepOf s f false = .stale) : takeAcc port f s = staleFrame s port f := by
  simp [takeAcc, noPlans, hdrop, hcmd, hspid, hok, h]

end

/-- A frame that joins a tile's tickets, or goes on as a stand-in's, writes nothing to memory. -/
theorem joinTile_mem (s : State) (port : Nat) (f : Frame) (a : Nat) : (joinTile s port f a).mem = s.mem := by
  unfold joinTile
  split
  · rfl
  · dsimp only
    split
    · rw [(portsOnly_creditBack _ port f).mem]
      split
      · cases planUse s _ with
        | none => rfl
        | some u => exact (portsOnly_sendPhase s _ _ _ _ _).mem
      · rfl
    · rfl

/-! ### NARROW frames -/

section
variable {s : State} {port : Nat} {f : Frame} (hdrop : s.hz.drop.dropped = false) (hcmd : fCmd f = false) (hspid : spidOk s f = true)
  (hok : narrowRefusal s f.addr.toNat f = none) (hstep : stepOf s f (fSpec f) = .current)
include hdrop hcmd hspid hok hstep

/-- A tile of a slot's gather that has not begun here waits (R407). -/
theorem takeNarrow_slotWaits {y : StepRun × Nat × SlotGather × CPlan × Nat}
    (hslot : (if fSpec f || fInactive f then none else slotOf s f.tenant f.plan.toNat f.addr.toNat f.payload.length) = some y)
    (hy : y.1.slots ≤ y.2.1) : takeNarrow port f s = holdFrame s port f := by
  simp only [takeNarrow, noPlans, hdrop, hspid, hcmd, hok, hstep, hslot, takeSlot, hy, if_true, Bool.not_true, Bool.false_eq_true, if_false]

/-- A tile of no slot is written into the copy that it selects, where its home takes the write (R367). -/
theorem takeNarrow_writes {x : GatherBuffer × Nat}
    (hslot : (if fSpec f || fInactive f then none else slotOf s f.tenant f.plan.toNat f.addr.toNat f.payload.length) = none)
    (hx : gatherAt s f.tenant f.addr.toNat f.payload.length = some x)
    (hheld : writeHeld s none (narrowTarget s f f.addr.toNat x) f.payload.length = false) (hrefetch : s.units.integ.refetch = []) :
    takeNarrow port f s =
      settle (creditBack (narrowTileDone (dWrite s (narrowTarget s f f.addr.toNat x) f.payload) f x.2) port f) := by
  have hwrite : writeNarrow s none f f.addr.toNat = .ok (dWrite s (narrowTarget s f f.addr.toNat x) f.payload) := by
    simp only [writeNarrow, hx, hheld, Bool.false_eq_true, if_false]
    rw [refetchLanded_none (by rw [dWrite_integ, hrefetch])]
  simp only [takeNarrow, noPlans, hdrop, hspid, hcmd, hok, hstep, hslot, hwrite, hx, Bool.not_true, Bool.false_eq_true, if_false,
    Option.elim_some]

end

/-! ### TRIPLE and VERDICT frames -/

theorem takeTree_here {s : State} {port : Nat} {f : Frame} {x : TreeRun} {cp : CPlan} (hdrop : s.hz.drop.dropped = false)
    (hspid : spidOk s f = true) (hx : treeOf s f = some x) (hcp : treePlan s x = some cp) :
    takeTree port f s = settle (creditBack (if f.type = 0x08 then treeUp s x cp f else treeDown s x cp f) port f) := by
  simp [takeTree, noPlans, hdrop, hspid, hx, hcp]

/-! ### SERVE frames -/

section
variable {s : State} {a n : Nat} (hsrc : PlainSrc s a n)
include hsrc

theorem gatherMap_plain {b : Nat} (hlo : a ≤ b) (hhi : b < a + n) : gatherMap s b = b := by
  obtain ⟨-, -, hgather, -⟩ := hsrc
  have hnone : (List.zipIdx s.cfg.live.dmap.gathers).find? (fun x => x.1.copy1.isSome && inRange b x.1.base x.1.bytes) = none := by
    refine List.find?_eq_none.2 fun x hx hin => ?_
    have hmeets := hgather x.1 (List.fst_mem_of_mem_zipIdx hx)
    simp only [inRange, Bool.and_eq_true, decide_eq_true_eq] at hin
    obtain ⟨hcopy, hbase, hend⟩ := hin
    simp only [hcopy, meets, Bool.true_and, Bool.and_eq_false_iff, decide_eq_false_iff_not] at hmeets
    omega
  unfold gatherMap
  rw [hnone]

/-- A range that meets no gather range is read in one piece. -/
theorem pieces_plain : pieces s a n = if n = 0 then [] else [(a, n)] := by
  obtain ⟨-, -, hgather, -⟩ := hsrc
  have hnone : (s.cfg.live.dmap.gathers.any fun g => g.copy1.isSome && meets a n g.base g.bytes) = false :=
    List.any_eq_false.2 fun g hg => ne_true_of_eq_false (hgather g hg)
  rw [pieces, hnone]
  rfl

theorem homeBytes_plain : homeBytes s a n = dRead s a n := by
  rw [homeBytes, pieces_plain hsrc]
  split
  · next h => subst h; rfl
  · simp

theorem detectPieces_plain : (pieces s a n).foldl (fun s x => detectRead s x.1 x.2) s = s := by
  rw [pieces_plain hsrc]
  obtain ⟨-, hclean, -⟩ := hsrc
  split
  · rfl
  · exact detectRead_clean s a n hclean

theorem piecesHeld_plain : piecesHeld s a n = false := by
  rw [piecesHeld, pieces_plain hsrc]
  obtain ⟨-, -, -, hheld, -⟩ := hsrc
  split <;> simp [hheld]

theorem piecesPoison_plain : piecesPoison s a n = false := by
  rw [piecesPoison, pieces_plain hsrc]
  obtain ⟨-, -, -, -, hpoison, -⟩ := hsrc
  split <;> simp [hpoison]

theorem piecesFresh_plain : piecesFresh s a n = 0 := by
  rw [piecesFresh, pieces_plain hsrc]
  obtain ⟨-, -, -, -, -, hfresh, -⟩ := hsrc
  split
  · rfl
  · have hnone := List.filter_eq_nil_iff.1 (List.length_eq_zero_iff.1 hfresh)
    refine List.length_eq_zero_iff.2 (List.filter_eq_nil_iff.2 fun g hg => hnone g ?_)
    simpa using hg

theorem poison_notMem_plain {b : Nat} (hlo : a ≤ b) (hhi : b < a + n) : s.mem.poison.contains (b / 64) = false := by
  obtain ⟨-, -, -, -, hpoison, -⟩ := hsrc
  have hblock : b / 64 ∈ blocksOf 64 a n := by
    rw [blocksOf, if_neg (by omega), rangeIncl, List.mem_range'_1]
    omega
  exact eq_false_of_ne_true (List.any_eq_false.1 hpoison _ hblock)

/-- No byte of a range without poison is replaced. -/
theorem zeroPoison_plain : zeroPoison s a (dRead s a n) = dRead s a n := by
  have hlen : (dRead s a n).length = n := by
    obtain ⟨hwf, -⟩ := hsrc
    rw [dRead, memRead_eq _ _ _ ((Memory.wf_iff _).1 hwf).1]
    simp
  unfold zeroPoison
  split
  · rfl
  · have hkeep : ∀ x ∈ (dRead s a n).zipIdx, (if s.mem.poison.contains (gatherMap s (a + x.2) / 64) then 0 else x.1) = x.1 := fun x hx => by
      have hx := List.snd_lt_of_mem_zipIdx hx
      rw [gatherMap_plain hsrc (by omega) (by omega), poison_notMem_plain hsrc (by omega) (by omega)]
      rfl
    rw [List.map_congr_left hkeep, List.zipIdx_map_fst]

end

/-- A SERVE of a range that can be read as it stands is answered with its bytes, and leaves all but the ports as it was (R354). -/
theorem takeServe_plain {s : State} {port : Nat} {f : Frame} (d : BitVec 512) (hd : BitVec.ofNat 512 (leNat (f.payload.take 64)) = d)
    (hspid : spidOk s f = true) (hgroup : groupBad s f = false) (hread : dReadable s f.tenant (dSrc d % 2 ^ 44) (serveLen d) = true)
    (hmap : dMapped s (dSrc d % 2 ^ 44) (serveLen d) = true) (hsrc : PlainSrc s (dSrc d % 2 ^ 44) (serveLen d)) :
    takeServe port f s = settle (creditBack
      ((serveFrames s f d (dRead s (dSrc d % 2 ^ 44) (serveLen d))).foldl (fun s g => sendRouted s g none) s) port f) := by
  subst hd
  have hoffsets : poisonOffsets s (dSrc (BitVec.ofNat 512 (leNat (f.payload.take 64))) % 2 ^ 44)
      (serveLen (BitVec.ofNat 512 (leNat (f.payload.take 64)))) = [] := if_neg (ne_true_of_eq_false (piecesPoison_plain hsrc))
  simp only [takeServe, hspid, hgroup, hread, hmap, detectPieces_plain hsrc, piecesHeld_plain hsrc, piecesFresh_plain hsrc, hoffsets,
    homeBytes_plain hsrc, zeroPoison_plain hsrc, countUninit, Bool.not_true, Bool.or_self, Bool.false_eq_true, if_false, if_true,
    List.foldl_nil, Nat.lt_irrefl, decide_false, Bool.and_false, Bool.false_and]

/-! ### STATUS frames -/

/-- What a STATUS frame makes of the operation whose stream it names (R350, R354). -/
def toldOp (s : State) (f : Frame) (x : Op) : Op :=
  { x with
    status := if x.status = stOk then BitVec.ofNat 16 (payAt f.payload 0 2) else x.status
    spoiled := if BitVec.ofNat 16 (payAt f.payload 0 2) = stPoison then
      x.spoiled ++ [f.addr.toNat - serveBase x.desc s.cfg.live.package] else x.spoiled
    signalled := x.signalled && payAt f.payload 2 1 % 2 = 0
    pull := if x.pull && !(BitVec.ofNat 16 (payAt f.payload 0 2) = stUnwritten || BitVec.ofNat 16 (payAt f.payload 0 2) = stPoison) then false
      else x.pull }

theorem takeStatus_told {s : State} {port : Nat} {f : Frame} {o : Op}
    (h : s.fe.ops.find? (fun o => o.phase = .running && o.started && sendsFrames o && o.stream = f.stream.toNat) = some o) :
    takeStatus port f s = creditBack (updOp s o.handle (toldOp s f)) port f := by
  simp only [takeStatus, h]
  rfl

/-- The operation of a handle is changed in its place. -/
theorem findOp_updOp {s : State} {h : Word} {x : Op} (hx : findOp s h = some x) {g : Op → Op}
    (hg : ∀ y, (g y).handle = y.handle ∧ (g y).phase = y.phase) : findOp (updOp s h g) h = some (g x) := by
  have hsame : (fun o : Op => decide (o.handle = h) && decide (o.phase ≠ .retired)) ∘ changeAt h g =
      fun o : Op => decide (o.handle = h) && decide (o.phase ≠ .retired) := by
    funext y
    obtain ⟨hh, hp⟩ := hg y
    simp only [Function.comp, changeAt]
    split
    · rw [hh, hp]
    · rfl
  have hat : changeAt h g x = g x := if_pos (by simpa using List.find?_some hx)
  rw [findOp, updOp_ops, List.find?_map, hsame]
  rw [findOp] at hx
  rw [hx, Option.map_some, hat]

/-! ### A held frame that is looked at again -/

theorem releaseHeld_behind {s : State} {i port : Nat} {f : Frame} (h : s.hz.held[i]? = some (port, f))
    (hb : (s.hz.held.take i).any (fun x => sameFlow f x.2) = true) : releaseHeld i s = s := by
  unfold releaseHeld
  rw [h]
  exact if_pos hb

theorem releaseHeld_looked {s : State} {i port : Nat} {f : Frame} (h : s.hz.held[i]? = some (port, f))
    (hb : (s.hz.held.take i).any (fun x => sameFlow f x.2) = false) :
    releaseHeld i s = keepPlace i s.hz.held.length (port, f) (takeHeld port f { s with hz := { s.hz with held := s.hz.held.eraseIdx i } }) := by
  unfold releaseHeld
  rw [h]
  exact if_neg (ne_true_of_eq_false hb)

/-- A list that has grown by one element, and ends with `x`, has grown by `x`. -/
theorem eq_append_singleton {α : Type} {l k : List α} {x : α} (hpre : l <+: k) (hlen : k.length = l.length + 1) (hlast : k.getLast? = some x) :
    k = l ++ [x] := by
  obtain ⟨r, rfl⟩ := hpre
  obtain ⟨y, rfl⟩ : ∃ y, r = [y] := List.length_eq_one_iff.1 (by simpa using hlen)
  simpa using hlast

/-- A frame that is held again keeps its place (R352, R359). -/
theorem keepPlace_cases {i n : Nat} {x : Nat × Frame} {v : State} {l : List (Nat × Frame)} (hl : l.length + 1 = n) (hv : l <+: v.hz.held) :
    keepPlace i n x v = v ∨
    (v.hz.held = l ++ [x] ∧ keepPlace i n x v = { v with hz := { v.hz with held := l.insertIdx i x } }) := by
  unfold keepPlace
  split
  · next h =>
    simp only [Bool.and_eq_true, decide_eq_true_eq] at h
    have hheld := eq_append_singleton hv (h.1.trans hl.symm) h.2
    exact .inr ⟨hheld, by rw [hheld, List.dropLast_concat]⟩
  · exact .inl rfl

/-- Settles O46: each type by what its taking comes to for a frame that has arrived, and a held frame by what its taking leaves of the others
that are held. -/
theorem framesAtTheirTarget : Obligations.FramesAtTheirTarget := by
  unfold Obligations.FramesAtTheirTarget
  refine ⟨fun s port f c hc hgood hdst hdrop hcmd hspid => ?_, fun s port f x hty hgood hdst hflow hdrop hcmd hspid hstep hx hok => ?_,
    fun s port f x cp hgood hdst hflow hdrop hspid hx hcp => ?_, fun s port f hty hgood hdst hspid hgroup => ?_,
    fun s port f o hty hgood hdst ho => ?_, fun s port f c hgood hdst hc => ?_, fun s i port f hi => ⟨fun hb => ?_, fun hb => ?_⟩⟩
  · intro t
    have hp : PortsOnly s t := portsOnly_arrive s port f
    have hgo : Goes c s (takeAcc port f t) := by
      rcases hc with ⟨rfl, hty⟩ | ⟨rfl, hty⟩
      · exact (execAcc_eq hty).trans (congrArg Host.Outcome.next (routed_here hgood hdst))
      · exact (execSet_eq hty).trans (congrArg Host.Outcome.next (routed_here hgood hdst))
    clear_value t
    rw [← hp.drop] at hdrop
    rw [← hp.spidOk_eq] at hspid
    simp only [← hp.accRefusal_eq, ← hp.stepOf_eq]
    refine ⟨fun st h => ?_, fun hok => ⟨fun h => ⟨?_, ?_⟩, fun h => ?_, fun h => ?_⟩⟩
    · rwa [takeAcc_refused hdrop hcmd hspid h] at hgo
    · rwa [takeAcc_current hdrop hcmd hspid hok h] at hgo
    · rw [joinTile_mem, hp.mem]
    · rwa [takeAcc_ahead hdrop hcmd hspid hok h] at hgo
    · rwa [takeAcc_stale hdrop hcmd hspid hok h] at hgo
  · have hp : PortsOnly s (arrive s port f) := portsOnly_arrive s port f
    have hgo : Goes (.narrow port f) s (takeNarrow port f (arrive s port f)) := by
      refine (execNarrow_eq hty).trans (congrArg Host.Outcome.next ((routed_here hgood hdst).trans (inOrder_first ?_)))
      rwa [hp.held]
    generalize arrive s port f = t at hp hgo
    intro b slot
    have hdrop' : t.hz.drop.dropped = false := by rw [hp.drop, hdrop]
    rw [← hp.spidOk_eq] at hspid
    rw [← hp.narrowRefusal_eq] at hok
    rw [← hp.stepOf_eq] at hstep
    have hslot : slot = if fSpec f || fInactive f then none else slotOf t f.tenant f.plan.toNat f.addr.toNat f.payload.length := by
      rw [hp.slotOf_eq]
    refine ⟨fun y hy hw => ?_, fun hnone hheld hclean hpoison hrefetch => ?_⟩
    · rwa [takeNarrow_slotWaits hdrop' hcmd hspid hok hstep (hslot.symm.trans hy) hw] at hgo
    · have hb : narrowTarget t f f.addr.toNat x = b := by rw [hp]; rfl
      have hi : Intact t := hp.intact ⟨hclean, hpoison, hrefetch⟩
      rw [takeNarrow_writes hdrop' hcmd hspid hok hstep (hslot.symm.trans hnone) ((hp.gatherAt_eq _ _ _).trans hx)
        (by rw [hb, hp.writeHeld_eq, hheld]) hi.2.2, hb] at hgo
      obtain ⟨-, -, -, -, hsyncs, hcfg, hst, -⟩ := dWrite_rest t b f.payload
      have hlaid := dWrite_laid t b f.payload hi.1 (poisonCut_intact hi _ _)
      rw [hp.mem] at hlaid
      refine ⟨_, hgo, hlaid, ?_, ?_, ?_⟩
      · rw [hsyncs, hp]
      · rw [hcfg, hp]
      · rw [hst, hp]
  · intro t
    have hp : PortsOnly s t := portsOnly_arrive s port f
    have htake : takeTree port f t = settle (creditBack (if f.type = 0x08 then treeUp t x cp f else treeDown t x cp f) port f) :=
      takeTree_here (by rw [hp.drop, hdrop]) (by rw [hp.spidOk_eq, hspid]) ((hp.treeOf_eq f).trans hx) ((hp.treePlan_eq x).trans hcp)
    have hfirst : inOrder port f (takeTree port f) t = takeTree port f t := inOrder_first (by rwa [hp.held])
    refine ⟨fun hty => ?_, fun hty => ?_⟩
    · refine (execTriple_eq hty).trans (congrArg Host.Outcome.next ((routed_here hgood hdst).trans (hfirst.trans (htake.trans ?_))))
      rw [if_pos hty]
    · refine (execVerdict_eq hty).trans (congrArg Host.Outcome.next ((routed_here hgood hdst).trans (hfirst.trans (htake.trans ?_))))
      rw [if_neg (by rw [hty]; decide)]
  · intro d a hread hmap hsrc t u
    have hp : PortsOnly s t := portsOnly_arrive s port f
    have hu : PortsOnly t u := .foldl _ (fun s g => portsOnly_sendRouted s g none) _ _
    refine ⟨(execServe_eq hty).trans (congrArg Host.Outcome.next ((routed_here hgood hdst).trans ?_)), hu.mem.trans hp.mem⟩
    have htake := takeServe_plain (s := t) (port := port) (f := f) d rfl (by rw [hp.spidOk_eq, hspid]) (by rw [hp.groupBad_eq, hgroup])
      (by rw [hp]; exact hread) (by rw [hp]; exact hmap) (hp.plainSrc hsrc)
    rw [show dRead t (dSrc d % 2 ^ 44) (serveLen d) = dRead s a (serveLen d) by rw [dRead, dRead, hp.mem]] at htake
    exact htake
  · have hp : PortsOnly s (arrive s port f) := portsOnly_arrive s port f
    have hfe : (arrive s port f).fe = s.fe := by rw [hp]
    refine ⟨updOp (arrive s port f) o.handle (toldOp (arrive s port f) f), ?_, hp.mem, ?_, fun x hx => ?_⟩
    · refine (execStatus_eq hty).trans (congrArg Host.Outcome.next ((routed_here hgood hdst).trans (takeStatus_told ?_)))
      rw [hfe, ho]
    · show (arrive s port f).syncs = s.syncs
      rw [hp]
    · have hx' : findOp (arrive s port f) o.handle = some x := by rw [findOp, hfe]; exact hx
      exact ⟨_, findOp_updOp hx' fun _ => ⟨rfl, rfl⟩, rfl⟩
  · intro t
    have hdrop : t.hz.drop = s.hz.drop := (portsOnly_arrive s port f).drop
    have hgo : Goes c s (forward t port f) := goes_away hc hgood hdst
    rw [← hdrop]
    refine ⟨fun hd hplan => ?_, fun hd => ⟨fun hcan => ?_, fun hcan => ?_⟩⟩
    · rwa [forward_dropped hd hplan] at hgo
    · rwa [forward_sent hd hcan] at hgo
    · rwa [forward_waits hd hcan] at hgo
  · exact congrArg Host.Outcome.next (releaseHeld_behind hi hb)
  · refine ⟨_, congrArg Host.Outcome.next (releaseHeld_looked hi hb), ?_⟩
    intro w v
    have hlt : i < s.hz.held.length := (List.getElem?_eq_some_iff.1 hi).1
    have hv : takeHeld port f w = v := by
      show (if f.dst ≠ s.cfg.live.package then _ else _) = if f.dst = s.cfg.live.package then _ else _
      rw [ite_not]
    have hkept : s.hz.held.eraseIdx i <+: v.hz.held := hv ▸ takeHeld_keeps (s := w) (List.prefix_refl _)
    have hlen : (s.hz.held.eraseIdx i).length + 1 = s.hz.held.length := by
      rw [List.length_eraseIdx_of_lt hlt]; omega
    rw [hv]
    exact keepPlace_cases hlen hkept

end Sys2Proof.Machine
end

section
/-! PROOFS. A RECOVER frame on its way to another package: why the statement on ports and dropouts fails (R347, R349). -/

namespace Sys2Proof.Machine

/-- The plan of a recovery tree in which this package takes part in no phase. -/
def roundPlan : CPlan := ⟨3, 0, false, 0, 0, 0, 0, [], []⟩

/-- The recovery tree of this package. -/
def roundTree : TreeRun := ⟨.recovery, 0, 0, 0, 0, 0, treeZero, [], [], false, []⟩

/-- Package 0 of a ring of two, whose port 0 is down, takes part in the recovery round for package 1. -/
def roundHere : State :=
  { State.reset with
    cfg := { cfgReset with live := { bootPlane with
      system := ⟨[(2, 0)], [some 0], 0, false⟩, cplans := [(0, roundPlan)], fallback := [⟨1, [], some 0⟩] } }
    hz := { fabricReset with drop := { dropReset with pending := some 1 } }
    step := { stepReset with trees := [roundTree] } }

/-- A RECOVER frame of package 0 to package 1. -/
def passingRecover : Frame := sealFrame (frameBlank roundHere 0x0D 1)

theorem frameGood_passingRecover : frameGood passingRecover = true := frameGood_sealFrame _ (by decide)

/-- The port on its way is down: the frame waits in its receiving buffer. -/
theorem recover_waits :
    Goes (.recover 0 passingRecover) roundHere (holdFrame (arrive roundHere 0 passingRecover) 0 passingRecover) := by
  have haway : passingRecover.dst ≠ roundHere.cfg.live.package := by
    show (1 : BitVec 13) ≠ 0
    decide
  exact congrArg Host.Outcome.next ((routed_away frameGood_passingRecover haway).trans (forward_waits (.inl rfl) rfl))

/-- A tree whose plan has no phase takes nothing from a RECOVER frame that has come to its target. -/
theorem treeUp_roundPlan (s : State) (t : TreeRun) (f : Frame) : treeUp s t roundPlan f = s := rfl

/-- Refutes O47: its clause on RECOVER does not ask that the frame be for this package. `passingRecover` is for package 1, and package 0, on whose
way the next port is down, keeps it in its receiving buffer (R347, R349); the statement has it taken for the recovery tree of package 0, after
which no frame is held. -/
theorem not_portsAndDropouts : ¬ Obligations.PortsAndDropouts := by
  unfold Obligations.PortsAndDropouts
  intro h
  obtain ⟨-, -, -, -, -, -, -, -, -, hrecover, -⟩ := h
  have htaken := hrecover roundHere 0 passingRecover roundTree roundPlan rfl frameGood_passingRecover rfl rfl
  have hstate := Host.Outcome.next.inj (recover_waits.symm.trans htaken)
  have hup : fromParent roundPlan passingRecover.src = false := rfl
  rw [hup] at hstate
  have hheld : [(0, passingRecover)] = (arrive roundHere 0 passingRecover).hz.held := calc
    _ = (holdFrame (arrive roundHere 0 passingRecover) 0 passingRecover).hz.held := by
      rw [holdFrame, (portsOnly_arrive roundHere 0 passingRecover).held]; rfl
    _ = _ := congrArg (fun t => t.hz.held) hstate
    _ = (creditBack (arrive roundHere 0 passingRecover) 0 passingRecover).hz.held := congrArg Fabric.held (onlyOps_settle _).hz
    _ = _ := (portsOnly_creditBack _ _ _).held
  rw [(portsOnly_arrive roundHere 0 passingRecover).held] at hheld
  exact absurd hheld (List.cons_ne_nil _ _)

end Sys2Proof.Machine
end

section
/-! PROOFS. The code of a stored sector: sums and products in GF(2^8), the remainder as check bytes, and the correction of one symbol
(SPEC.md, section 10; R425, R426, R550). -/

namespace Sys2Proof.Machine

/-! ### Sums and products in GF(2^8) -/

theorem byte_xor_left_comm (a b c : Byte) : a ^^^ (b ^^^ c) = b ^^^ (a ^^^ c) := by ac_rfl

/-- The sum of two sums, term by term. -/
theorem byte_xor_xor_xor_comm (a b c d : Byte) : (a ^^^ b) ^^^ (c ^^^ d) = (a ^^^ c) ^^^ (b ^^^ d) := by ac_rfl

theorem gfDouble_xor (a b : Byte) : gfDouble (a ^^^ b) = gfDouble a ^^^ gfDouble b := by
  unfold gfDouble
  rw [BitVec.msb_xor, BitVec.shiftLeft_xor_distrib]
  cases a.msb <;> cases b.msb <;> simp [BitVec.xor_assoc, BitVec.xor_comm, byte_xor_left_comm]

@[simp] theorem gfDouble_zero : gfDouble 0#8 = 0#8 := rfl

@[simp] theorem iterate_gfDouble_zero (n : Nat) : gfDouble^[n] 0#8 = 0#8 := Function.iterate_fixed gfDouble_zero n

theorem iterate_gfDouble_xor (n : Nat) (a b : Byte) : gfDouble^[n] (a ^^^ b) = gfDouble^[n] a ^^^ gfDouble^[n] b :=
  Function.Semiconj₂.iterate (op := (· ^^^ ·)) gfDouble_xor n a b

theorem gfAlpha_eq (n : Nat) : gfAlpha n = gfDouble^[n] 1 := by
  induction n with
  | zero => rfl
  | succ n ih => rw [Function.iterate_succ_apply', gfAlpha, ih]

/-- The model's fold over the bits of the second factor, for a sum of second factors. -/
theorem gfMul_fold_xor (a b c : Byte) (l : List Nat) (x y : Byte) :
    l.foldl (fun acc i => gfDouble acc ^^^ (if (b ^^^ c).getLsbD (7 - i) then a else 0)) (x ^^^ y) =
      l.foldl (fun acc i => gfDouble acc ^^^ (if b.getLsbD (7 - i) then a else 0)) x ^^^
      l.foldl (fun acc i => gfDouble acc ^^^ (if c.getLsbD (7 - i) then a else 0)) y := by
  induction l generalizing x y with
  | nil => rfl
  | cons i l ih =>
    have hbit : (if (b ^^^ c).getLsbD (7 - i) then a else 0) =
        (if b.getLsbD (7 - i) then a else 0) ^^^ (if c.getLsbD (7 - i) then a else 0) := by
      rw [BitVec.getLsbD_xor]
      cases b.getLsbD (7 - i) <;> cases c.getLsbD (7 - i) <;> simp
    rw [List.foldl_cons, List.foldl_cons, List.foldl_cons, hbit, gfDouble_xor, byte_xor_xor_xor_comm, ih]

theorem gfMul_xor (a b c : Byte) : gfMul a (b ^^^ c) = gfMul a b ^^^ gfMul a c := gfMul_fold_xor a b c (List.range 8) 0 0

@[simp] theorem gfMul_zero (a : Byte) : gfMul a 0#8 = 0#8 := by
  have h := gfMul_xor a 0#8 0#8
  rwa [BitVec.xor_self, BitVec.xor_self] at h

/-- A product by a power of 2 below x^8. -/
theorem gfMul_twoPow (a : Byte) {k : Nat} (hk : k < 8) : gfMul a (BitVec.twoPow 8 k) = gfDouble^[k] a := by
  interval_cases k <;> simp [gfMul, List.range_succ, BitVec.getLsbD_twoPow]

/-- The model's fold over the bits of the second factor goes with the doubling of the first. -/
theorem gfDouble_gfMul (a b : Byte) : gfMul (gfDouble a) b = gfDouble (gfMul a b) := by
  refine List.foldl_hom gfDouble (g₁ := fun acc i => gfDouble acc ^^^ (if b.getLsbD (7 - i) then a else 0))
    (g₂ := fun acc i => gfDouble acc ^^^ (if b.getLsbD (7 - i) then gfDouble a else 0)) (init := 0) fun acc i => ?_
  rw [gfDouble_xor]
  split <;> simp

theorem iterate_gfDouble_gfMul (n : Nat) (a b : Byte) : gfMul (gfDouble^[n] a) b = gfDouble^[n] (gfMul a b) :=
  Function.Semiconj.iterate_right (f := (gfMul · b)) (fun a => gfDouble_gfMul a b) n a

/-- A statement about bytes that holds of 0, of each power of 2 and of every sum of bytes of which it holds, holds of every byte. -/
theorem byte_induction {P : Byte → Prop} (zero : P 0#8) (pow : ∀ k < 8, P (BitVec.twoPow 8 k)) (add : ∀ a b, P a → P b → P (a ^^^ b))
    (b : Byte) : P b := by
  have hsum : (List.range 8).foldl (fun acc k => acc ^^^ (b &&& BitVec.twoPow 8 k)) 0#8 = b := by
    refine BitVec.eq_of_getLsbD_eq fun i hi => ?_
    interval_cases i <;> simp [List.range_succ]
  rw [← hsum]
  refine List.foldlRecOn _ _ zero fun x hx k hk => add x _ hx ?_
  rw [BitVec.and_twoPow]
  split
  · exact pow k (List.mem_range.1 hk)
  · exact zero

theorem gfMul_one (b : Byte) : gfMul b 1#8 = b := gfMul_twoPow b (k := 0) (by decide)

theorem twoPow_eq {k : Nat} (hk : k < 8) : BitVec.twoPow 8 k = gfDouble^[k] 1#8 := by
  interval_cases k <;> simp [gfDouble, BitVec.twoPow, BitVec.msb]

theorem one_gfMul (b : Byte) : gfMul 1#8 b = b := by
  induction b using byte_induction with
  | zero => exact gfMul_zero _
  | pow k hk => rw [gfMul_twoPow _ hk, twoPow_eq hk]
  | add b c hb hc => rw [gfMul_xor, hb, hc]

theorem xor_gfMul (a b c : Byte) : gfMul (a ^^^ b) c = gfMul a c ^^^ gfMul b c := by
  induction c using byte_induction with
  | zero => simp
  | pow k hk => rw [gfMul_twoPow _ hk, gfMul_twoPow _ hk, gfMul_twoPow _ hk, iterate_gfDouble_xor]
  | add c d hc hd => rw [gfMul_xor, gfMul_xor, gfMul_xor, hc, hd, byte_xor_xor_xor_comm]

theorem zero_gfMul (b : Byte) : gfMul 0#8 b = 0#8 := by
  have h := xor_gfMul 0#8 0#8 b
  rwa [BitVec.xor_self, BitVec.xor_self] at h

theorem gfMul_comm (a b : Byte) : gfMul a b = gfMul b a := by
  induction a using byte_induction with
  | zero => rw [gfMul_zero, zero_gfMul]
  | pow k hk => rw [gfMul_twoPow b hk, twoPow_eq hk, iterate_gfDouble_gfMul, one_gfMul]
  | add a c ha hc => rw [xor_gfMul, gfMul_xor, ha, hc]

theorem gfMul_assoc (a b c : Byte) : gfMul (gfMul a b) c = gfMul a (gfMul b c) := by
  induction a using byte_induction with
  | zero => rw [zero_gfMul, zero_gfMul, zero_gfMul]
  | pow k hk => rw [twoPow_eq hk, iterate_gfDouble_gfMul, iterate_gfDouble_gfMul, iterate_gfDouble_gfMul, one_gfMul, one_gfMul]
  | add a d ha hd => rw [xor_gfMul, xor_gfMul, xor_gfMul, ha, hd]

theorem gfMul_iterate_gfDouble (n : Nat) (a b : Byte) : gfMul a (gfDouble^[n] b) = gfDouble^[n] (gfMul a b) := by
  rw [gfMul_comm, iterate_gfDouble_gfMul, gfMul_comm]

/-- A product by α^n is n products by α. -/
theorem gfMul_gfAlpha (a : Byte) (n : Nat) : gfMul a (gfAlpha n) = gfDouble^[n] a := by
  rw [gfAlpha_eq, gfMul_iterate_gfDouble]
  exact congrArg _ (gfMul_one a)

/-! ### The order of α -/

theorem gfAlpha_add (m n : Nat) : gfAlpha (m + n) = gfMul (gfAlpha m) (gfAlpha n) := by
  rw [gfMul_gfAlpha, gfAlpha_eq, gfAlpha_eq, ← Function.iterate_add_apply, Nat.add_comm]

theorem gfAlpha_fifteen : gfAlpha 15 = 0x26#8 := by
  have h8 : gfAlpha 8 = 0x1D#8 := by decide
  have h7 : gfAlpha 7 = 0x80#8 := by decide
  show gfAlpha (8 + 7) = 0x26#8
  rw [gfAlpha_add, h8, h7]
  decide

theorem gfAlpha_seventeen : gfAlpha 17 = 0x98#8 := by
  rw [gfAlpha, gfAlpha, gfAlpha_fifteen]
  decide

/-- α^255 is 1. -/
theorem gfAlpha_order : gfAlpha 255 = 1#8 := by
  have hdouble {n : Nat} {x : Byte} (y : Byte) (h : gfAlpha n = x) (hy : gfMul x x = y) : gfAlpha (n + n) = y := by rw [gfAlpha_add, h, hy]
  have h30 := hdouble 0x60#8 gfAlpha_fifteen (by decide)
  have h60 := hdouble 0xB9#8 h30 (by decide)
  have h120 := hdouble 0x3B#8 h60 (by decide)
  have h240 := hdouble 0x2C#8 h120 (by decide)
  show gfAlpha (240 + 15) = 1#8
  rw [gfAlpha_add, h240, gfAlpha_fifteen]
  decide

theorem isPeriodicPt_gfDouble (v : Byte) : Function.IsPeriodicPt gfDouble 255 v := by
  show gfDouble^[255] v = v
  rw [← gfMul_gfAlpha, gfAlpha_order, gfMul_one]

/-- Where α^n differs from 1 by a byte that has an inverse, n is no period of a byte but 0. -/
theorem not_isPeriodicPt_gfDouble {v y : Byte} (hv : v ≠ 0) {n : Nat} (h : gfMul (gfAlpha n ^^^ 1#8) y = 1#8) :
    ¬ Function.IsPeriodicPt gfDouble n v := by
  intro hfix
  have hzero : gfMul v (gfAlpha n ^^^ 1#8) = 0#8 := by rw [gfMul_xor, gfMul_gfAlpha, hfix.eq, gfMul_one, BitVec.xor_self]
  have hinv := gfMul_assoc v (gfAlpha n ^^^ 1#8) y
  rw [h, hzero, zero_gfMul, gfMul_one] at hinv
  exact hv hinv.symm

/-- The least period of a byte but 0 divides 255, and as α^15 and α^17 are not 1 it is 51, 85 or 255. -/
theorem le_minimalPeriod_gfDouble {v : Byte} (hv : v ≠ 0) : 36 ≤ Function.minimalPeriod gfDouble v := by
  have hfifteen := not_isPeriodicPt_gfDouble hv (n := 15) (y := 0x8A) (by rw [gfAlpha_fifteen]; decide)
  have hseventeen := not_isPeriodicPt_gfDouble hv (n := 17) (y := 0xDC) (by rw [gfAlpha_seventeen]; decide)
  rw [Function.isPeriodicPt_iff_minimalPeriod_dvd] at hfifteen hseventeen
  have hsmall : ∀ d < 36, d ∣ 255 → d ∣ 15 ∨ d ∣ 17 := by decide
  by_contra! hlt
  exact (hsmall _ hlt (isPeriodicPt_gfDouble v).minimalPeriod_dvd).elim hfifteen hseventeen

/-- A byte but 0 has different products by different powers of α below 36. -/
theorem iterate_gfDouble_inj {v : Byte} (hv : v ≠ 0) {m n : Nat} (hm : m < 36) (hn : n < 36) (h : gfDouble^[m] v = gfDouble^[n] v) :
    m = n :=
  (Function.iterate_eq_iterate_iff_of_lt_minimalPeriod (hm.trans_le (le_minimalPeriod_gfDouble hv))
    (hn.trans_le (le_minimalPeriod_gfDouble hv))).1 h

/-! ### Syndromes -/

/-- The syndrome of symbols that follow symbols of a syndrome `acc`. -/
def syndromeFrom (i : Nat) (acc : Byte) (w : List Byte) : Byte := w.foldl (fun acc d => gfDouble^[i] acc ^^^ d) acc

theorem rsSyndrome_eq (w : List Byte) (i : Nat) : rsSyndrome w i = syndromeFrom i 0 w := by
  simp only [rsSyndrome, syndromeFrom, gfMul_gfAlpha]

theorem syndromeFrom_append (i : Nat) (acc : Byte) (u w : List Byte) :
    syndromeFrom i acc (u ++ w) = syndromeFrom i (syndromeFrom i acc u) w := List.foldl_append

/-- What is added before `n` symbols counts as a product by α^(i n) after them. -/
theorem syndromeFrom_xor (i : Nat) (acc v : Byte) (w : List Byte) :
    syndromeFrom i (acc ^^^ v) w = syndromeFrom i acc w ^^^ gfDouble^[i * w.length] v := by
  induction w generalizing acc v with
  | nil => rfl
  | cons d w ih =>
    have hstep : gfDouble^[i] (acc ^^^ v) ^^^ d = (gfDouble^[i] acc ^^^ d) ^^^ gfDouble^[i] v := by
      rw [iterate_gfDouble_xor, BitVec.xor_assoc, BitVec.xor_comm _ d, ← BitVec.xor_assoc]
    show syndromeFrom i (gfDouble^[i] (acc ^^^ v) ^^^ d) w = syndromeFrom i (gfDouble^[i] acc ^^^ d) w ^^^ _
    rw [hstep, ih, ← Function.iterate_add_apply, List.length_cons, Nat.mul_succ]

/-! ### Check bytes (R425) -/

/-- The remainder after one more symbol. -/
theorem rsDivide_eq (r₃ r₂ r₁ r₀ d : Byte) : rsDivide [r₃, r₂, r₁, r₀] d =
    [r₂ ^^^ gfMul (d ^^^ r₃) 15, r₁ ^^^ gfMul (d ^^^ r₃) 54, r₀ ^^^ gfMul (d ^^^ r₃) 120, gfMul (d ^^^ r₃) 64] := by
  have hgen : rsGenerator = [1, 15, 54, 120, 64] := by decide
  simp [rsDivide, hgen]

theorem exists_rsCheck (data : List Byte) : ∃ r₃ r₂ r₁ r₀, rsCheck data = [r₃, r₂, r₁, r₀] :=
  List.foldlRecOn (motive := fun r => ∃ r₃ r₂ r₁ r₀, r = [r₃, r₂, r₁, r₀]) data rsDivide ⟨0, 0, 0, 0, rfl⟩ fun r hr d _ => by
    obtain ⟨r₃, r₂, r₁, r₀, rfl⟩ := hr
    exact ⟨_, _, _, _, rsDivide_eq r₃ r₂ r₁ r₀ d⟩

@[simp] theorem length_rsCheck (data : List Byte) : (rsCheck data).length = 4 := by
  obtain ⟨r₃, r₂, r₁, r₀, h⟩ := exists_rsCheck data
  rw [h]
  rfl

/-- α^i is a root of the generator polynomial, i below 4: its power x^4 is the sum of the lower terms. -/
theorem generator_root {i : Nat} (hi : i < 4) (f : Byte) :
    gfDouble^[i] (gfDouble^[i] (gfDouble^[i] (gfMul f 15) ^^^ gfMul f 54) ^^^ gfMul f 120) ^^^ gfMul f 64 = (gfDouble^[i])^[4] f := by
  have hroot : ∀ i < 4, gfDouble^[i] (gfDouble^[i] (gfDouble^[i] 15 ^^^ 54) ^^^ 120) ^^^ 64 = gfAlpha (i * 4) := by decide
  rw [← Function.iterate_mul, ← gfMul_gfAlpha f (i * 4), ← hroot i hi]
  simp only [gfMul_xor, gfMul_iterate_gfDouble]

/-- One step of the division, at a root of the generator: what the generator adds (`a` to `e`) is the value at x^4 of what goes out. -/
theorem divide_step {P : Byte → Byte} (hadd : ∀ x y, P (x ^^^ y) = P x ^^^ P y) {a b c e d r₃ : Byte} (r₂ r₁ r₀ : Byte)
    (hroot : P (P (P a ^^^ b) ^^^ c) ^^^ e = P (P (P (P (d ^^^ r₃))))) :
    P (P (P (r₂ ^^^ a) ^^^ (r₁ ^^^ b)) ^^^ (r₀ ^^^ c)) ^^^ e = P (P (P (P r₃ ^^^ r₂) ^^^ r₁) ^^^ r₀) ^^^ P (P (P (P d))) := by
  simp only [hadd] at hroot ⊢
  calc _ = (P (P (P a)) ^^^ P (P b) ^^^ P c ^^^ e) ^^^ (P (P (P r₂)) ^^^ P (P r₁) ^^^ P r₀) := by ac_rfl
    _ = _ := by rw [hroot]; ac_rfl

/-- The remainder has the value that the data, times x^4, has at each root of the generator. -/
theorem syndromeFrom_rsCheck {i : Nat} (hi : i < 4) (data : List Byte) :
    syndromeFrom i 0#8 (rsCheck data) = (gfDouble^[i])^[4] (syndromeFrom i 0#8 data) := by
  have hvalue : ∀ a b c d, syndromeFrom i 0#8 [a, b, c, d] = gfDouble^[i] (gfDouble^[i] (gfDouble^[i] a ^^^ b) ^^^ c) ^^^ d := fun _ _ _ _ => by
    simp [syndromeFrom]
  induction data using List.reverseRecOn with
  | nil => simp [syndromeFrom, rsCheck]
  | append_singleton data d ih =>
    obtain ⟨r₃, r₂, r₁, r₀, h⟩ := exists_rsCheck data
    have hnext : rsCheck (data ++ [d]) = rsDivide [r₃, r₂, r₁, r₀] d := by rw [← h, rsCheck, List.foldl_concat, ← rsCheck]
    rw [h, hvalue] at ih
    calc
      _ = gfDouble^[i] (gfDouble^[i] (gfDouble^[i] (gfDouble^[i] r₃ ^^^ r₂) ^^^ r₁) ^^^ r₀) ^^^ (gfDouble^[i])^[4] d := by
        rw [hnext, rsDivide_eq, hvalue]
        exact divide_step (iterate_gfDouble_xor i) r₂ r₁ r₀ (generator_root hi (d ^^^ r₃))
      _ = _ := by
        rw [ih, syndromeFrom_append, ← Function.iterate_succ_apply' (gfDouble^[i]), Function.iterate_succ_apply]
        simp only [← Function.iterate_mul, ← iterate_gfDouble_xor]
        rfl

/-- All-zero data has all-zero check bytes. -/
theorem rsCheck_zero (n : Nat) : rsCheck (List.replicate n 0#8) = [0#8, 0#8, 0#8, 0#8] :=
  List.foldlRecOn (motive := (· = [0#8, 0#8, 0#8, 0#8])) _ _ rfl fun r hr d hd => by
    rw [hr, List.eq_of_mem_replicate hd, rsDivide_eq]
    simp [zero_gfMul]

/-- Every syndrome of a word of data and check bytes is 0. -/
theorem rsSyndrome_rsWord {i : Nat} (hi : i < 4) (data : List Byte) : rsSyndrome (rsWord data) i = 0#8 := by
  have hsum := syndromeFrom_xor i 0#8 (syndromeFrom i 0#8 data) (rsCheck data)
  rw [BitVec.zero_xor, length_rsCheck, Function.iterate_mul, ← syndromeFrom_rsCheck hi, BitVec.xor_self] at hsum
  rw [rsSyndrome_eq, rsWord, syndromeFrom_append]
  exact hsum

theorem length_rsWord {data : List Byte} (h : data.length = 32) : (rsWord data).length = 36 := by simp [rsWord, h]

/-- The mark of poison is no code word, and its symbols add up to 0 (R550). -/
theorem rsSyndrome_poisonWord : rsSyndrome poisonWord 0 = 0#8 ∧ rsSyndrome poisonWord 1 ≠ 0#8 := by
  have hdata (i : Nat) : syndromeFrom i 0#8 (List.replicate 32 0#8) = 0#8 :=
    List.foldlRecOn (motive := (· = 0#8)) _ _ rfl fun acc hacc d hd => by
      rw [hacc, List.eq_of_mem_replicate hd, iterate_gfDouble_zero, BitVec.xor_self]
  have hmark (i : Nat) : rsSyndrome poisonWord i = syndromeFrom i 0#8 (List.replicate 4 0xA7#8) := by
    rw [rsSyndrome_eq, poisonWord, syndromeFrom_append]
    exact congrArg (syndromeFrom i · _) (hdata i)
  rw [hmark, hmark]
  decide

theorem rsWord_ne_poisonWord (data : List Byte) : rsWord data ≠ poisonWord := fun h =>
  rsSyndrome_poisonWord.2 (h ▸ rsSyndrome_rsWord (by decide) data)

theorem rsDecode_rsWord (data : List Byte) : rsDecode (rsWord data) = .clean := by
  have hsyndrome : ∀ i < 4, rsSyndrome (rsWord data) i = 0#8 := fun i hi => rsSyndrome_rsWord hi data
  simp [rsDecode, rsWord_ne_poisonWord, hsyndrome, List.range_succ]

/-! ### A symbol in error (R426) -/

/-- A word with a value added to one symbol. -/
def addAt (w : List Byte) (j : Nat) (v : Byte) : List Byte := w.modify j (· ^^^ v)

theorem flipBytes_one (w : List Byte) (j : Nat) (v : Byte) : flipBytes w (List.replicate j 0 ++ [v]) = addAt w j v := by
  refine List.ext_getElem (by simp [flipBytes, addAt]) fun k hk _ => ?_
  simp only [flipBytes, addAt, List.getElem_map, List.getElem_zipIdx, List.getElem_modify, Nat.zero_add]
  rcases Nat.lt_trichotomy k j with h | rfl | h
  · simp [List.getElem?_append, h, h.ne']
  · simp
  · simp [List.getElem?_append, h.not_gt, h.ne, show k - j ≠ 0 by omega]

/-- The decoder's correction adds the value once more. -/
theorem addAt_addAt (w : List Byte) (j : Nat) (v : Byte) :
    (List.zipIdx (addAt w j v)).map (fun x => if x.2 = j then x.1 ^^^ v else x.1) = w := by
  refine List.ext_getElem (by simp [addAt]) fun k hk _ => ?_
  simp only [addAt, List.getElem_map, List.getElem_zipIdx, List.getElem_modify, Nat.zero_add, eq_comm (a := k)]
  split
  · rw [BitVec.xor_assoc, BitVec.xor_self, BitVec.xor_zero]
  · rfl

/-- What an error in symbol `j` adds to a syndrome. -/
theorem rsSyndrome_addAt {w : List Byte} {j : Nat} (hj : j < w.length) (v : Byte) (i : Nat) :
    rsSyndrome (addAt w j v) i = rsSyndrome w i ^^^ gfDouble^[i * (w.length - (j + 1))] v := by
  have hsplit : w = w.take j ++ w[j] :: w.drop (j + 1) := by simp
  have hadd : addAt w j v = w.take j ++ (w[j] ^^^ v) :: w.drop (j + 1) := List.modify_eq_take_cons_drop hj
  have hsum (u : List Byte) (d : Byte) (t : List Byte) :
      rsSyndrome (u ++ (d ^^^ v) :: t) i = rsSyndrome (u ++ d :: t) i ^^^ gfDouble^[i * t.length] v := by
    rw [rsSyndrome_eq, rsSyndrome_eq, syndromeFrom_append, syndromeFrom_append]
    show syndromeFrom i (_ ^^^ (d ^^^ v)) t = syndromeFrom i (_ ^^^ d) t ^^^ _
    rw [← BitVec.xor_assoc, syndromeFrom_xor]
  rw [hadd, hsum, ← hsplit, List.length_drop]

/-- The syndromes of a code word with an error in symbol `j`: the error's value times powers of its place. -/
theorem rsSyndrome_error {data : List Byte} (hlen : data.length = 32) {j : Nat} (hj : j < 36) (v : Byte) {i : Nat} (hi : i < 4) :
    rsSyndrome (addAt (rsWord data) j v) i = gfMul v (gfAlpha (i * (35 - j))) := by
  have hword := length_rsWord hlen
  rw [rsSyndrome_addAt (hword ▸ hj), rsSyndrome_rsWord hi, BitVec.zero_xor, hword, gfMul_gfAlpha, Nat.add_comm j, ← Nat.sub_sub]

/-- A word with one symbol in error does not bear the mark of poison, whose symbols add up to 0. -/
theorem addAt_ne_poisonWord {data : List Byte} (hlen : data.length = 32) {j : Nat} (hj : j < 36) {v : Byte} (hv : v ≠ 0) :
    addAt (rsWord data) j v ≠ poisonWord := by
  intro h
  have hsum := rsSyndrome_error hlen hj v (i := 0) (by decide)
  rw [h, rsSyndrome_poisonWord.1, Nat.zero_mul, gfMul_gfAlpha] at hsum
  exact hv hsum.symm

/-- The syndromes of an error name its symbol and no other. -/
theorem find_rsSingle {v : Byte} (hv : v ≠ 0) {j : Nat} (hj : j < 36) :
    (List.range 36).find? (rsSingle v ((List.range 3).map fun i => gfMul v (gfAlpha ((i + 1) * (35 - j))))) = some j := by
  rw [List.find?_range_eq_some]
  refine ⟨by simp [rsSingle], List.mem_range.2 hj, fun k hk => ?_⟩
  have hne : gfMul v (gfAlpha (35 - j)) ≠ gfMul v (gfAlpha (35 - k)) := fun h => by
    rw [gfMul_gfAlpha, gfMul_gfAlpha] at h
    have := iterate_gfDouble_inj hv (by omega) (by omega) h
    omega
  simp [rsSingle, List.range_succ, hne]

/-- An error in one symbol of a code word is corrected. -/
theorem rsDecode_addAt {data : List Byte} (hlen : data.length = 32) {j : Nat} (hj : j < 36) {v : Byte} (hv : v ≠ 0) :
    rsDecode (addAt (rsWord data) j v) = .corrected (rsWord data) := by
  have hvalue : rsSyndrome (addAt (rsWord data) j v) 0 = v := by
    rw [rsSyndrome_error hlen hj v (by decide), Nat.zero_mul, gfMul_gfAlpha, Function.iterate_zero_apply]
  have hplace : ((List.range 3).map fun i => rsSyndrome (addAt (rsWord data) j v) (i + 1)) =
      (List.range 3).map fun i => gfMul v (gfAlpha ((i + 1) * (35 - j))) :=
    List.map_congr_left fun i hi => rsSyndrome_error hlen hj v (Nat.succ_lt_succ (List.mem_range.1 hi))
  unfold rsDecode
  simp only [hvalue, hplace, if_neg (addAt_ne_poisonWord hlen hj hv), find_rsSingle hv hj, hv, decide_false, Bool.false_and,
    Bool.false_eq_true, if_false, addAt_addAt]

/-- Settles O52: α^0 to α^3 are roots of a code word, and the syndromes of an error in one symbol tell its value and its place. -/
theorem sectorCode : Obligations.SectorCode := by
  unfold Obligations.SectorCode
  refine ⟨fun d hd => ⟨length_rsWord hd, rsDecode_rsWord d⟩, by simp [rsDecode], fun d _ => rsWord_ne_poisonWord d,
    congrArg (List.replicate 32 0#8 ++ ·) (rsCheck_zero 32), ?_⟩
  intro d j v hd hj hv
  rw [flipBytes_one]
  exact rsDecode_addAt hd hj hv

end Sys2Proof.Machine
end

section
/-! PROOFS. What serving held requests leaves: the operations, the held accesses of commands, and the acquire generations (SPEC.md,
sections 02 and 03). A function of the model that yields a state has one lemma, with its name and `_kept`. -/

namespace Sys2Proof.Machine

/-- The operations, the held accesses and the acquire generations are as they were. -/
@[simp] abbrev Kept (s t : State) : Prop := t.fe.ops = s.fe.ops ∧ t.fe.held = s.fe.held ∧ t.mem.gens = s.mem.gens

/-! ### Branches and repetitions -/

@[simp] theorem ite_kept (c : Prop) [Decidable c] (s t : State) :
    (if c then s else t).fe.ops = (if c then s.fe.ops else t.fe.ops) ∧
    (if c then s else t).fe.held = (if c then s.fe.held else t.fe.held) ∧
    (if c then s else t).mem.gens = if c then s.mem.gens else t.mem.gens :=
  ⟨apply_ite (fun u : State => u.fe.ops) c s t, apply_ite (fun u : State => u.fe.held) c s t, apply_ite (fun u : State => u.mem.gens) c s t⟩

@[simp] theorem ite_fst_kept {α : Type} (c : Prop) [Decidable c] (x y : State × α) :
    (if c then x else y).1.fe.ops = (if c then x.1.fe.ops else y.1.fe.ops) ∧
    (if c then x else y).1.fe.held = (if c then x.1.fe.held else y.1.fe.held) ∧
    (if c then x else y).1.mem.gens = if c then x.1.mem.gens else y.1.mem.gens := by split <;> exact ⟨rfl, rfl, rfl⟩

theorem Kept.trans {s t u : State} (h : Kept s t) (k : Kept t u) : Kept s u :=
  ⟨k.1.trans h.1, k.2.1.trans h.2.1, k.2.2.trans h.2.2⟩

@[simp] theorem foldl_kept {α : Type} {f : State → α → State} (hf : ∀ s x, Kept s (f s x)) (l : List α) (s : State) : Kept s (l.foldl f s) :=
  List.foldlRecOn l f (motive := Kept s) ⟨rfl, rfl, rfl⟩ fun t ht x _ => ht.trans (hf t x)

@[simp] theorem foldl_fst_kept {α β : Type} {f : State × β → α → State × β} (hf : ∀ p x, Kept p.1 (f p x).1) (l : List α) (p : State × β) :
    Kept p.1 (l.foldl f p).1 :=
  List.foldlRecOn l f (motive := fun q => Kept p.1 q.1) ⟨rfl, rfl, rfl⟩ fun q hq x _ => hq.trans (hf q x)

theorem OnlyEvents.kept {s t : State} (h : OnlyEvents s t) : Kept s t := ⟨h.ops, h.held, congrArg MemState.gens h.mem⟩

/-! ### Events, records and frames -/

section
variable (s : State) (t kind die unit place tenant : Nat) (code : BitVec 16) (w d : DWord) (handle : Word) (f : Frame)

@[simp] theorem raiseEvent_kept : Kept s (raiseEvent s t code w d handle) := (onlyEvents_raiseEvent s t code w d handle).kept

@[simp] theorem raiseEventFree_kept : Kept s (raiseEventFree s t code w handle) := (onlyEvents_raiseEventFree s t code w handle).kept

@[simp] theorem raiseAll_kept : Kept s (raiseAll s code w d) := (onlyEvents_raiseAll s code w d).kept

@[simp] theorem logRecordFree_kept : Kept s (logRecordFree s kind die unit place tenant) := ⟨rfl, rfl, rfl⟩

@[simp] theorem sendRouted_kept (q : Option Nat) : Kept s (sendRouted s f q) := by
  have h : sendRouted s f q = _ := portsOnly_sendRouted s f q
  rw [h]
  exact ⟨rfl, rfl, rfl⟩

end

/-! ### Poison and its consequences -/

section
variable (s : State) (a n k g : Nat) (bs : List Byte) (c : ShardCfg)

@[simp] theorem dWrite_kept : Kept s (dWrite s a bs) := by
  unfold dWrite
  split
  · exact ⟨rfl, rfl, rfl⟩
  · rw [dirtyLines_only, releaseHold_only]
    exact ⟨rfl, rfl, rfl⟩

@[simp] theorem releaseHold_kept : Kept s (releaseHold s a n) := by
  rw [releaseHold_only]
  exact ⟨rfl, rfl, rfl⟩

@[simp] theorem undoRestoreAll_kept (logged : Bool) : Kept s (undoRestoreAll s c logged) := by simp [undoRestoreAll, undoRestore]

@[simp] theorem shardClean_kept : Kept s (shardClean s n) := by
  unfold shardClean
  split <;> simp [setShardState]

@[simp] theorem holdInRun_kept : Kept s (holdInRun s n) := by
  unfold holdInRun
  split <;> simp [setShardState]

@[simp] theorem abortShard_kept : Kept s (abortShard s n) := by simp [abortShard, orderStop]

@[simp] theorem haltShard_kept : Kept s (haltShard s n) := by
  unfold haltShard
  dsimp only
  split <;> simp

@[simp] theorem startRefetch_kept (shared : Bool) (src : Option Nat) (t : BitVec 4) : Kept s (startRefetch s g shared src t) := by
  unfold startRefetch
  repeat' split
  all_goals simp [sendServe, takeStream]

@[simp] theorem raiseUe_kept (t : Option (BitVec 4)) : Kept s (raiseUe s t a) := by
  unfold raiseUe
  split <;> simp

@[simp] theorem actOnPoison_kept (r : Region) : Kept s (actOnPoison s a r) := by
  unfold actOnPoison
  dsimp only
  repeat' split
  all_goals simp [dueRepair, recomputeSlot, writeDigests]

@[simp] theorem detectUe_kept : Kept s (detectUe s a) := by
  unfold detectUe poisonGranule
  repeat' split
  all_goals simp [markArray, setArray, setUnlisted]

@[simp] theorem countCorrected_kept : Kept s (countCorrected s g n) := by simp [countCorrected]

@[simp] theorem readStored_kept : Kept s (readStored s a) := by
  unfold readStored
  dsimp only
  repeat' split
  all_goals simp [countSector, mendPlace, setArray]

@[simp] theorem readBurst_kept : Kept s (readBurst s a) := by
  unfold readBurst
  split <;> simp [updLecc]

@[simp] theorem detectRead_kept : Kept s (detectRead s a n) := by simp [detectRead, forgetUnlisted, setUnlisted, readPlace]

end

/-! ### Home caches -/

section
variable (s : State) (a n k : Nat) (bs : List Byte) (die line hint : Nat) (visitor small : Bool) (l : CacheLine)

@[simp] theorem evictLine_kept : Kept s (evictLine s die line visitor) := by
  unfold evictLine
  split <;> simp [writeBack, writeBackSector, dropLine]

@[simp] theorem putLine_kept : Kept s (putLine s l) := by
  unfold putLine
  repeat' split
  all_goals simp [dropLine]

@[simp] theorem hcCount_kept : Kept s (hcCount s die a) := by simp [hcCount]

@[simp] theorem keepsLine_kept : Kept s (keepsLine s die line hint).1 := by simp [keepsLine]

@[simp] theorem homeReadSector_kept : Kept s (homeReadSector hint small s a) := by simp [homeReadSector]

@[simp] theorem keepVisitor_kept (t : BitVec 4) : Kept s (keepVisitor s die t a) := by
  unfold keepVisitor
  dsimp only
  repeat' split
  all_goals simp

@[simp] theorem readSector_kept (t : BitVec 4) (at_ : Nat → Nat) (x : State × List Byte × Nat) :
    Kept x.1 (readSector die t hint k n at_ x a).1 := by
  unfold readSector
  dsimp only
  repeat' split
  all_goals simp

@[simp] theorem writeThrough_kept : Kept s (writeThrough s hint a bs) := by simp [writeThrough, homeWriteSector]

end

/-! ### Held accesses -/

/-- Every access that is held for a command is that of one that is not yet Done. -/
def HeldLive (s : State) : Prop := ∀ h ∈ s.fe.held, ∀ c, h.who = .command c → (findOp s c).any opLive = true

/-- The accesses that are held for a command stay so, but for those of commands that are Done; the operations and the acquire generations are
as they were. -/
def Serves (s t : State) : Prop := t.fe.ops = s.fe.ops ∧ t.mem.gens = s.mem.gens ∧ (HeldLive s → HeldLive t)

theorem findOp_congr {s t : State} (h : t.fe.ops = s.fe.ops) (c : Word) : findOp t c = findOp s c := by rw [findOp, h, ← findOp]

theorem Serves.trans {s t u : State} (h : Serves s t) (k : Serves t u) : Serves s u :=
  ⟨k.1.trans h.1, k.2.1.trans h.2.1, k.2.2 ∘ h.2.2⟩

/-- Nothing comes to be held but accesses of host requests and of commands that are not yet Done. -/
theorem Serves.of_held {s t : State} (hops : t.fe.ops = s.fe.ops) (hgens : t.mem.gens = s.mem.gens)
    (h : ∀ x ∈ t.fe.held, x ∈ s.fe.held ∨ ∀ c, x.who = .command c → (findOp s c).any opLive = true) : Serves s t :=
  ⟨hops, hgens, fun hs x hx c hc => by
    rw [findOp_congr hops]
    exact (h x hx).elim (fun hm => hs x hm c hc) fun hl => hl c hc⟩

theorem Kept.serves {s t : State} (h : Kept s t) : Serves s t := .of_held h.1 h.2.2 fun _ hx => .inl (h.2.1 ▸ hx)

theorem Serves.foldl {α : Type} {f : State → α → State} (hf : ∀ s x, Serves s (f s x)) (l : List α) (s : State) : Serves s (l.foldl f s) :=
  List.foldlRecOn l f (motive := Serves s) ⟨rfl, rfl, id⟩ fun t ht x _ => ht.trans (hf t x)

theorem serves_holdRequest (s : State) (type : Nat) (r : HostReq) (loc n : Nat) : Serves s (holdRequest s type r loc n) := by
  refine .of_held rfl rfl fun x hx => ?_
  rcases List.mem_append.1 hx with h | h
  · exact .inl h
  · obtain rfl := List.mem_singleton.1 h
    exact .inr nofun

theorem serves_serveRead (s : State) (type : Nat) (r : HostReq) (n loc : Nat) : Serves s (serveRead s type r n loc) := by
  have hdetect : Serves s (detectRead s loc n) := Kept.serves (detectRead_kept s loc n)
  unfold serveRead
  dsimp only
  split
  · exact hdetect.trans (serves_holdRequest _ type r loc n)
  · refine hdetect.trans (Kept.serves ?_)
    split <;> simp [readHome, countUninit, readBy, takeAhead]

theorem serves_serveWrite (s : State) (type : Nat) (r : HostReq) (n : Nat) : Serves s (serveWrite s type r n) := by
  unfold serveWrite
  dsimp only
  split
  · exact serves_holdRequest s type r _ n
  · refine Kept.serves ?_
    split <;> simp [dropOwnCopies, dropLine]

theorem serves_serveOne (s : State) (h : HeldReq) : Serves s (serveOne s h) := by
  unfold serveOne
  split
  · split
    · exact serves_serveRead s ..
    · split
      · exact serves_serveRead s ..
      · split <;> exact serves_serveWrite s ..
  · next c hc =>
    split
    · next hlive =>
      refine .of_held rfl rfl fun x hx => ?_
      rcases List.mem_append.1 hx with hm | hm
      · exact .inl hm
      · obtain rfl := List.mem_singleton.1 hm
        exact .inr fun c' hc' => by rw [← Waiter.command.inj (hc.symm.trans hc')]; exact hlive
    · exact ⟨rfl, rfl, id⟩

/-- Held accesses that are served again: those of commands that are held afterwards are of commands that are not yet Done. -/
theorem serveAll_live (s : State) : (serveAll s).fe.ops = s.fe.ops ∧ (serveAll s).mem.gens = s.mem.gens ∧ HeldLive (serveAll s) := by
  obtain ⟨hops, hgens, hlive⟩ := Serves.foldl serves_serveOne s.fe.held { s with fe := { s.fe with held := [] } }
  exact ⟨hops, hgens, hlive nofun⟩

theorem endRefetches_kept (s : State) (gone : List Refetch) : Kept s (endRefetches s gone) := by
  have hreport : ∀ s r, Kept s (reportRefetch s r) := fun s r => by
    unfold reportRefetch
    split <;> simp
  exact foldl_kept hreport gone { s with units := _ }

theorem serveHeld_live (s : State) : (serveHeld s).fe.ops = s.fe.ops ∧ (serveHeld s).mem.gens = s.mem.gens ∧ HeldLive (serveHeld s) := by
  obtain ⟨hops, hgens, hlive⟩ := serveAll_live s
  unfold serveHeld
  dsimp only
  split
  · exact ⟨hops, hgens, hlive⟩
  · generalize (serveAll s).units.integ.refetch.filter _ = gone
    obtain ⟨eops, -, egens⟩ := endRefetches_kept (serveAll s) gone
    obtain ⟨aops, agens, alive⟩ := serveAll_live (endRefetches (serveAll s) gone)
    exact ⟨aops.trans (eops.trans hops), agens.trans (egens.trans hgens), alive⟩

end Sys2Proof.Machine
end

section
/-! PROOFS. The retrain of a channel that has a run: an acquire that waits behind a barrier of its own handle, and why the statement on the upkeep
of channels fails (SPEC.md, sections 03 and 10; R146, R430, R472). -/

namespace Sys2Proof.Machine

/-! ### The commands of a state -/

/-- An operation later on: the same command, Retired if it was Retired. -/
def SameCommand (x y : Op) : Prop :=
  y.handle = x.handle ∧ y.queue = x.queue ∧ y.order = x.order ∧ y.desc = x.desc ∧ (x.phase = .retired → y.phase = .retired)

section
variable {x y z : Op} (h : SameCommand x y)
include h

theorem SameCommand.handle : y.handle = x.handle := h.1
theorem SameCommand.queue : y.queue = x.queue := h.2.1
theorem SameCommand.order : y.order = x.order := h.2.2.1
theorem SameCommand.desc : y.desc = x.desc := h.2.2.2.1
theorem SameCommand.retired : x.phase = .retired → y.phase = .retired := h.2.2.2.2

theorem SameCommand.trans (k : SameCommand y z) : SameCommand x z :=
  ⟨k.handle.trans h.handle, k.queue.trans h.queue, k.order.trans h.order, k.desc.trans h.desc, k.retired ∘ h.retired⟩

end

theorem SameCommand.refl (x : Op) : SameCommand x x := ⟨rfl, rfl, rfl, rfl, id⟩

/-- Whether an operation bars another of its queue (R146). -/
def bars (y x : Op) : Bool := y.queue = x.queue && decide (y.order < x.order) && opLive y && opBarrier (dOpcode y.desc)

theorem barred_iff (l : List Op) (x : Op) : barred l x = true ↔ ∃ y ∈ l, bars y x = true := List.any_eq_true

theorem opLive_of_bars {x y : Op} (h : bars y x = true) : opLive y = true := by
  simp only [bars, Bool.and_eq_true] at h
  exact h.1.2

/-- An operation that is still live bars what it did. -/
theorem bars_of_same {y z x : Op} (h : SameCommand y z) (hl : opLive z = true) (hb : bars y x = true) : bars z x = true := by
  simp only [bars, Bool.and_eq_true] at hb ⊢
  rw [h.queue, h.order, h.desc]
  exact ⟨⟨hb.1.1, hl⟩, hb.2⟩

/-- No operation is a WAIT, and an acquire that is Waiting is barred by an operation of its own handle: whatever changes the one changes the other,
so that the acquire does not enter Running. -/
def HeldBack (s : State) : Prop := ∀ x ∈ s.fe.ops, dOpcode x.desc ≠ opWait ∧
  (x.phase = .waiting → dAcquire x.desc = true → ∃ y ∈ s.fe.ops, y.handle = x.handle ∧ bars y x = true)

/-- The commands of a state later on, each in its place. -/
def SameCommands (s t : State) : Prop := ∃ f : Op → Op, t.fe.ops = s.fe.ops.map f ∧ ∀ x, SameCommand x (f x)

theorem SameCommands.of_ops {s t : State} (h : t.fe.ops = s.fe.ops) : SameCommands s t := ⟨id, by rw [h, List.map_id], .refl⟩

theorem SameCommands.trans {s t u : State} (h : SameCommands s t) (k : SameCommands t u) : SameCommands s u := by
  obtain ⟨f, hf, hsame⟩ := h
  obtain ⟨g, hg, ksame⟩ := k
  exact ⟨g ∘ f, by rw [hg, hf, List.map_map], fun x => (hsame x).trans (ksame (f x))⟩

/-- The commands are the same, and where the acquires are held back they stay so, and no acquire takes place. -/
def NoAcquire (s t : State) : Prop := SameCommands s t ∧ (HeldBack s → HeldBack t ∧ t.mem.gens = s.mem.gens)

theorem NoAcquire.same {s t : State} (h : NoAcquire s t) : SameCommands s t := h.1

theorem NoAcquire.back {s t : State} (h : NoAcquire s t) : HeldBack s → HeldBack t ∧ t.mem.gens = s.mem.gens := h.2

theorem NoAcquire.of_ops {s t : State} (hops : t.fe.ops = s.fe.ops) (hgens : t.mem.gens = s.mem.gens) : NoAcquire s t :=
  ⟨.of_ops hops, fun h => ⟨by rw [HeldBack, hops]; exact h, hgens⟩⟩

theorem NoAcquire.refl (s : State) : NoAcquire s s := .of_ops rfl rfl

theorem NoAcquire.trans {s t u : State} (h : NoAcquire s t) (k : NoAcquire t u) : NoAcquire s u := by
  refine ⟨h.same.trans k.same, fun hs => ?_⟩
  obtain ⟨ht, hg⟩ := h.back hs
  obtain ⟨hu, hk⟩ := k.back ht
  exact ⟨hu, hk.trans hg⟩

/-! ### Changes of operations -/

/-- A change of every operation in its place. -/
theorem noAcquire_map {s t : State} (f : Op → Op) (hf : ∀ x, SameCommand x (f x)) (hops : t.fe.ops = s.fe.ops.map f)
    (hgens : t.mem.gens = s.mem.gens)
    (hwait : ∀ x ∈ s.fe.ops, (f x).phase = .waiting → x.phase = .waiting ∧ ∀ y, y.handle = x.handle → opLive y = true → opLive (f y) = true) :
    NoAcquire s t := by
  refine ⟨⟨f, hops, hf⟩, fun hs => ⟨fun z hz => ?_, hgens⟩⟩
  rw [hops] at hz ⊢
  obtain ⟨x, hx, rfl⟩ := List.mem_map.1 hz
  obtain ⟨hop, hback⟩ := hs x hx
  rw [(hf x).desc]
  refine ⟨hop, fun hw ha => ?_⟩
  obtain ⟨hxw, hlive⟩ := hwait x hx hw
  obtain ⟨y, hy, hh, hb⟩ := hback hxw ha
  refine ⟨f y, List.mem_map_of_mem hy, (hf y).handle.trans (hh.trans (hf x).handle.symm), ?_⟩
  have hfb := bars_of_same (hf y) (hlive y hh (opLive_of_bars hb)) hb
  rwa [bars, ← (hf x).queue, ← (hf x).order] at hfb

theorem sameCommand_changeAt {h : Word} {f : Op → Op} (hf : ∀ x, x.phase ≠ .retired → SameCommand x (f x)) (x : Op) :
    SameCommand x (changeAt h f x) := by
  unfold changeAt
  split
  · next hx =>
    simp only [Bool.and_eq_true, decide_eq_true_eq] at hx
    exact hf x hx.2
  · exact .refl x

/-- A change of the operations of a handle, after which they are not Waiting. -/
theorem noAcquire_updOp (s : State) (h : Word) {f : Op → Op} (hf : ∀ x, x.phase ≠ .retired → SameCommand x (f x))
    (hphase : ∀ x, (f x).phase ≠ .waiting) : NoAcquire s (updOp s h f) := by
  refine noAcquire_map (changeAt h f) (sameCommand_changeAt hf) rfl rfl fun x _ hw => ?_
  have hne : (x.handle = h && x.phase ≠ .retired) ≠ true := fun hx => by
    rw [changeAt, if_pos hx] at hw
    exact hphase x hw
  rw [changeAt, if_neg hne] at hw
  have hhandle : x.handle ≠ h := by simpa [hw] using hne
  exact ⟨hw, fun y hy hl => by rwa [changeAt, if_neg (by simp [hy, hhandle])]⟩

theorem noAcquire_markWaits (s : State) (id : Nat) (v : DWord) : NoAcquire s (markWaits s id v) := by
  refine noAcquire_map _ (fun x => ?_) rfl rfl fun x _ hw => ⟨?_, fun y _ hl => ?_⟩
  · split
    · exact ⟨rfl, rfl, rfl, rfl, fun h => h⟩
    · exact .refl x
  · split at hw <;> exact hw
  · split <;> exact hl

/-! ### Promotion -/

/-- What a promotion does: nothing, or its operation, which nothing bars, enters Running, with an acquire where it asks for one. -/
theorem promoteOne_cases (s : State) (o : Op) : promoteOne s o = s ∨
    (o.phase = .waiting ∧ barred s.fe.ops o = false ∧ (promoteOne s o).fe.ops = (updOp s o.handle (enteredOp s o)).fe.ops ∧
      (dAcquire o.desc = false → (promoteOne s o).mem.gens = s.mem.gens)) := by
  unfold promoteOne
  split
  · next h =>
    simp only [Bool.and_eq_true, decide_eq_true_eq, Bool.not_eq_true'] at h
    obtain ⟨⟨⟨⟨⟨hw, -⟩, hb⟩, -⟩, -⟩, -⟩ := h
    have henter : (enterRunning s o).fe.ops = (updOp s o.handle (enteredOp s o)).fe.ops ∧ (enterRunning s o).mem = s.mem := by
      by_cases hc : isColl o = true
      · rw [enterRunning_coll hc]
        exact ⟨rfl, rfl⟩
      · rw [enterRunning, if_neg hc]
        exact ⟨rfl, rfl⟩
    refine .inr ⟨hw, hb, ?_, fun ha => ?_⟩
    · dsimp only
      split <;> exact henter.1
    · simp [ha, henter.2]
  · exact .inl rfl

theorem sameCommand_enteredOp (s : State) (o : Op) {x : Op} (hx : x.phase ≠ .retired) : SameCommand x (enteredOp s o x) :=
  ⟨rfl, rfl, rfl, rfl, fun h => absurd h hx⟩

/-- What bars an operation bars it after a promotion too. -/
theorem barred_promoteOne (s : State) (o : Op) {x : Op} (h : barred s.fe.ops x = true) : barred (promoteOne s o).fe.ops x = true := by
  rcases promoteOne_cases s o with he | ⟨-, -, hops, -⟩
  · rwa [he]
  · obtain ⟨y, hy, hb⟩ := (barred_iff _ x).1 h
    rw [hops, updOp_ops]
    refine (barred_iff _ x).2 ⟨_, List.mem_map_of_mem hy, bars_of_same (sameCommand_changeAt (fun _ => sameCommand_enteredOp s o) y) ?_ hb⟩
    unfold changeAt
    split
    · rfl
    · exact opLive_of_bars hb

/-- A promotion of an operation that is barred or asks for no acquire. -/
theorem noAcquire_promoteOne {s : State} {o : Op} (h : o.phase = .waiting → dAcquire o.desc = true → barred s.fe.ops o = true) :
    NoAcquire s (promoteOne s o) := by
  rcases promoteOne_cases s o with he | ⟨hw, hb, hops, hgens⟩
  · rw [he]
    exact .refl s
  · have ha : dAcquire o.desc = false := by
      by_contra ha
      rw [h hw (by simpa using ha)] at hb
      cases hb
    exact (noAcquire_updOp s o.handle (fun _ => sameCommand_enteredOp s o) (fun _ => ne_of_beq_false rfl)).trans (.of_ops hops (hgens ha))

theorem noAcquire_foldl_promoteOne (l : List Op) (s : State)
    (h : ∀ o ∈ l, o.phase = .waiting → dAcquire o.desc = true → barred s.fe.ops o = true) : NoAcquire s (l.foldl promoteOne s) := by
  induction l generalizing s with
  | nil => exact .refl s
  | cons o l ih =>
    rw [List.forall_mem_cons] at h
    exact (noAcquire_promoteOne h.1).trans (ih _ fun x hx hw ha => barred_promoteOne s o (h.2 x hx hw ha))

theorem sameCommands_promoteOne (s : State) (o : Op) : SameCommands s (promoteOne s o) := by
  rcases promoteOne_cases s o with he | ⟨-, -, hops, -⟩
  · exact .of_ops (by rw [he])
  · exact ⟨_, hops, sameCommand_changeAt fun _ => sameCommand_enteredOp s o⟩

theorem noAcquire_promote (s : State) : NoAcquire s (promote s) := by
  constructor
  · exact List.foldlRecOn s.fe.ops promoteOne (motive := SameCommands s) (.of_ops rfl) fun t ht o _ => ht.trans (sameCommands_promoteOne t o)
  · refine fun hs => (noAcquire_foldl_promoteOne s.fe.ops s fun o ho hw ha => ?_).back hs
    obtain ⟨y, hy, -, hb⟩ := (hs o ho).2 hw ha
    exact (barred_iff _ o).2 ⟨y, hy, hb⟩

/-! ### The ends of operations -/

theorem noAcquire_syncAdd (s : State) (id : Nat) (v : DWord) : NoAcquire s (syncAdd s id v) :=
  NoAcquire.trans (t := { s with syncs := nmSet s.syncs id (syncGet s id + v) }) (.of_ops rfl rfl)
    ((noAcquire_markWaits _ _ _).trans (noAcquire_promote _))

theorem noAcquire_addTotals (s : State) (t : BitVec 4) (c : Counts) : NoAcquire s (addTotals s t c) := by
  unfold addTotals
  split <;> exact .of_ops rfl rfl

theorem noAcquire_noteCfg (s : State) (o : Op) (st : Status) : NoAcquire s (noteCfg s o st) := by
  unfold noteCfg
  split <;> exact .of_ops rfl rfl

theorem noAcquire_stallCheck (s : State) (o : Op) : NoAcquire s (stallCheck s o) := by
  unfold stallCheck
  split
  · have h := onlyEvents_raiseEventFree (updQ s o.queue fun c => { c with cqStall := true }) o.tenant.toNat evCqFull (BitVec.ofNat 64 o.queue)
      o.handle
    exact .of_ops h.ops (congrArg MemState.gens h.mem)
  · exact .refl s

theorem noAcquire_finishOp (s : State) (o : Op) (r : Res) : NoAcquire s (finishOp s o r) := by
  have hend : NoAcquire s (updOp s o.handle (endOp s o r)) :=
    noAcquire_updOp s o.handle (fun x hx => ⟨rfl, rfl, rfl, rfl, fun h => absurd h hx⟩) fun x => by
      unfold endOp
      dsimp only
      split <;> decide
  have hsignal : NoAcquire s (endSignal s o r) := by
    unfold endSignal
    dsimp only
    refine hend.trans ((noAcquire_addTotals _ o.tenant r.counts).trans ((noAcquire_noteCfg _ o r.status).trans ?_))
    split
    · exact noAcquire_syncAdd _ _ _
    · exact noAcquire_promote _
  rw [finishOp_eq]
  split
  · exact hsignal
  · exact hsignal.trans (noAcquire_stallCheck _ o)

/-- One end that is due; where no operation is a WAIT it acquires nothing (R131). -/
theorem noAcquire_endDue {s t : State} (h : endDue s = some t) : NoAcquire s t := by
  unfold endDue at h
  split at h
  · cases h
  · next o ho =>
    have hwait (c : Bool) : NoAcquire s (if dOpcode o.desc = opWait && c then acquire s o.tenant else s) := by
      refine ⟨.of_ops (by split <;> rfl), fun hs => ?_⟩
      rw [if_neg (by simp [(hs o (List.mem_of_find?_eq_some ho)).1])]
      exact ⟨hs, rfl⟩
    split at h
    · cases h
    · next r _ =>
      split at h
      · obtain rfl := Option.some.inj h
        exact noAcquire_updOp s o.handle (fun x hx => ⟨rfl, rfl, rfl, rfl, fun h => absurd h hx⟩) fun _ => ne_of_beq_false rfl
      · obtain rfl := Option.some.inj h
        simp only [Bool.and_assoc]
        exact (hwait _).trans (noAcquire_finishOp _ o r)

theorem noAcquire_settleGo (n : Nat) (s : State) : NoAcquire s (settleGo n s) := by
  induction n generalizing s with
  | zero => exact .refl s
  | succ n ih =>
    unfold settleGo
    split
    · exact .refl s
    · exact (noAcquire_endDue ‹_›).trans (ih _)

/-- Where the acquires are held back, none takes place as the consequences of a change play out. -/
theorem noAcquire_settle (s : State) : NoAcquire s (settle s) := (noAcquire_promote s).trans (noAcquire_settleGo _ _)

/-! ### A retrain whose PIM_RUN ends -/

/-- Channel 0, whose spares are used up, is in a retrain, and has the run of PIM_RUN 1. Two operations have handle 2: a FENCE that is Done, and
after it a NOP with ACQUIRE (flag 1) that is Waiting. An access of command 2 is held. -/
def acquireBehindFence : State :=
  { State.reset with
    fe := { feReset with
      ops := [fetchedOp 1 0 opPimRun 0 .running, fetchedOp 2 1 opFence 0 .done, fetchedOp 2 2 opNop 2 .waiting]
      held := [⟨.command 2, [], 0⟩] }
    units := { unitsReset with
      chans := [(0, { chanReset with retrain := true, spares := 8 })], pips := { unitsReset.pips with runs := [(0, ⟨1, 0, false⟩)] } } }

/-- The state once the retrain has found a failed lane, the channel has failed (R431), its run has stopped and PIM_RUN 1 has ended (R472). -/
def retrainedFence : State := settle (serveHeld (retrainEnd acquireBehindFence 0 [0]))

/-- PIM_RUN 1 in `retrainedFence`: it has ended with the run that stopped. -/
def endedRun : Op := { fetchedOp 1 0 opPimRun 0 .running with phase := .done, status := stPoison, event := true }

/-- The FENCE in `retrainedFence`: it has entered Running again with the acquire, whose handle it has. -/
def liveFence : Op := { fetchedOp 2 1 opFence 0 .done with phase := .running }

/-- The acquire in `retrainedFence`: it has entered Running after the end of PIM_RUN 1. -/
def begunAcquire : Op := { fetchedOp 2 2 opNop 2 .waiting with phase := .running }

-- The descriptors are words of 512 bits.
set_option exponentiation.threshold 512 in
theorem retrainedFence_fields : retrainedFence.fe.ops = [endedRun, liveFence, begunAcquire] ∧
    retrainedFence.fe.held = [⟨.command 2, [], 0⟩] ∧ retrainedFence.mem.gens = [(0, 1)] ∧
    (∀ o ∈ [endedRun, liveFence, begunAcquire], dOpcode o.desc ≠ opWait) ∧ dAcquire endedRun.desc = false ∧ dAcquire liveFence.desc = false ∧
    opBarrier (dOpcode liveFence.desc) = true := ⟨rfl, rfl, rfl, by decide, rfl, rfl, rfl⟩

/-- What the statement's clause reads off the package before the retrain ends. -/
theorem acquireBehindFence_fields : lanesBusy acquireBehindFence 0 = true ∧ (chanOf acquireBehindFence 0).retrain = true ∧
    (chanOf acquireBehindFence 0).spares ≤ 8 := ⟨rfl, rfl, Nat.le_refl 8⟩

/-- A retrain ends: what waited for it is served, and the rest follows (R430). -/
theorem parityRetry_retrained {s : State} {c : Nat} (l : List Nat) (hbusy : lanesBusy s c = true) (hretrain : (chanOf s c).retrain = true) :
    parityRetry c (.retrained l) s = settle (serveHeld (retrainEnd s c l)) := by
  simp [parityRetry, hbusy, hretrain]

/-- In a state that settles to `retrainedFence`, and whose held accesses are of commands that are not yet Done, the acquire is held back: the
FENCE of its handle is live, as it is the first operation of that handle and is not Retired later on. -/
theorem heldBack_of_retrainedFence {v : State} (hlive : HeldLive v) (hv : settle v = retrainedFence) : HeldBack v := by
  obtain ⟨hops, hheld, -, hwait, hrunplain, hfenceplain, hbarrier⟩ := retrainedFence_fields
  obtain ⟨f, hf, hsame⟩ := (noAcquire_settle v).same
  rw [hv, hops] at hf
  obtain ⟨run, l, hl, hrun, hf⟩ := List.map_eq_cons_iff.1 hf.symm
  obtain ⟨fence, l, rfl, hfence, hf⟩ := List.map_eq_cons_iff.1 hf
  obtain ⟨nop, l, rfl, hnop, hf⟩ := List.map_eq_cons_iff.1 hf
  obtain rfl := List.map_eq_nil_iff.1 hf
  have krun : SameCommand run endedRun := hrun ▸ hsame run
  have kfence : SameCommand fence liveFence := hfence ▸ hsame fence
  have knop : SameCommand nop begunAcquire := hnop ▸ hsame nop
  have hfind : findOp v 2 = some fence := by
    have hother : run.handle ≠ 2#32 := by rw [← krun.handle]; decide
    have hhandle : fence.handle = 2 := kfence.handle.symm
    have hphase : fence.phase ≠ .retired := fun h => by cases kfence.retired h
    rw [findOp, hl]
    simp [hother, hhandle, hphase]
  have hfencelive : opLive fence = true := by
    have hmem : ⟨.command 2, [], 0⟩ ∈ v.fe.held := by rw [← (onlyOps_settle v).held, hv, hheld]; exact List.mem_singleton_self _
    have hany := hlive _ hmem 2 rfl
    rwa [hfind] at hany
  have hbars : bars fence nop = true := by
    have hqueue : fence.queue = nop.queue := kfence.queue.symm.trans knop.queue
    have horder : fence.order < nop.order := by rw [← kfence.order, ← knop.order]; decide
    simp [bars, hqueue, horder, hfencelive, ← kfence.desc, hbarrier]
  rw [HeldBack, hl]
  simp only [List.forall_mem_cons] at hwait ⊢
  rw [← krun.desc, ← kfence.desc, ← knop.desc, hrunplain, hfenceplain]
  obtain ⟨hrunwait, hfencewait, hnopwait, -⟩ := hwait
  exact ⟨⟨hrunwait, fun _ h => absurd h Bool.false_ne_true⟩, ⟨hfencewait, fun _ h => absurd h Bool.false_ne_true⟩,
    ⟨hnopwait, fun _ _ => ⟨fence, by simp, kfence.handle.symm.trans knop.handle, hbars⟩⟩, List.forall_mem_nil _⟩

/-- Refutes O51: its clause on the end of a retrain says that the state which is then served and settled has the memory of `s`, also where the
channel that fails has a run. In `acquireBehindFence` two operations have one handle, which the statement allows. The end of the PIM_RUN lets the
acquire begin before the held access is served, so the FENCE of its handle is live and the access stays held; a state that has not acquired yet
and keeps that access has the FENCE live already, and the acquire never begins. -/
theorem not_channelUpkeep : ¬ Obligations.ChannelUpkeep := by
  unfold Obligations.ChannelUpkeep
  rintro ⟨-, hretrain, -⟩
  obtain ⟨hbusy, hchan, hspares⟩ := acquireBehindFence_fields
  obtain ⟨u, hu, hmem, -⟩ := hretrain acquireBehindFence 0 .packet [0] hbusy hchan hspares
  have hsettle : settle (serveHeld u) = retrainedFence :=
    (Host.Outcome.next.inj hu).symm.trans (parityRetry_retrained [0] hbusy hchan)
  obtain ⟨-, hgens, hlive⟩ := serveHeld_live u
  obtain ⟨-, hnone⟩ := (noAcquire_settle (serveHeld u)).back (heldBack_of_retrainedFence hlive hsettle)
  obtain ⟨-, -, hacquired, -⟩ := retrainedFence_fields
  rw [hsettle, hacquired, hgens, hmem] at hnone
  cases hnone

end Sys2Proof.Machine
end

section
/-! PROOFS. Data that a command delivers into memory that can be written as it stands, and TRANSPOSE_OUT (R460). -/

namespace Sys2Proof.Machine

/-! ### Upkeep of caches and channels -/

/-- The upkeep of caches and channels changes the registers, the free counter and the units, and of these neither the refetches nor whether
a channel serves. -/
def Upkeep (s t : State) : Prop :=
  t = { s with free := t.free, regs := t.regs, units := t.units } ∧ t.units.integ.refetch = s.units.integ.refetch ∧
  (NoFailed s → NoFailed t)

section
variable {s t : State} (h : Upkeep s t)
include h

theorem Upkeep.only : t = { s with free := t.free, regs := t.regs, units := t.units } := h.1
theorem Upkeep.refetch : t.units.integ.refetch = s.units.integ.refetch := h.2.1
theorem Upkeep.serves : NoFailed s → NoFailed t := h.2.2
theorem Upkeep.mem : t.mem = s.mem := by rw [h.only]
theorem Upkeep.syncs : t.syncs = s.syncs := by rw [h.only]
theorem Upkeep.cfg : t.cfg = s.cfg := by rw [h.only]
theorem Upkeep.step : t.step = s.step := by rw [h.only]
theorem Upkeep.hz : t.hz = s.hz := by rw [h.only]
theorem Upkeep.pRow (a : Nat) : pRow t a = pRow s a := congrArg (fun m : MemState => nmGet (Config.undefinedRow m.pIndex a) m.prows a) h.mem
theorem Upkeep.poisonCut (a n : Nat) : poisonCut t a n = poisonCut s a n := by rw [h.only]; rfl

end

theorem Upkeep.refl (s : State) : Upkeep s s := ⟨rfl, rfl, id⟩

theorem Upkeep.trans {s t u : State} (h : Upkeep s t) (k : Upkeep t u) : Upkeep s u :=
  ⟨by rw [k.only, h.only], k.refetch.trans h.refetch, k.serves ∘ h.serves⟩

theorem Upkeep.foldl {α : Type} {f : State → α → State} (hf : ∀ s x, Upkeep s (f s x)) (l : List α) (s : State) :
    Upkeep s (l.foldl f s) :=
  List.foldlRecOn l f (motive := Upkeep s) (.refl s) fun t ht x _ => ht.trans (hf t x)

theorem OnlyCache.upkeep {s t : State} (h : OnlyCache s t) : Upkeep s t := by
  rw [OnlyCache] at h
  rw [h]
  exact ⟨rfl, rfl, id⟩

/-! ### A write among upkeep -/

section
variable {s t : State} {b addr : Nat} {bs : List Byte} (ht : Upkeep s t) (hd : PlainDst s b bs.length)
include ht hd

/-- No digest is computed anew for a write of plain memory, and no refetch ends. -/
theorem afterWrite_plain : refetchLanded (recomputeTouched (dWrite t b bs) b bs.length) b bs.length = dWrite t b bs := by
  obtain ⟨-, -, -, -, htouched, hrefetch⟩ := hd
  obtain ⟨-, -, -, -, -, hcfg, hstep, -⟩ := dWrite_rest t b bs
  rw [recomputeTouched_none, refetchLanded_none]
  · rw [dWrite_integ, ht.refetch, hrefetch]
  · rw [hcfg, ht.cfg]
    exact fun e he => (touchedTiles_of_shards (congrArg StepEngine.shards (hstep.trans ht.step)) e.1 e.2 b bs.length).trans (htouched e he)

/-- A write of plain memory delivers its bytes. -/
theorem delivered_dWrite (ha : sysAddr s.cfg.live addr = .here b) : Delivered s (dWrite t b bs) 0 addr bs := by
  obtain ⟨hserve, -, hcut, -, -, -⟩ := hd
  obtain ⟨-, -, -, -, hsyncs, hcfg, hstep, hhz, hscells, hprows⟩ := dWrite_rest t b bs
  have hlaid := dWrite_laid t b bs (ht.serves hserve) ((ht.poisonCut b bs.length).trans hcut)
  rw [ht.mem] at hlaid hscells hprows
  refine ⟨fun h => absurd h (by decide), fun _ c hc => ?_, hprows, hsyncs.trans ht.syncs, hcfg.trans ht.cfg, hstep.trans ht.step,
    hhz.trans ht.hz⟩
  obtain rfl : b = c := DAddr.here.inj (ha.symm.trans hc)
  exact ⟨hlaid, hscells⟩

end

/-- A command whose destination can be written as it stands delivers its result, and ends. -/
theorem writeResult_plain {s : State} {o : Op} {space addr : Nat} {bs : List Byte} (hg : Groupless s) (hne : bs ≠ [])
    (hd : DestOk s space addr bs.length) (r : Res) : ∃ u, writeResult s o space addr bs r = .done u r ∧ Delivered s u space addr bs := by
  rcases hd with rfl | ⟨rfl, b, ha, hplain⟩
  · exact ⟨sWrite s addr bs, rfl, fun _ => ⟨memGet_memWrite _ _ _, fun _ => rfl⟩, fun h => absurd h (by decide), rfl, rfl, rfl, rfl, rfl⟩
  · have ⟨hserve, hheld, hcut, hbusy, _⟩ := hplain
    have hu := (onlyCache_writeSectors hserve (dHint o.desc) b bs.length).upkeep
    refine ⟨dWrite (writeSectors s (dHint o.desc) b bs.length) b bs, ?_, delivered_dWrite hu hplain ha⟩
    simp [writeResult, ha, hne, hbusy, groupOf_groupless hg, hheld, mergeRead_clean s b bs.length hserve, hcut, opWrite, writeThrough_eq,
      afterWrite_plain hu hplain]

/-- A data command in turn that ends with ST_OK as it begins to act. -/
theorem runData_ok {s t : State} {h : Word} {o : Op} {c : Nat} {f : State → Op → Outcome} {r : Res} (ho : Ready s h c o)
    (ht : InTurn s h o) (hf : f (begun s h) (begunOp o) = .done t r) (hr : r.status = stOk) : runData c f h s = complete t o r := by
  rw [runData_inTurn ho ht]
  exact runCommand_done ho (sensing_done _ _ _ _ _ _ hf) (finalOwed_false _ _ _ (.inr hr))

/-! ### TRANSPOSE_OUT (R459, R460) -/

/-- The elements that TRANSPOSE_OUT gathers from P-space, as its format takes them, with their SAT counts. -/
def gatheredElems (s : State) (d : BitVec 512) : List (Nat × Nat) :=
  (((transposeBanks (dSrc d) (dCount d)).flatMap fun b => (List.range 8192).map fun l =>
    gatherElem s s.free (dSrc d) (dField d 49 1) b l).take (dCount d)).map (transposeOutBits (dDfmt d) (dField d 49 1))

/-- The bytes of these elements. -/
def gatheredBytes (s : State) (d : BitVec 512) : List Byte :=
  (gatheredElems s d).flatMap fun e => leBytes (fmtBits (dDfmt d) / 8) e.1

/-- What a TRANSPOSE_OUT of rows without an uncorrectable sector ends with. -/
def gatheredRes (s : State) (d : BitVec 512) : Res :=
  { status := stOk, res1 := BitVec.ofNat 64 (gatheredBytes s d).length, counts := ⟨((gatheredElems s d).map (·.2)).sum, 0, 0, 0⟩ }

/-- Where every stored sector is its code word an activation finds nothing. -/
theorem activateRow_clean {s : State} (h : s.mem.flips = []) (a : Nat) : activateRow s a = s := by simp [activateRow, h]

/-- A TRANSPOSE_OUT writes what it gathers from clean rows. -/
theorem tryTransposeOut_clean {s : State} {o : Op} (hg : Groupless s) (he : dEmpty o.desc = false) (hbusy : pimBusy s o.desc = false)
    (hbad : s.mem.pbad = []) (hflips : s.mem.flips = []) :
    tryTransposeOut s o = writeResult { s with free := s.free + 1 } o (dDstSpace o.desc) (dDst o.desc) (gatheredBytes s o.desc)
      (gatheredRes s o.desc) := by
  have hgood (l : List (Nat × Nat × Nat)) : walkBad s (dSrc o.desc) (dField o.desc 49 1) l = false := by simp [walkBad, hbad]
  rw [tryTransposeOut, withGroup_groupless hg, if_neg (ne_true_of_eq_false he), if_neg (ne_true_of_eq_false hbusy)]
  dsimp only
  rw [List.foldl_fixed' (activateRow_clean hflips), hgood]
  rfl

/-- Settles O25: what the rows give is written as every result that its destination can take. -/
theorem transposeOutReadsRows : Obligations.TransposeOutReadsRows := by
  unfold Obligations.TransposeOutReadsRows
  intro s h o ho hg ht he hbusy hbad hflips banks raw els bs hne hd
  have hg' := groupless_begun hg h
  obtain ⟨u, hu, hdel⟩ := writeResult_plain (s := { begun s h with free := s.free + 1 }) (o := begunOp o) hg' hne hd (gatheredRes s o.desc)
  have hf : tryTransposeOut (begun s h) (begunOp o) = .done u (gatheredRes s o.desc) :=
    (tryTransposeOut_clean (s := begun s h) (o := begunOp o) hg' he hbusy hbad hflips).trans hu
  exact ⟨u, congrArg Host.Outcome.next (runData_ok ho ht hf rfl), hdel⟩

end Sys2Proof.Machine
end

section
/-! PROOFS. ZERO: a range of D-space cleared among the upkeep of its channels, and the rows of stripes of P-space (SPEC.md, section 11). -/

namespace Sys2Proof.Machine

/-! ### Upkeep that goes with row clones (R462 to R468, R474) -/

theorem upkeep_updChan (s : State) (c : Nat) {f : Chan → Chan} (hf : ∀ x, (f x).failed = x.failed) : Upkeep s (updChan s c f) := by
  refine ⟨rfl, rfl, fun hs => ⟨fun e he => ?_, hs.2⟩⟩
  rcases mem_nmSet _ _ _ _ he with rfl | he
  · exact (hf _).trans (chanOf_failed s c hs.1)
  · exact hs.1 e he

theorem upkeep_regCount (s : State) (off n : Nat) : Upkeep s (regCount s off n) := ⟨rfl, rfl, id⟩

theorem upkeep_takeNat (s : State) : Upkeep s (takeNat s).1 := ⟨rfl, rfl, id⟩

theorem upkeep_updPips (s : State) (f : PipUnits → PipUnits) : Upkeep s (updPips s f) := ⟨rfl, rfl, id⟩

theorem upkeep_setProc (s : State) (c : Nat) (on : Bool) : Upkeep s (setProc s c on) := ⟨rfl, rfl, id⟩

theorem upkeep_catchUp (s : State) (c : Nat) : Upkeep s (catchUp s c) := by
  unfold catchUp
  split
  · exact upkeep_updChan s c fun _ => rfl
  · exact .refl s

theorem upkeep_refreshRound (s : State) (c : Nat) : Upkeep s (refreshRound s c) := by
  unfold refreshRound
  split
  · refine Upkeep.trans ?_ (upkeep_regCount _ _ _)
    exact upkeep_updChan s c fun _ => rfl
  · exact .refl s

theorem upkeep_boundaryRefs (s : State) (c times : Nat) : Upkeep s (boundaryRefs s c times) := by
  unfold boundaryRefs
  dsimp only
  split
  · exact .refl s
  · exact (upkeep_takeNat s).trans (.foldl (fun t _ => upkeep_refreshRound t c) _ _)

theorem upkeep_cloneAtoms (s : State) (x : Nat × Nat) : Upkeep s (cloneAtoms s x) := by
  unfold cloneAtoms
  dsimp only
  split
  · exact .refl s
  · generalize (if (chanOf s x.1).hot then 24 else 48) = per
    have hcounted := (upkeep_boundaryRefs s x.1 (min x.2 per)).trans
      (upkeep_regCount _ (dieBase (x.1 / 64) + 0x408) ((x.2 + per - 1) / per))
    split
    · exact hcounted.trans ((upkeep_updPips _ _).trans ((upkeep_setProc _ x.1 false).trans (upkeep_catchUp _ x.1)))
    · exact hcounted

theorem upkeep_countClones (s : State) (l : List (Nat × Nat)) : Upkeep s (countClones s l) := .foldl upkeep_cloneAtoms _ s

/-- Over channels that serve, what the caches drop of a range leaves the arrays as they are (R475). -/
theorem upkeep_dropRange {s : State} (hs : NoFailed s) (a n : Nat) : Upkeep s (dropRange s a n) := by
  have hback (l : CacheLine) (k : Nat) : writeBackSector l s k = s := by simp [writeBackSector, failedAt_false hs]
  unfold dropRange
  dsimp only
  rw [List.foldl_fixed' fun l => List.foldl_fixed' (hback l) _]
  exact ⟨rfl, rfl, id⟩

/-! ### ZERO of D-space (R474, R475) -/

/-- The state in which ZERO writes its range: the caches have dropped it, and the row clones are counted. -/
def zeroReady (s : State) (a n : Nat) : State := countClones (dropRange s a n) [(a, n)]

theorem upkeep_zeroReady {s : State} (hs : NoFailed s) (a n : Nat) : Upkeep s (zeroReady s a n) :=
  (upkeep_dropRange hs a n).trans (upkeep_countClones _ _)

theorem tryZero_here {s : State} {o : Op} {b : Nat} (hg : Groupless s) (he : dEmpty o.desc = false) (hspace : dDstSpace o.desc = 0)
    (ha : sysAddr s.cfg.live (dDst o.desc) = .here b) : tryZero s o = zeroRange s b (dCount o.desc) := by
  simp [tryZero, withGroup_groupless hg, he, hspace, ha, groupOf_groupless hg]

/-- A range of plain memory in which no tile lies whole is written with zeros. -/
theorem zeroRange_plain {s : State} {b n : Nat} (hd : PlainDst s b n) (hpim : pimOnRange s b n = false)
    (htiles : ((tileRuns s.cfg.live).flatMap fun r => coveredTiles r b n) = []) :
    zeroRange s b n = .done (dWrite (zeroReady s b n) b (List.replicate n 0)) resOk := by
  have ⟨hserve, hheld, hcut, hbusy, _⟩ := hd
  have hu := upkeep_zeroReady hserve b n
  have hcovered : zeroCovered (dWrite (zeroReady s b n) b (List.replicate n 0)) b n = dWrite (zeroReady s b n) b (List.replicate n 0) := by
    obtain ⟨-, -, -, -, -, hcfg, -⟩ := dWrite_rest (zeroReady s b n) b (List.replicate n 0)
    rw [zeroCovered, hcfg, hu.cfg, htiles]
    rfl
  have hlen : (List.replicate n (0 : Byte)).length = n := List.length_replicate
  have hafter := afterWrite_plain hu (bs := List.replicate n 0) (hlen.symm ▸ hd)
  rw [hlen] at hafter
  rw [zeroRange, if_neg (ne_true_of_eq_false hbusy), if_neg (by simp [hheld, hpim])]
  change Outcome.done
    (refetchLanded (recomputeTouched (zeroCovered (dWrite (zeroReady s b n) b (List.replicate n 0)) b n) b n) b n)
    (resSt (if poisonCut (zeroReady s b n) b n then stPoison else stOk)) = _
  rw [hu.poisonCut, hcut, hcovered, hafter]
  rfl

/-! ### ZERO of P-space (R476) -/

theorem pRow_pWrite (s : State) (b a : Nat) (v : BitVec 8192) : pRow (pWrite s b v) a = if a = b then v else pRow s a := by
  split
  · next h => rw [h]; exact nmGet_nmSet_self _ _ _ _
  · next h => exact nmGet_nmSet_ne _ _ _ h

/-- Rows of P-space cleared one by one. -/
def clearRows (s : State) (l : List Nat) : State := l.foldl (fun s r => pWrite s r 0) s

theorem clearRows_cons (s : State) (b : Nat) (l : List Nat) : clearRows s (b :: l) = clearRows (pWrite s b 0) l := rfl

theorem pRow_clearRows (l : List Nat) (s : State) (a : Nat) : pRow (clearRows s l) a = if a ∈ l then 0 else pRow s a := by
  induction l generalizing s with
  | nil => rfl
  | cons b l ih =>
    rw [clearRows_cons, ih, pRow_pWrite]
    by_cases hl : a ∈ l
    · rw [if_pos hl, if_pos (List.mem_cons_of_mem b hl)]
    · simp only [List.mem_cons, hl, or_false, if_false]

/-- Clearing rows leaves both byte memories. -/
theorem clearRows_bytes (l : List Nat) (s : State) :
    (clearRows s l).mem.cells = s.mem.cells ∧ (clearRows s l).mem.scells = s.mem.scells :=
  List.foldlRecOn l _ (motive := fun t : State => t.mem.cells = s.mem.cells ∧ t.mem.scells = s.mem.scells) ⟨rfl, rfl⟩ fun _ ht _ _ => ht

/-- The rows of `k` stripes from row address `a` on: in each of the 48 banks of the channel, `k` rows. -/
def stripeRows (a k : Nat) : List Nat :=
  (List.range k).flatMap fun j => (List.range 48).map fun b => pAddr (a / 2 ^ 27) (a / 2 ^ 21 % 64) b (a % 2 ^ 15 + j)

theorem tryZero_stripes {s : State} {o : Op} (hg : Groupless s) (he : dEmpty o.desc = false) (hspace : dDstSpace o.desc = 2)
    (hbusy : pimBusy s o.desc = false) :
    tryZero s o = .done (clearRows (cloneAtoms s (pChannel (dDst o.desc), dCount o.desc / 49152))
      (stripeRows (dDst o.desc) (dCount o.desc / 49152))) resOk := by
  rw [tryZero, withGroup_groupless hg, if_neg (ne_true_of_eq_false he), if_pos hspace, if_neg (ne_true_of_eq_false hbusy)]
  rfl

/-- Settles O26: a D-space range by the write of its zeros among upkeep, stripes by the clearing of their rows. -/
theorem zeroClears : Obligations.ZeroClears := by
  unfold Obligations.ZeroClears
  refine ⟨fun s h o b ho hg ht he hspace ha hd hpim htiles => ?_, fun s h o ho hg ht he hspace hbusy => ?_⟩
  · have hu := upkeep_zeroReady (s := begun s h) hd.1 b (dCount o.desc)
    have hf : tryZero (begun s h) (begunOp o) =
        .done (dWrite (zeroReady (begun s h) b (dCount o.desc)) b (List.replicate (dCount o.desc) 0)) resOk :=
      (tryZero_here (s := begun s h) (o := begunOp o) (groupless_begun hg h) he hspace ha).trans (zeroRange_plain hd hpim htiles)
    have hlen : (List.replicate (dCount o.desc) (0 : Byte)).length = dCount o.desc := List.length_replicate
    have hdel := delivered_dWrite hu (bs := List.replicate (dCount o.desc) 0) (hlen.symm ▸ hd) ha
    exact ⟨_, congrArg Host.Outcome.next (runData_ok ho ht hf rfl), hdel⟩
  · intro rows
    have hu := upkeep_cloneAtoms (begun s h) (pChannel (dDst o.desc), dCount o.desc / 49152)
    obtain ⟨hcells, hscells⟩ := clearRows_bytes rows (cloneAtoms (begun s h) (pChannel (dDst o.desc), dCount o.desc / 49152))
    have hf := tryZero_stripes (s := begun s h) (o := begunOp o) (groupless_begun hg h) he hspace hbusy
    refine ⟨_, congrArg Host.Outcome.next (runData_ok ho ht hf rfl), fun a => ?_,
      hcells.trans (congrArg MemState.cells hu.mem), hscells.trans (congrArg MemState.scells hu.mem)⟩
    exact (pRow_clearRows rows _ a).trans (if_congr Iff.rfl rfl (hu.pRow a))

end Sys2Proof.Machine
end

section
/-! PROOFS. A TRANSPOSE_IN whose source begins within a 64 B sector that a gather range cuts: why the statement on TRANSPOSE_IN fails
(SPEC.md, section 11). -/

namespace Sys2Proof.Machine

/-- A Running TRANSPOSE_IN of tenant 0: the 32 INT8 elements from 0x1020 on into lanes 0 to 31 of row 0 of P-space, at a width of 1 bit. -/
def layOp : Op :=
  { copyOp with
    desc := BitVec.ofNat 512 (opTransposeIn + 2 ^ 16 + 8 * 2 ^ 24 + 0x1020 * 2 ^ 192 + 32 * 2 ^ 320 + 0x22 * 2 ^ 384 + 2 ^ 392) }

/-- `cutSector` with the TRANSPOSE_IN in the COPY's place, and row 0 of P-space written with zeros: the gather range 0x1000 to 0x101F cuts the
sector of the source, and each byte of the source holds 0x5A. -/
def cutElems : State :=
  { cutSector with mem := { cutSector.mem with prows := [(0, 0)] }, fe := { feReset with ops := [layOp] } }

/-- Row 0 of P-space after a step, as it was last written. -/
def rowZero : Host.Outcome State Fault Refusal → BitVec 8192
  | .next t => nmGet 0 t.mem.prows 0
  | .fault _ => 0
  | .refused _ => 0

/-- The end of an operation leaves P-space. -/
theorem rowZero_complete (u : State) (o : Op) (r : Res) : rowZero (.next (complete u o r)) = nmGet 0 u.mem.prows 0 := by
  change nmGet 0 (complete u o r).mem.prows 0 = nmGet 0 u.mem.prows 0
  rw [(onlyOps_complete u o r).mem]

section

-- A descriptor is a word of 512 bits, a row of P-space one of 8,192 bits.
set_option exponentiation.threshold 8192

theorem layOp_fields : dSrcSpace layOp.desc = 0 ∧ dSrc layOp.desc = 0x1020 ∧
    operandBytes (dSfmt layOp.desc) (dCount layOp.desc) = 32 := by decide

/-- The TRANSPOSE_IN is about to act, in turn, and its channel serves it. -/
theorem cutElems_ready : Ready cutElems 7 opTransposeIn layOp ∧ Groupless cutElems ∧ InTurn cutElems 7 layOp ∧
    dEmpty layOp.desc = false ∧ pimBusy cutElems layOp.desc = false := by decide

/-- Each byte of the source holds 0x5A. -/
theorem dRead_cutElems : List.replicate 32 0x5A = dRead cutElems 0x1020 32 := by decide

/-- No element of the source is 0, and the row that is laid of them holds ones. -/
theorem layBanks_source :
    nmGet 0 (layBanks (dDst layOp.desc) (dField layOp.desc 49 1) (transposeBanks (dDst layOp.desc) (dCount layOp.desc))
      (chunks 8192 (((((chunks (fmtBits (dSfmt layOp.desc) / 8) (List.replicate 32 0x5A)).map leNat).take (dCount layOp.desc)).map
        (transposeInBits (dSfmt layOp.desc) (dField layOp.desc 49 1))).map (·.1))) cutElems).mem.prows 0 ≠ 0 := by
  decide

/-- The read of the sector at 0x1000 goes where the gather range maps 0x1000, and takes the elements from 0x1020 on from there too: zeros are
laid into the row. -/
theorem rowZero_cutElems : rowZero (exec (.transposeIn 7) cutElems) = 0 := by decide

end

/-- The source meets every condition of the statement. -/
theorem cutElems_source : SourceIs cutElems (dSrcSpace layOp.desc) (dSrc layOp.desc)
    (operandBytes (dSfmt layOp.desc) (dCount layOp.desc)) (List.replicate 32 0x5A) := by
  obtain ⟨hspace, hsrc, hbytes⟩ := layOp_fields
  rw [hspace, hsrc, hbytes]
  have hplain : PlainSrc cutElems 0x1020 32 := by decide
  exact .inr ⟨rfl, 0x1020, by decide, hplain, dRead_cutElems⟩

/-- Refutes O24: the source need only lie outside every gather range, but the model reads whole 64 B sectors, each at the place to which
`gatherMap` takes its first byte. In `cutElems` no element of the source is 0; the sector that holds them is read from a gather copy that
nothing has written, and TRANSPOSE_IN lays zeros into the row. -/
theorem not_transposeInLaysRows : ¬ Obligations.TransposeInLaysRows := by
  unfold Obligations.TransposeInLaysRows
  intro h
  obtain ⟨hready, hgroup, hturn, hfull, hserved⟩ := cutElems_ready
  obtain ⟨u, hu, hrows, -⟩ := h cutElems 7 layOp (List.replicate 32 0x5A) hready hgroup hturn hfull hserved cutElems_source
  have hlaid : rowZero (exec (.transposeIn 7) cutElems) = nmGet 0 u.mem.prows 0 := (congrArg rowZero hu).trans (rowZero_complete _ _ _)
  rw [rowZero_cutElems, hrows] at hlaid
  exact layBanks_source hlaid.symm

end Sys2Proof.Machine
end

section
/-! PROOFS. Moves between the tiers: what MIGRATE reserves, what PIN ends, and what the switch of a unit leaves (SPEC.md, section 12). -/

namespace Sys2Proof.Machine

/-! ### MIGRATE and PIN 0 (R495 to R497) -/

/-- Without a transaction group nothing holds up the common start of a data command. -/
theorem joinGroup_groupless {s : State} (hg : Groupless s) (o : Op) (k : Outcome) : joinGroup s o k = k := by
  simp [joinGroup, groupConflict, beginPending_groupless hg, groupOf_groupless hg]

theorem farDst_migrate {p : Plane} {d : BitVec 512} (h : dOpcode d = opMigrate) : farDst p d = false := by rw [farDst, h]; rfl

/-- The state in which the units of a range have their frames reserved. -/
def reserved (s : State) (o : Op) (a n tier : Nat) : State :=
  updTier s fun t => { t with moves := t.moves ++ reserveMoves o.handle tier (unitsToMove s a n tier) (freeFrames s tier) }

section
variable {s : State} {o : Op} {a n tier : Nat}

theorem startMoves_short (h : (freeFrames s tier).length < (unitsNeedFrame s a n tier).length) :
    startMoves s o a n tier false = .done s (resSt stLimit) :=
  if_neg (Nat.not_le.2 h)

theorem startMoves_none (h : (unitsNeedFrame s a n tier).length ≤ (freeFrames s tier).length) (hnone : unitsToMove s a n tier = []) :
    startMoves s o a n tier false = .done (reserved s o a n tier) resOk :=
  (if_pos h).trans (if_pos (List.isEmpty_iff.2 hnone))

theorem startMoves_some (h : (unitsNeedFrame s a n tier).length ≤ (freeFrames s tier).length) (hsome : unitsToMove s a n tier ≠ []) :
    startMoves s o a n tier false =
      .go (updOp (reserved s o a n tier) o.handle fun x => { x with status := stOk, res1 := 0 }) :=
  (if_pos h).trans (if_neg (mt List.isEmpty_iff.1 hsome))

theorem tryMigrate_here (hg : Groupless s) (he : dEmpty o.desc = false) (ha : localAddr s.cfg.live (dSrc o.desc) = some a) :
    tryMigrate s o =
      if dField o.desc 48 1 = 1 ∧ ∃ u ∈ blocksOf 65536 a (dCount o.desc), u ∈ s.units.tier.pins then .done s (resSt stBusy)
      else startMoves s o a (dCount o.desc) (dField o.desc 48 1) false := by
  simp [tryMigrate, joinGroup_groupless hg, he, ha]

/-- The state that PIN 0 leaves: no unit of the range is pinned, and no line of it protected. -/
def unpinned (s : State) (a n : Nat) : State :=
  unprotect (updTier s fun t => { t with pins := t.pins.filter fun u => !(blocksOf 65536 a n).contains u }) a n

theorem mem_pins_unpinned (k : Nat) : k ∈ (unpinned s a n).units.tier.pins ↔ k ∈ s.units.tier.pins ∧ k ∉ blocksOf 65536 a n := by
  simp [unpinned, unprotect, updTier]

theorem tryPin_unpins (hg : Groupless s) (he : dEmpty o.desc = false) (ha : localAddr s.cfg.live (dDst o.desc) = some a)
    (hpin : dField o.desc 48 1 = 0) : tryPin s o = .done (unpinned s a (dCount o.desc)) resOk := by
  simp [tryPin, joinGroup_groupless hg, he, ha, hpin, unpinned]

end

/-! ### The copy of a unit and its new frame (R498) -/

theorem catchUps_tier (l : List Nat) (s : State) : (l.foldl catchUp s).units.tier = s.units.tier :=
  List.foldlRecOn l catchUp (motive := fun t => t.units.tier = s.units.tier) rfl fun t ht c _ => by
    rw [← ht]
    unfold catchUp
    split <;> rfl

theorem releaseHold_tier (s : State) (a n : Nat) : (releaseHold s a n).units.tier = s.units.tier := by
  unfold releaseHold
  split
  · rfl
  · exact catchUps_tier _ _

theorem onlyCache_dropHomeLines {s : State} (hs : NoFailed s) (u : Nat) : OnlyCache s (dropHomeLines s u) := by
  unfold dropHomeLines flushLines
  dsimp only
  rw [List.foldl_fixed' (writeBack_intact hs)]
  rfl

/-- The engine of a move has counted its copy. -/
def copyCounted (s : State) (mv : Nat × Nat × Word) : State :=
  let off := dieBase (4 + moveEngine s mv) + 0x204
  let w := regGet s off 0
  regSet s off (BitVec.ofNat 32 (satTo 0xFFFFFF (w.toNat / 256 + 1) * 256 + w.toNat % 256))

/-- The state in which a unit lies in its new frame, before the copy has left its code words and marks there. -/
def arrived (s : State) (mv : Nat × Nat × Word) : State :=
  let a := mv.1 * 65536
  releaseHold (moved (dropHomeLines (releaseHold (copyCounted s mv) a 65536) mv.1) mv) a 65536

/-- What the copy leaves in the new frame: code words, and in the fast tier the marks of poison. -/
def copyLeft (s : State) (mv : Nat × Nat × Word) : State :=
  let a := mv.1 * 65536
  let s := { s with mem := { s.mem with flips := mendSectors s a 65536 } }
  if frameTier mv.2.1 = 0 then markUnit s a else s

theorem moved_tier {s t : State} (h : t.units.tier = s.units.tier) (mv : Nat × Nat × Word) :
    (moved t mv).units.tier = (moved s mv).units.tier := by
  simp [moved, updTier, h]

/-- A copy between frames that serve changes no memory, and of the tier only what the move says. -/
theorem arrived_keeps {s : State} (hs : NoFailed s) (mv : Nat × Nat × Word) :
    (arrived s mv).mem = s.mem ∧ (arrived s mv).units.tier = (moved s mv).units.tier ∧ NoFailed (arrived s mv) := by
  unfold arrived
  extract_lets a
  have hread : NoFailed (releaseHold (copyCounted s mv) a 65536) := releaseHold_noFailed _ a 65536 hs
  have hdrop := onlyCache_dropHomeLines hread mv.1
  refine ⟨?_, ?_, releaseHold_noFailed _ _ _ (hdrop.noFailed hread)⟩
  · rw [releaseHold_mem]
    exact hdrop.mem.trans (releaseHold_mem _ a 65536)
  · rw [releaseHold_tier]
    refine moved_tier ?_ mv
    rw [hdrop]
    exact releaseHold_tier _ a 65536

/-- Where every stored sector is its code word a write has none to mend. -/
theorem mendSectors_clean {s : State} (h : s.mem.flips = []) (a n : Nat) : mendSectors s a n = s.mem.flips := by simp [mendSectors, h]

/-- Where nothing has failed the read of the old frame finds nothing, and the copy leaves marks alone. -/
theorem switchUnit_eq {s : State} (hs : NoFailed s) (mv : Nat × Nat × Word) :
    switchUnit s mv = if mv.2.1 < capBase then markUnit (arrived s mv) (mv.1 * 65536) else arrived s mv := by
  have hfast : frameTier mv.2.1 = 0 ↔ mv.2.1 < capBase := by unfold frameTier; split <;> simp [*]
  have hread : reach (copyCounted s mv) [(mv.1 * 65536, 65536)] = releaseHold (copyCounted s mv) (mv.1 * 65536) 65536 :=
    detectRead_clean _ _ _ (releaseHold_noFailed _ _ _ hs)
  obtain ⟨-, -, -, hflips, -⟩ := arrived_keeps hs mv
  calc switchUnit s mv
    _ = copyLeft (releaseHold (moved (dropHomeLines (reach (copyCounted s mv) [(mv.1 * 65536, 65536)]) mv.1) mv) (mv.1 * 65536) 65536) mv := rfl
    _ = copyLeft (arrived s mv) mv := by rw [hread]; rfl
    _ = if mv.2.1 < capBase then markUnit (arrived s mv) (mv.1 * 65536) else arrived s mv := by
      simp only [copyLeft, mendSectors_clean hflips, hfast]

/-! ### The mark of poison in the fast tier (R550, R551) -/

theorem markArray_serving {s : State} (hs : NoFailed s) (g : Nat) : markArray s g = setArray s (64 * g) (List.replicate 64 0) := by
  have hflips : (setArray s (64 * g) (List.replicate 64 0)).mem.flips = [] := hs.2.1
  rw [markArray, if_neg (ne_true_of_eq_false (failedAt_false hs _))]
  simp only [mendSectors_clean hflips]

/-- A marked granule reads as zeros, and every other byte as before. -/
theorem memGet_markArray {s : State} (hs : NoFailed s) (g x : Nat) :
    memGet (markArray s g).mem.cells x = if x / 64 = g then 0 else memGet s.mem.cells x := by
  rw [markArray_serving hs]
  refine (memGet_memWrite _ _ _ _).trans ?_
  rw [List.length_replicate]
  by_cases hx : x / 64 = g
  · rw [if_pos hx, if_pos (by omega)]
    simp only [List.getD_eq_getElem?_getD, List.getElem?_replicate]
    split <;> rfl
  · rw [if_neg hx, if_neg (by omega)]

theorem markArray_rest {s : State} (hs : NoFailed s) (g : Nat) : NoFailed (markArray s g) ∧ (markArray s g).mem.written = s.mem.written ∧
    (markArray s g).mem.poison = s.mem.poison ∧ (markArray s g).units = s.units := by
  rw [markArray_serving hs]
  exact ⟨hs, rfl, rfl, rfl⟩

/-- Marks in the arrays change bytes of the granules marked, and nothing else of the memory or the units. -/
theorem markArrays_keeps (l : List Nat) {s : State} (hs : NoFailed s) :
    (∀ x, memGet (l.foldl markArray s).mem.cells x = if x / 64 ∈ l then 0 else memGet s.mem.cells x) ∧
    (l.foldl markArray s).mem.written = s.mem.written ∧ (l.foldl markArray s).mem.poison = s.mem.poison ∧
    (l.foldl markArray s).units = s.units := by
  induction l generalizing s with
  | nil => exact ⟨fun x => (if_neg List.not_mem_nil).symm, rfl, rfl, rfl⟩
  | cons g l ih =>
    obtain ⟨hserve, hwritten', hpoison', hunits'⟩ := markArray_rest hs g
    obtain ⟨hcells, hwritten, hpoison, hunits⟩ := ih hserve
    refine ⟨fun x => (hcells x).trans ?_, hwritten.trans hwritten', hpoison.trans hpoison', hunits.trans hunits'⟩
    rw [memGet_markArray hs]
    by_cases hl : x / 64 ∈ l <;> simp [hl]

/-- Where a bridge lists every poisoned granule, a unit that comes to the fast tier has its poisoned granules marked and no more. -/
theorem markUnit_keeps {s : State} (hs : NoFailed s) (a : Nat) :
    (∀ x, memGet (markUnit s a).mem.cells x =
      if a ≤ x / 64 * 64 ∧ x / 64 * 64 < a + 65536 ∧ x / 64 ∈ s.mem.poison then 0 else memGet s.mem.cells x) ∧
    (markUnit s a).mem.written = s.mem.written ∧ (markUnit s a).mem.poison = s.mem.poison ∧
    (markUnit s a).units.tier = s.units.tier := by
  obtain ⟨hchans, hflips, hlinks, hlisted⟩ := hs
  have hsame : markUnit s a = (s.mem.poison.filter fun g => inRange (64 * g) a 65536).foldl markArray s := by
    have hlist (l : List Nat) : setUnlisted s (s.units.tier.unlisted.filter fun g => !l.contains g) = s := by
      rw [hlisted, List.filter_nil, ← hlisted]
      rfl
    rw [markUnit]
    split
    · next hnone => rw [List.isEmpty_iff.1 hnone]; rfl
    · rw [hlist]
  obtain ⟨hcells, hwritten, hpoison, hunits⟩ :=
    markArrays_keeps (s.mem.poison.filter fun g => inRange (64 * g) a 65536) ⟨hchans, hflips, hlinks, hlisted⟩
  rw [hsame]
  refine ⟨fun x => (hcells x).trans (if_congr ?_ rfl rfl), hwritten, hpoison, congrArg _ hunits⟩
  simp only [List.mem_filter, inRange, Bool.and_eq_true, decide_eq_true_eq, Nat.mul_comm 64]
  tauto

/-! ### UNIT_SWITCH -/

/-- What the switch of a unit does to the memory and the tier. -/
theorem switchUnit_keeps {s : State} (hs : NoFailed s) (mv : Nat × Nat × Word) :
    (∀ x, memGet (switchUnit s mv).mem.cells x =
      if mv.2.1 < capBase ∧ mv.1 * 65536 ≤ x / 64 * 64 ∧ x / 64 * 64 < (mv.1 + 1) * 65536 ∧ x / 64 ∈ s.mem.poison then 0
      else memGet s.mem.cells x) ∧
    (switchUnit s mv).mem.written = s.mem.written ∧ (switchUnit s mv).mem.poison = s.mem.poison ∧
    (switchUnit s mv).units.tier = (moved s mv).units.tier := by
  obtain ⟨hmem, htier, hserve⟩ := arrived_keeps hs mv
  rw [switchUnit_eq hs, Nat.succ_mul]
  split
  · next hfast =>
    obtain ⟨hcells, hwritten, hpoison, hkept⟩ := markUnit_keeps hserve (mv.1 * 65536)
    rw [hmem] at hcells hwritten hpoison
    exact ⟨by simpa only [hfast, true_and] using hcells, hwritten, hpoison, hkept.trans htier⟩
  · next hfast => rw [hmem]; exact ⟨fun x => (if_neg fun h => hfast h.1).symm, rfl, rfl, htier⟩

/-- The copy that is under way completes, and with it at most the command that moved the unit. -/
theorem unitSwitch_switches {s : State} {u : Nat} {mv : Nat × Nat × Word} (hmv : (movesUnderWay s).find? (fun m => m.1 = u) = some mv)
    (hgo : copyWaits s mv = false) : ∃ t, unitSwitch u s = settle (serveHeld t) ∧ OnlyOps (switchUnit s mv) t := by
  unfold unitSwitch
  rw [hmv]
  dsimp only
  rw [if_neg (ne_true_of_eq_false hgo)]
  refine ⟨_, rfl, ?_⟩
  split
  · exact .refl _
  · split
    · exact onlyOps_finishOp _ _ _
    · exact .refl _

/-- A unit that is moved lies in its new frame, or has its own again; every other unit lies where it lay. -/
theorem moved_placed (s : State) (mv : Nat × Nat × Word) (k : Nat) : nmGet? (moved s mv).units.tier.placed k =
    if k = mv.1 then (if mv.2.1 = mv.1 * 65536 then none else some mv.2.1) else nmGet? s.units.tier.placed k := by
  unfold moved updTier
  dsimp only
  split
  · exact nmGet?_nmErase _ _ _
  · exact nmGet?_nmSet _ _ _ _

/-- Settles O42: every branch of MIGRATE is one of `startMoves`, PIN 0 filters the pins, and a switch keeps the memory but for the marks
that `markUnit` makes. -/
theorem tierMoves : Obligations.TierMoves := by
  unfold Obligations.TierMoves
  refine ⟨fun s h o a ho hg he ha => ?_, fun s h o a ho hg ht he ha hpin => ?_, fun s u mv hmv hgo hs => ?_⟩
  · intro tier us
    have hfar {t : State} : farDst t.cfg.live o.desc = false := farDst_migrate ho.2.1
    have htry := tryMigrate_here (o := begunOp o) (groupless_begun hg h) he ha
    have hdone {t : State} {r : Res} (hf : tryMigrate (begun s h) (begunOp o) = .done t r) : Goes (.migrate h) s (complete t o r) :=
      congrArg Host.Outcome.next (runCommand_done ho hf (finalOwed_false _ _ _ (.inl hfar)))
    refine ⟨fun ht hpin => hdone (htry.trans (if_pos ⟨ht, hpin⟩)), fun hfree => ?_⟩
    replace htry := htry.trans (if_neg fun ⟨ht, x, hx, hpin⟩ => hfree ht x hx hpin)
    refine ⟨fun hshort => hdone (htry.trans (startMoves_short hshort)), fun hroom => ?_⟩
    by_cases hnone : us = []
    · exact ⟨reserved (begun s h) o a (dCount o.desc) tier, fun _ => hdone (htry.trans (startMoves_none hroom hnone)), (absurd hnone ·),
        rfl, rfl, rfl, rfl, rfl⟩
    · exact ⟨_, (absurd · hnone), fun _ => congrArg Host.Outcome.next (runCommand_go ho (htry.trans (startMoves_some hroom hnone))),
        rfl, rfl, rfl, rfl, rfl⟩
  · have hf := tryPin_unpins (o := begunOp o) (groupless_begun hg h) he ha hpin
    exact ⟨_, congrArg Host.Outcome.next (runData_ok ho ht hf rfl), mem_pins_unpinned, rfl, rfl⟩
  · obtain ⟨t, ht, hops⟩ := unitSwitch_switches hmv hgo
    obtain ⟨hcells, hwritten, hpoison, htier⟩ := switchUnit_keeps hs mv
    have hkept : t.units.tier = (moved s mv).units.tier := by rw [hops.units]; exact htier
    have hplaced (k : Nat) := hkept ▸ moved_placed s mv k
    refine ⟨t, congrArg Host.Outcome.next ht, by rw [hops.mem]; exact hcells, by rw [hops.mem]; exact hwritten,
      by rw [hops.mem]; exact hpoison, congrArg TierUnits.moves hkept, (hplaced _).trans (if_pos rfl),
      fun k hk => (hplaced k).trans (if_neg hk)⟩

end Sys2Proof.Machine
end
